-- ==== Sys2Proof/Word.lean ====
section
/-! DEFINITION. Word.lean: the machine's word types and sparse tables with one canonical form.
A register is 64 bits (spec/00_scope.md R18), memory is made of bytes (R3). Everything that a test
could show wrong (sign extension, byte order, field cutting) is in Machine/Bits.lean, not here. -/

namespace Sys2Proof

/-- A 64-bit register or address (R18). -/
abbrev Word := BitVec 64
/-- One byte of memory (R3). -/
abbrev Byte := BitVec 8

/-- A table of values by number. `get d t k` reads entry `k`, where `d` is what an unlisted entry
reads as. Canonical form: keys strictly rising and no entry equal to `d`. -/
abbrev Tab (α : Type) := List (Nat × α)

namespace Tab

variable {α : Type}

/-- The value of entry `k`; an unlisted entry reads as `d`. -/
def get (d : α) : Tab α → Nat → α
  | [], _ => d
  | (j, v) :: t, k => if k = j then v else if k < j then d else get d t k

/-- Remove entry `k`. -/
def del : Tab α → Nat → Tab α
  | [], _ => []
  | (j, v) :: t, k => if k = j then t else if k < j then (j, v) :: t else (j, v) :: del t k

/-- Place entry `k`, keeping the keys in order. -/
def ins : Tab α → Nat → α → Tab α
  | [], k, v => [(k, v)]
  | (j, w) :: t, k, v =>
    if k = j then (k, v) :: t else if k < j then (k, v) :: (j, w) :: t else (j, w) :: ins t k v

/-- Write entry `k`. Writing what an unlisted entry reads as removes the entry. -/
def set [DecidableEq α] (d : α) (t : Tab α) (k : Nat) (v : α) : Tab α :=
  if v = d then del t k else ins t k v

/-- Change every listed entry. -/
def mapVals [DecidableEq α] (d : α) (t : Tab α) (f : α → α) : Tab α :=
  t.foldl (fun u p => set d u p.1 (f p.2)) t

/-- Every key of the table is above `n`. -/
def above (n : Nat) : Tab α → Bool
  | [] => true
  | (j, _) :: _ => decide (n < j)

/-- The canonical form: keys strictly rising, no entry equal to `d`. -/
def wf [DecidableEq α] (d : α) : Tab α → Bool
  | [] => true
  | (j, v) :: t => decide (v ≠ d) && above j t && wf d t

end Tab

end Sys2Proof
end

