-- ==== Sys2Proof/Machine/Bits.lean ====
section
/-! DEFINITION. Machine/Bits.lean: reading integers out of bits, byte order, and the elements of
vectors (R3, R11, R12, R158). -/

namespace Sys2Proof

/-- `sext(x, n)` of Table 0.4 on a natural number. -/
def sextN (n x : Nat) : Int :=
  let y := x % 2 ^ n
  if n = 0 then 0 else if y < 2 ^ (n - 1) then (y : Int) else (y : Int) - (2 ^ n : Nat)

/-- An integer reduced modulo 2^n (R11). -/
def wrapN (n : Nat) (x : Int) : Nat := (x % ((2 ^ n : Nat) : Int)).toNat

/-- `sat(x, lo, hi)` of Table 0.4. -/
def satI (x lo hi : Int) : Int := if x < lo then lo else if x > hi then hi else x

/-- Bytes of a number, lowest first (R3). -/
def bytesOf : Nat → Nat → List Byte
  | 0, _ => []
  | k + 1, x => BitVec.ofNat 8 x :: bytesOf k (x / 256)

/-- The number that bytes hold, lowest first (R3). -/
def ofBytes : List Byte → Nat
  | [] => 0
  | b :: t => b.toNat + 256 * ofBytes t

/-- Element `i` of `bits` bits of a number. -/
def eltN (bits x i : Nat) : Nat := x / 2 ^ (bits * i) % 2 ^ bits

/-- The number whose elements of `bits` bits are given, lowest first. -/
def packN (bits : Nat) : List Nat → Nat
  | [] => 0
  | e :: t => e % 2 ^ bits + 2 ^ bits * packN bits t

/-- `l` with elements taken from `f` by index. -/
def tabulate {α : Type} (n : Nat) (f : Nat → α) : List α := (List.range n).map f

/-- The number whose low `n` bits are 1. -/
def onesN (n : Nat) : Nat := 2 ^ n - 1

/-- Whether bit `k` of a number is set. -/
def bitN (x k : Nat) : Bool := x.testBit k

/-- Element `k` of a list of numbers, 0 past its end. -/
def nth0 (l : List Nat) (k : Nat) : Nat := l.getD k 0

/-- `l` with element `k` replaced; a `k` past the end changes nothing. -/
def setNth {α : Type} (l : List α) (k : Nat) (v : α) : List α := l.set k v

/-- `l` without its element `k`. -/
def dropNth {α : Type} (l : List α) (k : Nat) : List α := l.eraseIdx k

/-- The widening of a mask of one bit per element to `k` bits per element. -/
def spread (k n mask : Nat) : Nat :=
  packN k (tabulate n fun i => if bitN mask i then onesN k else 0)

end Sys2Proof
end

