-- ==== Sys2Proof/Machine/Digest.lean ====
section
/-! DEFINITION. Machine/Digest.lean: the random-bit generator (spec/05_numbers.md R149), CRC-32C (R288), SHA3-256 (R430,
R450, R460, R462) and AES-256-GCM (R427). -/

namespace Sys2Proof

/-! ## The generator (R149) -/

/-- One round on x0 to x3 under keys k0, k1. -/
def genRound (x : BitVec 32 × BitVec 32 × BitVec 32 × BitVec 32) (k0 k1 : BitVec 32) :
    BitVec 32 × BitVec 32 × BitVec 32 × BitVec 32 :=
  let p : Word := 0xD2511F53 * x.1.setWidth 64
  let q : Word := 0xCD9E8D57 * x.2.2.1.setWidth 64
  (q.extractLsb' 32 32 ^^^ x.2.1 ^^^ k0, q.extractLsb' 0 32,
   p.extractLsb' 32 32 ^^^ x.2.2.2 ^^^ k1, p.extractLsb' 0 32)

/-- `n` rounds. -/
def genRounds : Nat → BitVec 32 × BitVec 32 × BitVec 32 × BitVec 32 → BitVec 32 → BitVec 32 →
    BitVec 32 × BitVec 32 × BitVec 32 × BitVec 32
  | 0, x, _, _ => x
  | n + 1, x, k0, k1 => genRounds n (genRound x k0 k1) (k0 + 0x9E3779B9) (k1 + 0xBB67AE85)

/-- gen_block(j): words 2j and 2j + 1 (R149). [PRESUMED, unsafe: log 23] -/
def genBlock (seed : Word) (stream lane : BitVec 32) (j : Word) : Word × Word :=
  let x := genRounds 10 (j.extractLsb' 0 32, j.extractLsb' 32 32, stream, lane)
    (seed.extractLsb' 0 32) (seed.extractLsb' 32 32)
  (x.2.1 ++ x.1, x.2.2.2 ++ x.2.2.1)

/-! ## CRC-32C -/

/-- Eight steps of the reflected CRC with the Castagnoli polynomial. -/
def crcBits : Nat → BitVec 32 → BitVec 32
  | 0, c => c
  | n + 1, c => crcBits n (if c.getLsbD 0 then (c >>> 1) ^^^ 0x82F63B78 else c >>> 1)

/-- CRC-32C of a byte string (RFC 3720: initial value and final inversion all ones). [PRESUMED, unsafe: log 23] -/
def crc32c (l : List Byte) : BitVec 32 :=
  ~~~(l.foldl (fun c b => crcBits 8 (c ^^^ b.setWidth 32)) 0xFFFFFFFF)

/-! ## SHA3-256 (FIPS 202) -/

namespace Keccak

/-- Lane (x, y) is element x + 5y. -/
abbrev St := List Word

def lane (a : St) (x y : Nat) : Word := a.getD (x % 5 + 5 * (y % 5)) 0

def make (f : Nat → Nat → Word) : St := tabulate 25 fun i => f (i % 5) (i / 5)

/-- Rotation offsets of ρ by lane x + 5y. -/
def offsets : List Nat :=
  [0, 1, 62, 28, 27, 36, 44, 6, 55, 20, 3, 10, 43, 25, 39, 41, 45, 15, 21, 8, 18, 2, 61, 56, 14]

/-- Round constants of ι. -/
def consts : List Word :=
  [0x0000000000000001, 0x0000000000008082, 0x800000000000808A, 0x8000000080008000,
   0x000000000000808B, 0x0000000080000001, 0x8000000080008081, 0x8000000000008009,
   0x000000000000008A, 0x0000000000000088, 0x0000000080008009, 0x000000008000000A] ++
  [0x000000008000808B, 0x800000000000008B, 0x8000000000008089, 0x8000000000008003,
   0x8000000000008002, 0x8000000000000080, 0x000000000000800A, 0x800000008000000A,
   0x8000000080008081, 0x8000000000008080, 0x0000000080000001, 0x8000000080008008]

/-- One round: θ, ρ, π, χ, ι. -/
def round (a : St) (rc : Word) : St :=
  let c := tabulate 5 fun x =>
    lane a x 0 ^^^ lane a x 1 ^^^ lane a x 2 ^^^ lane a x 3 ^^^ lane a x 4
  let d := tabulate 5 fun x => c.getD ((x + 4) % 5) 0 ^^^ (c.getD ((x + 1) % 5) 0).rotateLeft 1
  let t := make fun x y => lane a x y ^^^ d.getD x 0
  let b := make fun x y =>
    let x' := (x + 3 * y) % 5
    (lane t x' x).rotateLeft (offsets.getD (x' + 5 * x) 0)
  let e := make fun x y => lane b x y ^^^ (~~~(lane b (x + 1) y) &&& lane b (x + 2) y)
  make fun x y => if x = 0 ∧ y = 0 then lane e 0 0 ^^^ rc else lane e x y

def perm (a : St) : St := consts.foldl round a

/-- Absorb blocks of 136 bytes, at most `fuel` of them. -/
def absorb : Nat → St → List Byte → St
  | 0, a, _ => a
  | n + 1, a, l =>
    if l.length = 0 then a
    else
      let blk := l.take 136
      let m := tabulate 25 fun i =>
        if i < 17 then BitVec.ofNat 64 (ofBytes ((blk.drop (8 * i)).take 8)) else 0
      absorb n (perm (List.zipWith (fun x y => x ^^^ y) a m)) (l.drop 136)

end Keccak

/-- SHA3-256: the 32 digest bytes, byte 0 first. [PRESUMED, unsafe: log 23] -/
def sha3 (l : List Byte) : List Byte :=
  let pad := 136 - l.length % 136
  let tail : List Byte :=
    if pad = 1 then [0x86] else 0x06 :: (List.replicate (pad - 2) 0 ++ [0x80])
  let a := Keccak.absorb (l.length / 136 + 1) (List.replicate 25 0) (l ++ tail)
  (a.take 4).flatMap fun w => bytesOf 8 w.toNat

/-! ## AES-256 (FIPS 197) -/

namespace Aes

/-- Multiplication by x modulo x^8 + x^4 + x^3 + x + 1. -/
def xtime (a : Byte) : Byte := (a <<< 1) ^^^ (if a.getLsbD 7 then 0x1B else 0)

/-- Multiplication, by the low `n` bits of the second factor. -/
def mul : Nat → Byte → Byte → Byte
  | 0, _, _ => 0
  | n + 1, a, b => (if b.getLsbD 0 then a else 0) ^^^ mul n (xtime a) (b >>> 1)

/-- x^254, the inverse: the product of x^2, x^4, up to x^128. -/
def inv (x : Byte) : Byte :=
  ((List.range 7).foldl (fun (p : Byte × Byte) _ => let q := mul 8 p.2 p.2; (mul 8 p.1 q, q)) (1, x)).1

def sbox (x : Byte) : Byte :=
  let b := inv x
  b ^^^ b.rotateLeft 1 ^^^ b.rotateLeft 2 ^^^ b.rotateLeft 3 ^^^ b.rotateLeft 4 ^^^ 0x63

def xorBytes (a b : List Byte) : List Byte := List.zipWith (fun x y => x ^^^ y) a b

/-- Word `i` of the key schedule, from the words before it, the last one first. -/
def nextWord (i : Nat) (l : List (List Byte)) : List Byte :=
  let t := l.headD []
  let t := if i % 8 = 0 then xorBytes ((t.drop 1 ++ t.take 1).map sbox) [BitVec.ofNat 8 (2 ^ (i / 8 - 1)), 0, 0, 0]
    else if i % 8 = 4 then t.map sbox
    else t
  xorBytes (l.getD 7 []) t

/-- The 15 round keys, 16 bytes each, one after the other. -/
def roundKeys (key : List Byte) : List Byte :=
  let first := (List.range 8).map fun i => (key.drop (4 * i)).take 4
  ((List.range 52).foldl (fun l i => nextWord (8 + i) l :: l) first.reverse).reverse.flatten

/-- Byte `i` of a block is row `i mod 4` of column `i / 4`. -/
def shiftRows (b : List Byte) : List Byte := (List.range 16).map fun i => b.getD (i % 4 + 4 * ((i / 4 + i % 4) % 4)) 0

def mixColumns (b : List Byte) : List Byte := (List.range 16).map fun i =>
  let x (j : Nat) : Byte := b.getD (i / 4 * 4 + (i + j) % 4) 0
  xtime (x 0) ^^^ (xtime (x 1) ^^^ x 1) ^^^ x 2 ^^^ x 3

/-- A block enciphered. [PRESUMED, unsafe: log 80] -/
def cipher (key block : List Byte) : List Byte :=
  let k := roundKeys key
  let rk (i : Nat) : List Byte := (k.drop (16 * i)).take 16
  let mid := (List.range 13).foldl (fun b i => xorBytes (mixColumns (shiftRows (b.map sbox))) (rk (i + 1)))
    (xorBytes block (rk 0))
  xorBytes (shiftRows (mid.map sbox)) (rk 14)

end Aes

/-! ## GCM (NIST SP 800-38D) -/

namespace Gcm

/-- A number of `n` bytes, the most significant first. -/
def bytesBE (n v : Nat) : List Byte := (bytesOf n v).reverse
def ofBytesBE (l : List Byte) : Nat := ofBytes l.reverse

/-- The product of two blocks, each with its first bit most significant, by the high `n` bits of the first. -/
def mul : Nat → BitVec 128 → BitVec 128 → BitVec 128
  | 0, _, _ => 0
  | n + 1, x, v =>
    (if x.msb then v else 0) ^^^ mul n (x <<< 1) ((v >>> 1) ^^^ (if v.getLsbD 0 then 0xE1 <<< 120 else 0))

/-- GHASH over whole blocks. -/
def ghash (h : BitVec 128) (blocks : List (BitVec 128)) : BitVec 128 := blocks.foldl (fun y b => mul 128 (y ^^^ b) h) 0

/-- The block enciphered from counter `n` of a 96-bit IV, the first byte most significant. -/
def counted (key : BitVec 256) (iv : BitVec 96) (n : Nat) : BitVec 128 :=
  BitVec.ofNat 128 (ofBytesBE (Aes.cipher (bytesBE 32 key.toNat) (bytesBE 12 iv.toNat ++ bytesBE 4 n)))

/-- The key stream over 64-byte flit `i` of a packet: four blocks, the first counter 2. Flit byte 0 takes the first byte.
[PRESUMED, unsafe: log 80] -/
def pad (key : BitVec 256) (iv : BitVec 96) (i : Nat) : BitVec 512 :=
  BitVec.ofNat 512 (ofBytes ((List.range 4).flatMap fun j => bytesBE 16 (counted key iv (2 + 4 * i + j)).toNat))

/-- The tag of the sealed flits of a packet; nothing else is authenticated. Its first byte is flit byte 0.
[PRESUMED, unsafe: log 80] -/
def tag (key : BitVec 256) (iv : BitVec 96) (l : List (BitVec 512)) : BitVec 128 :=
  let h := BitVec.ofNat 128 (ofBytesBE (Aes.cipher (bytesBE 32 key.toNat) (List.replicate 16 0)))
  let blocks := l.flatMap fun f => (List.range 4).map fun j =>
    BitVec.ofNat 128 (ofBytesBE (((bytesOf 64 f.toNat).drop (16 * j)).take 16))
  let y := ghash h (blocks ++ [BitVec.ofNat 128 (512 * l.length)])
  BitVec.ofNat 128 (ofBytes (bytesBE 16 (y ^^^ counted key iv 1).toNat))

end Gcm

end Sys2Proof
end

