-- ==== Sys2Proof/Syntax.lean ====
section
/-! DEFINITION. Syntax.lean: the operand forms, the data that an event carries from outside the
module, and the instructions: one constructor of `Instr` per row of spec/opcode_table.json. -/

namespace Sys2Proof

/-! ## Operands of the slots -/

/-- The special values of Table 2.7 (R50), codes 48 to 60. -/
inductive Special where
  | zero | one | ones | lane | member | ctxid | core | die | pc | ticket | region | dx | dy
  deriving DecidableEq, Repr

/-- A six-bit source selector (Table 2.7, R50). `latch u k` is latch `k` of the slot `u`
(0 S, 1 V0, 2 V1, 3 X). `bad` holds a reserved code, which well-formedness refuses (R51). -/
inductive Src where
  | reg (n : BitVec 5)
  | latch (u : BitVec 2) (k : Bool)
  | special (p : Special)
  | bad (code : BitVec 6)
  deriving DecidableEq, Repr

/-- A six-bit destination field (R52): a register, the suppressed destination written "-", or the
misuse of the suppress bit (non-zero low bits beside it), which well-formedness refuses. -/
inductive Dst where
  | reg (n : BitVec 5)
  | drop
  | bad (n : BitVec 5)
  deriving DecidableEq, Repr

/-- ORD of Table 2.4. -/
inductive Ord where
  | plain | acquire | release | acqRel
  deriving DecidableEq, Repr

/-- SCOPE of Table 2.4 (R15); the two reserved codes are kept so that they can be refused. -/
inductive Scope where
  | ctx | core | cluster | die | module | fabric | res6 | res7
  deriving DecidableEq, Repr

/-- HINT of Table 2.4; `res` holds the low bits of a reserved code. -/
inductive Hint where
  | normal | noalloc | stream | keep | res (k : BitVec 2)
  deriving DecidableEq, Repr

/-- SIZE of Table 2.4: 1, 2, 4 or 8 bytes; `res` holds the low bits of a reserved code. -/
inductive Size where
  | b1 | b2 | b4 | b8 | res (k : BitVec 2)
  deriving DecidableEq, Repr

/-- The modifier of LD and ST (Table 2.4, R96). -/
structure Mod where
  ord : Ord
  scope : Scope
  paths : BitVec 4
  hint : Hint
  size : Size
  deriving DecidableEq, Repr

/-- Integer element types of Table 2.12; the unsigned and signed rows share it. -/
inductive IntTy where
  | w8 | w16 | w32
  deriving DecidableEq, Repr
/-- Integer types of VMUL and VMULH. -/
inductive MulTy where
  | w16 | w32
  deriving DecidableEq, Repr
/-- IEEE element types of Table 2.12. -/
inductive FpTy where
  | f32 | f16 | bf16
  deriving DecidableEq, Repr
/-- Types of the reductions and scans. -/
inductive RedTy where
  | f32 | i32
  deriving DecidableEq, Repr
/-- Block formats of VQNT and VDQ. -/
inductive BlkTy where
  | sx2 | sx4 | sx8
  deriving DecidableEq, Repr
/-- The format codes of an M instruction (R49). -/
inductive MFmt where
  | e4m3 | e5m2 | int8 | sx2 | sx4 | sx8 | bf16 | f16
  deriving DecidableEq, Repr

/-- The operands that the copy and fabric commands share (R230): nest record, staging base,
counting flag, PRI and XORD. -/
structure COps where
  nest : BitVec 3
  sbase : BitVec 4
  flag : BitVec 4
  pri : Bool
  xord : Bool
  deriving DecidableEq, Repr

/-- The ordering fields of form XA (R48, R362). -/
structure XaOps where
  ord : Ord
  scope : Scope
  psel : BitVec 2
  deriving DecidableEq, Repr

/-! ## Data that events carry -/

/-- A fabric packet: its header (Table 14.3) and its data bytes. -/
structure Packet where
  dst : Nat
  src : Nat
  op : Nat
  resp : Bool
  esc : Bool
  epoch : Bool
  nmin : Bool
  igrp : Nat
  ghop2 : Bool
  gh : Nat
  last : Bool
  cen : Bool
  len : Nat
  roff : Nat
  coff : Nat
  xid : Nat
  value : Word
  handle : BitVec 256
  data : List Byte
  deriving DecidableEq, Repr

/-- A flit on the wire: 64 payload bytes and the control word of Table 14.1 (R405, R406).
`garbled` marks a flit that arrived garbled, whatever its bits; `lost` holds the lanes that fail at the same flit time
(R482). -/
structure Flit where
  payload : BitVec 512
  ctl : BitVec 64
  garbled : Bool
  lost : BitVec 8
  deriving DecidableEq, Repr

/-- Writable fields of the region control block (Table 1.3). -/
inductive RcbField where
  | prio | cores | diemask | ctxcl | det | domhalt | domain | spada | spadb | spadc | waymask
  | hbmsh | fabsh | spillq | leaseq | ovr | evqbase | evqsize | cnode
  deriving DecidableEq, Repr

/-- The arguments of a host message (Table 15.2 ARGS). The spec gives the layout of ARGS only for
SET-POWERCAP (R488); the arguments are therefore structured here. -/
inductive ReqArgs where
  | regionCreate (parent : Nat)
  | regionUpdate (fields : List (RcbField × Nat)) (resume : Bool)
  | regionDestroy
  | queueCreate (va logsz : Nat) (ticketMode push wake ctrl : Bool) (func : Nat) (anyf : Bool)
  | queueDestroy (qnum : Nat)
  | asCreate (raf : List (BitVec 128))
  | windowCreate (va bound : Nat) (wr rd ad : Bool)
  | windowDestroy (slot : Nat)
  | mapDevice (va pa len : Nat)
  | setRowthr (thr : Nat)
  | linkProtect (port : Nat)
  | vfBind (func : Nat) (bind : Bool) (entries : List (Nat × Nat × Bool × Bool))
  | peerWindow (k bus size : Nat)
  | graft (fn pa len : Nat)
  | setPowercap (watts : Nat)
  | none
  deriving DecidableEq, Repr

/-- A store to the message field of a function's BAR0: the 512-bit message, and its arguments (R445). -/
structure HostMessage where
  message : BitVec 512
  args : ReqArgs
  deriving DecidableEq, Repr

/-- A host message as F0 forwards it (Table 15.2). [DEDUCED, unsafe: log 60] -/
structure Req where
  op : Nat
  dest : Nat
  tag : Nat
  region : Nat
  func : Nat
  args : ReqArgs
  deriving DecidableEq, Repr

/-- One comparison's readings (Table 19.4, R489). Temperatures in degrees Celsius. -/
structure Reading where
  vin : Nat
  pin : Nat
  tin : Nat
  tout : Nat
  flow : Nat
  tdie : List Nat
  thub : Nat
  thbm : List Nat
  deriving DecidableEq, Repr

/-- A context class named by RESERVE (R261). -/
inductive CtxClass where
  | fg | bg
  deriving DecidableEq, Repr

/-- What the checks of a core detect (R286, R332): a single-bit ECC error, which they correct; an uncorrectable error of
the L1 line named; or any other error of an operation. -/
inductive DetectedError where
  | corrected | l1Line (line : Nat) | operation
  deriving DecidableEq, Repr

/-- A detected error and the context of its operation (R286). -/
structure CtxError where
  ctx : Nat
  error : DetectedError
  deriving DecidableEq, Repr

/-- A lane that a link reports: failed outright, or with `errors` in its interval (R409). -/
structure LaneReport where
  lane : Nat
  errors : Option Nat
  deriving DecidableEq, Repr

/-- The lanes that pass a retraining, by direction (R418). -/
structure LanePair where
  tx : BitVec 8
  rx : BitVec 8
  deriving DecidableEq, Repr

/-- What training leaves: the lanes that passed, F5's error threshold, and whether F7's policy protects the link (R403,
R409, R427). -/
structure Training where
  lanes : BitVec 8
  thr : Nat
  policy : Bool
  deriving DecidableEq, Repr

/-- A port's key of one direction: the incoming one, or the outgoing one (R428). -/
structure PortKey where
  port : Nat
  incoming : Bool
  deriving DecidableEq, Repr

/-! ## Instructions and events -/

/-- Every row of spec/opcode_table.json. The first group is read from bundles; the second group
holds the hardware's and the outside's own steps, in the table's order. Numbers `c` name a context
(2 × logical core id, plus 1 for the background), times `t` are in ns. -/
inductive Instr where
  -- header (R61, R42, R68)
  | pand (m : Bool) (d a b : BitVec 4)
  | por (m : Bool) (d a b : BitVec 4)
  | pxor (m : Bool) (d a b : BitVec 4)
  | pandn (m : Bool) (d a b : BitVec 4)
  | pnot (m : Bool) (d a : BitVec 4)
  | checkpointBundle
  | token (index : BitVec 9) (delta : BitVec 7)
  -- S slot (R62)
  | snop
  | add (d : Dst) (a b : Src)
  | sub (d : Dst) (a b : Src)
  | and (d : Dst) (a b : Src)
  | or (d : Dst) (a b : Src)
  | xor (d : Dst) (a b : Src)
  | shl (d : Dst) (a b : Src)
  | shr (d : Dst) (a b : Src)
  | asr (d : Dst) (a b : Src)
  | mul (d : Dst) (a b : Src)
  | mulh (d : Dst) (a b : Src)
  | mulhN64 (d : Dst) (a b : Src)
  | min (d : Dst) (a b : Src)
  | max (d : Dst) (a b : Src)
  | cmpeq (d : BitVec 6) (a b : Src)
  | cmpne (d : BitVec 6) (a b : Src)
  | cmplt (d : BitVec 6) (a b : Src)
  | cmple (d : BitVec 6) (a b : Src)
  | cmpltn (d : BitVec 6) (a b : Src)
  | sel (d : Dst) (a b : Src) (cf : BitVec 3)
  | fadd (d : Dst) (a b : Src)
  | fsub (d : Dst) (a b : Src)
  | fmul (d : Dst) (a b : Src)
  | fma (d : Dst) (a b : Src)
  | fdiv (d : Dst) (a b : Src)
  | fsqrt (d : Dst) (a : Src)
  | fcmpeq (d : BitVec 6) (a b : Src)
  | fcmplt (d : BitVec 6) (a b : Src)
  | fcmple (d : BitVec 6) (a b : Src)
  | fcvt (d : Dst) (a : Src) (code : BitVec 4)
  | ld (d : Dst) (a b : Src) (m : Mod)
  | st (x a b : Src) (m : Mod)
  | spld (d : Dst) (a b : Src) (sz : Size)
  | spst (x a b : Src) (sz : Size)
  | movg (d : BitVec 6) (a : Src)
  | pkc (d : Dst)
  | upc (a : Src)
  | addi (d : Dst) (a : Src) (imm : BitVec 21)
  | andi (d : Dst) (a : Src) (imm : BitVec 21)
  | ori (d : Dst) (a : Src) (imm : BitVec 21)
  | shli (d : Dst) (a : Src) (k : BitVec 6)
  | shri (d : Dst) (a : Src) (k : BitVec 6)
  | asri (d : Dst) (a : Src) (k : BitVec 6)
  | movi (d : Dst) (imm : BitVec 21)
  | movhi (d : Dst) (a : Src) (h : BitVec 16) (k : BitVec 2)
  | cmpeqi (d : BitVec 6) (a : Src) (imm : BitVec 21)
  | cmplti (d : BitVec 6) (a : Src) (imm : BitVec 21)
  | ldi (d : Dst) (a : Src) (imm : BitVec 21)
  | sti (x a : Src) (imm : BitVec 21)
  | spldi (d : Dst) (a : Src) (imm : BitVec 21)
  | spsti (x a : Src) (imm : BitVec 21)
  | crd (d : Dst) (n : BitVec 12)
  | cwr (a : Src) (n : BitVec 12)
  | pbr (d : BitVec 6) (a : Src) (imm : BitVec 21)
  | trn (flag : BitVec 3) (neg alw : Bool) (a : BitVec 6)
  | call (a : Src) (imm : BitVec 21)
  | loop (k : BitVec 6) (a : Src) (imm : BitVec 21)
  | lend
  -- V slots (R63)
  | vnop
  | vadd (t : IntTy) (d : Dst) (a b : Src) (mask : BitVec 4)
  | vsub (t : IntTy) (d : Dst) (a b : Src) (mask : BitVec 4)
  | vadds (t : IntTy) (d : Dst) (a b : Src) (mask : BitVec 4)
  | vsubs (t : IntTy) (d : Dst) (a b : Src) (mask : BitVec 4)
  | vmul (t : MulTy) (d : Dst) (a b : Src) (mask : BitVec 4)
  | vmulh (t : MulTy) (d : Dst) (a b : Src) (mask : BitVec 4)
  | vmin (t : IntTy) (d : Dst) (a b : Src) (mask : BitVec 4)
  | vmax (t : IntTy) (d : Dst) (a b : Src) (mask : BitVec 4)
  | vminn (t : IntTy) (d : Dst) (a b : Src) (mask : BitVec 4)
  | vmaxn (t : IntTy) (d : Dst) (a b : Src) (mask : BitVec 4)
  | vand (d : Dst) (a b : Src) (mask : BitVec 4)
  | vor (d : Dst) (a b : Src) (mask : BitVec 4)
  | vxor (d : Dst) (a b : Src) (mask : BitVec 4)
  | vnot (d : Dst) (a : Src) (mask : BitVec 4)
  | vshl (t : IntTy) (d : Dst) (a b : Src) (mask : BitVec 4)
  | vshr (t : IntTy) (d : Dst) (a b : Src) (mask : BitVec 4)
  | vasr (t : IntTy) (d : Dst) (a b : Src) (mask : BitVec 4)
  | vcmpeq (t : IntTy) (d : BitVec 6) (a b : Src) (mask : BitVec 4)
  | vcmplt (t : IntTy) (d : BitVec 6) (a b : Src) (mask : BitVec 4)
  | vcmpltn (t : IntTy) (d : BitVec 6) (a b : Src) (mask : BitVec 4)
  | vsel (d : Dst) (a b : Src) (c : BitVec 6) (mask : BitVec 4)
  | vfadd (t : FpTy) (d : Dst) (a b : Src) (mask : BitVec 4)
  | vfsub (t : FpTy) (d : Dst) (a b : Src) (mask : BitVec 4)
  | vfmul (t : FpTy) (d : Dst) (a b : Src) (mask : BitVec 4)
  | vfma (t : FpTy) (d : Dst) (a b c : Src) (mask : BitVec 4)
  | vfmin (t : FpTy) (d : Dst) (a b : Src) (mask : BitVec 4)
  | vfmax (t : FpTy) (d : Dst) (a b : Src) (mask : BitVec 4)
  | vfcmpeq (t : FpTy) (d : BitVec 6) (a b : Src) (mask : BitVec 4)
  | vfcmplt (t : FpTy) (d : BitVec 6) (a b : Src) (mask : BitVec 4)
  | vfcmple (t : FpTy) (d : BitVec 6) (a b : Src) (mask : BitVec 4)
  | vfrcp (d : Dst) (a : Src) (mask : BitVec 4)
  | vfrsq (d : Dst) (a : Src) (mask : BitVec 4)
  | vfexp2 (d : Dst) (a : Src) (mask : BitVec 4)
  | vflog2 (d : Dst) (a : Src) (mask : BitVec 4)
  | vftanh (d : Dst) (a : Src) (mask : BitVec 4)
  | vfsigm (d : Dst) (a : Src) (mask : BitVec 4)
  | vperm (d : Dst) (a b : Src) (sz : BitVec 2) (mask : BitVec 4)
  | vshuf (d : Dst) (a b : Src) (pat : BitVec 3) (sz : BitVec 2) (mask : BitVec 4)
  | vrot (d : Dst) (a b : Src) (sz : BitVec 2) (mask : BitVec 4)
  | vbcast (d : Dst) (a : Src) (sz : BitVec 2) (mask : BitVec 4)
  | vrdsum (t : RedTy) (d : Dst) (a : Src) (mask : BitVec 4)
  | vrdmax (t : RedTy) (d : Dst) (a : Src) (mask : BitVec 4)
  | vrdmin (t : RedTy) (d : Dst) (a : Src) (mask : BitVec 4)
  | vscan (t : RedTy) (d : Dst) (a : Src) (mask : BitVec 4)
  | vcvt (d : Dst) (a : Src) (part code : BitVec 6) (mask : BitVec 4)
  | vqnt (t : BlkTy) (d : Dst) (a : Src) (e : BitVec 6) (ty : BitVec 2) (sr : Bool) (k0 : BitVec 3)
      (mask : BitVec 4)
  | vdq (t : BlkTy) (d : Dst) (a : Src) (e : BitVec 6) (ty : BitVec 2) (k0 : BitVec 3)
      (mask : BitVec 4)
  | vspld (d : Dst) (a b : Src) (off : BitVec 6) (mask : BitVec 4)
  | vspst (x a b : Src) (off : BitVec 6) (mask : BitVec 4)
  | vld (d : Dst) (a b : Src) (off : BitVec 6) (mask : BitVec 4)
  | vst (x a b : Src) (off : BitVec 6) (mask : BitVec 4)
  | vins (d : Dst) (a b : Src) (sz : BitVec 2)
  | vext (d : Dst) (a b : Src) (sz : BitVec 2) (sgn : Bool)
  | vany (d a : BitVec 6) (mask : BitVec 4)
  | vall (d a : BitVec 6) (mask : BitVec 4)
  | vmov (d : Dst) (a : Src) (mask : BitVec 4)
  | vmovExpand (d : Dst) (a : BitVec 6) (mask : BitVec 4)
  | vmovPack (d : BitVec 6) (a : Src) (mask : BitVec 4)
  | viota (d : Dst) (a : BitVec 6) (sz : BitVec 2) (mask : BitVec 4)
  -- M slot (R200)
  | mnop
  | macc (af bf : MFmt) (bank : Bool) (an bn : BitVec 4)
  | mset (af bf : MFmt) (bank : Bool) (an bn : BitVec 4)
  | mpush (an bn : BitVec 4)
  | mshift (af bf : MFmt) (bank : Bool) (dist bn : BitVec 4)
  | mdrain (code : BitVec 3) (clr : Bool) (bank : Bool) (n i : BitVec 4)
  | mzero (bank : Bool)
  | mload (bank : Bool) (n i : BitVec 4)
  | mswap
  | mdrainq (af : BitVec 3) (clr : Bool) (bank : Bool) (n i : BitVec 4)
  -- C slots (R230, R432)
  | cnop
  | cpy (o : COps)
  | cpyt (o : COps)
  | cmcast (o : COps)
  | cgath (o : COps)
  | cfill (o : COps)
  | cpref (o : COps)
  | put (o : COps)
  | get (o : COps)
  | radd (o : COps)
  -- Y slot (R249)
  | ynop
  | fwait (f : BitVec 4) (n : BitVec 7)
  | fwaitAcq (f : BitVec 4) (n : BitVec 7)
  | fpost (f : BitVec 4) (m : BitVec 5)
  | fpostRel (f : BitVec 4) (dy dx : BitVec 3)
  | fclr (f : BitVec 4)
  | finc (f : BitVec 4) (n : BitVec 8)
  | fbar (f : BitVec 4) (n : BitVec 8)
  -- X slot (R65)
  | xnop
  | lea (d : Dst) (a b : Src) (sh : BitVec 3)
  | leai (d : Dst) (a : Src) (imm : BitVec 13)
  | agen (d : Dst) (a : BitVec 6) (imm : BitVec 13)
  | rbpop (d : Dst)
  | esld (t : BitVec 6) (a : Src) (imm : BitVec 13)
  | nld (d : BitVec 6) (a : Src) (imm : BitVec 13)
  | nst (n : BitVec 6) (a : Src) (imm : BitVec 13)
  | aadd (d : Dst) (a b : Src) (o : XaOps)
  | amin (d : Dst) (a b : Src) (o : XaOps)
  | amax (d : Dst) (a b : Src) (o : XaOps)
  | aminn (d : Dst) (a b : Src) (o : XaOps)
  | amaxn (d : Dst) (a b : Src) (o : XaOps)
  | aand (d : Dst) (a b : Src) (o : XaOps)
  | aor (d : Dst) (a b : Src) (o : XaOps)
  | axor (d : Dst) (a b : Src) (o : XaOps)
  | axchg (d : Dst) (a b : Src) (o : XaOps)
  | acas (d : Dst) (a b : Src) (o : XaOps)
  | afadd (d : Dst) (a b : Src) (o : XaOps)
  | aaddU (a b : Src)
  | aminU (a b : Src)
  | amaxU (a b : Src)
  | aminnU (a b : Src)
  | amaxnU (a b : Src)
  | aandU (a b : Src)
  | aorU (a b : Src)
  | axorU (a b : Src)
  | afaddU (a b : Src)
  | oadd (tk a b : Src) (o : XaOps)
  | ofadd (tk a b : Src) (o : XaOps)
  | oopen (d : Dst) (a : Src) (o : XaOps)
  | oclose (d : Dst) (a b : Src) (o : XaOps)
  | spawn (wt : Bool) (d : Dst) (a : Src)
  | join
  | exit
  | tkt (d : Dst) (a b : Src)
  | qpush (a b : Src)
  | qpushT (tk a b : Src)
  | mwait (d : Dst) (a b : Src)
  | mwaitNe (d : Dst) (a b : Src)
  | invl (asid a b : Src)
  | invlAll (asid : Src)
  | probe (d : Dst) (a : Src)
  | trap (imm : BitVec 13)
  | eret
  | dld (a : Src) (entry cnt : BitVec 9)
  -- a context's own steps (R14, R84, R197, R203, R72, R75, R151)
  | resultLanding (c : Nat)
  | interlockedLoadData (c k ext : Nat)
  | arrayPoint (c : Nat)
  | drainWrite (c : Nat)
  | mergeDecision (core : Nat)
  | forcedYield (core : Nat)
  | rbqFill (core : Nat)
  -- copy engines and flags (R242, R244, R246)
  | copyCompletion (c eng : Nat)
  | copyStop (c eng : Nat)
  | flagPostArrival (k : Nat)
  -- pre-emption, errors, retirement (R268, R269, R271, R273, R287, R289)
  | preemptionRequest (c : Nat)
  | saveComplete (c : Nat)
  | parkedWindowWrite (core k : Nat)
  | resumption (k c : Nat)
  | timeSliceExpiry (core : Nat)
  | dataError (e : CtxError)
  | rerunVerdict (c : Nat)
  | coreRetirement (core : Nat)
  -- reservation and stealing (R261, R262, R309, R310)
  | reserve (core ticket : Nat) (cls : CtxClass) (flexible : Bool)
  | commit (core ticket : Nat)
  | lost (die ticket : Nat)
  | release (core ticket : Nat)
  | reservationRetry (die ticket : Nat)
  | steal (victim thief : Nat)
  | stealRound (thief : Nat)
  | overflowQueueDispatch (region c : Nat)
  -- operator records (R454)
  | task (q : Nat)
  | launchConditionMet (k : Nat)
  | walk (q : Nat)
  | wait (q : Nat)
  | signal (q : Nat)
  | bind (q : Nat)
  | lease (q : Nat)
  | summary (q : Nat)
  | emptyRecord (q : Nat)
  -- translation (R388, R397) and ordered atomics (R372, R373)
  | leaseGrant (k : Nat)
  | pagereq (k : Nat) (leaf : Option Word)
  | migration (asid va frame : Nat)
  | migfail (asid va : Nat)
  | orderedAtomicArrival (k : Nat)
  | orderedRetry (c k : Nat)
  -- HBM (R339, R344, R345, R346)
  | hbmRequestAdmit (stack k t : Nat)
  | activation (stack k t : Nat)
  | backoffEnd (stack chn bank t : Nat)
  | periodicRefresh (stack chn bank row : Nat)
  | rowIdleClose (stack chn bank t : Nat)
  -- fabric packets at this hub (R431, R434, R435)
  | putPacket (p : Packet)
  | getreq (p : Packet)
  | getdata (p : Packet)
  | raddPacket (p : Packet)
  | done (p : Packet)
  | nack (p : Packet)
  | fragmentTimeout (xid : Nat)
  -- links (R406 to R428)
  | pkt (port : Nat) (f : Flit)
  | ack (port : Nat) (f : Flit)
  | nak (port : Nat) (f : Flit)
  | lmreq (port : Nat) (f : Flit)
  | lmap (port : Nat) (f : Flit)
  | resync (port : Nat) (f : Flit)
  | idle (port : Nat) (f : Flit)
  | laneFail (port : Nat) (l : LaneReport)
  | ackTimer (port : Nat)
  | nakResend (port : Nat)
  | replayTimeout (port : Nat)
  | resyncSend (port : Nat)
  | resyncMissing (port : Nat)
  | retrain (port : Nat)
  | retrainDone (port : Nat) (lanes : LanePair)
  | linkTrained (port peer peerport : Nat) (t : Training)
  | escapeTreeInstall (links : List (Nat × Nat × Nat × Nat)) (epoch : Bool)
  | sparePortAssign (port : Nat)
  | rekey (k : PortKey)
  -- host messages (R443)
  | regionCreate (q : Req)
  | regionUpdate (q : Req)
  | regionDestroy (q : Req)
  | queueCreate (q : Req)
  | queueDestroy (q : Req)
  | asCreate (q : Req)
  | windowCreate (q : Req)
  | windowDestroy (q : Req)
  | mapDevice (q : Req)
  | setRowthr (q : Req)
  | linkProtect (q : Req)
  | vfBind (q : Req)
  | peerWindow (q : Req)
  | graft (q : Req)
  | setPowercap (q : Req)
  -- host link (R445 to R456)
  | mboxWrite (func : Nat) (m : HostMessage) (whole : Bool)
  | replyheadWrite (func v : Nat)
  | wakerejRead (func : Nat)
  | qarejRead (func : Nat)
  | registerWrite (space off : Nat) (v : Word)
  | wakeWrite (func : Nat) (cap : BitVec 256)
  | deviceWakeStore (c off size : Nat) (v : Word)
  | queueApertureWrite (func size : Nat) (data : BitVec 1024)
  | bar2Access (func : Nat) (write : Bool) (off : Nat) (data : List Byte) (n : Nat)
  | peerReadTimeout (c k : Nat)
  -- live replacement (R462 to R464)
  | graftVerified (fn : Nat) (ok : Bool) (version : Nat) (digest : BitVec 256)
  | handover (fn schema len : Nat) (body : List Byte)
  | commitRegisterWrite (fn : Nat)
  | refuse (fn : Nat)
  | heartbeat (fn t : Nat)
  | heartbeatMissed (fn t : Nat)
  | trialExpiry (fn : Nat)
  -- attestation (R461)
  | getVersion (func : Nat)
  | getCapabilities (func : Nat)
  | negotiateAlgorithms (func : Nat)
  | getDigests (func : Nat)
  | getCertificate (func slot : Nat)
  | challenge (func slot : Nat) (nonce : BitVec 256)
  | getMeasurements (func which : Nat)
  | keyExchange (func : Nat)
  | finish (func : Nat) (macOk : Bool)
  | keyUpdate (func : Nat)
  | endSession (func : Nat)
  -- power, reset, sensors (R487 to R495)
  | powerComparison (r : Reading) (t : Nat)
  | thermalTrip
  | moduleReset
  | sensorRefresh (r : Reading)
  | hbmLineUncorrectable (pa : Nat)
  | escapeWaitTimeout (port k : Nat)
  | pldmRequest (sensor : Nat)
  | inputPowerLoss
  deriving DecidableEq, Repr

end Sys2Proof
end

