-- ==== Sys2Proof/WellFormed.lean ====
section
/-! DEFINITION. WellFormed.lean: the decode-stage checks of one slot's instruction. `wfDetails` lists
the detail codes (Table 2.15, Table 8.5) of everything wrong with an instruction as its slot holds it;
an instruction is well-formed when nothing is. Checks that need the header (widths, profile), another
slot or the task stand in Machine/Cycle.lean. -/

namespace Sys2Proof

/-- `d` when `b` holds, nothing otherwise. -/
def Wf.when (b : Bool) (d : Nat) : List Nat := if b then [d] else []

/-- A selector of the s class in an S or X slot: V latches raise 0x0D (R51), reserved codes 0x08. -/
def Src.wfS : Src → List Nat
  | .reg _ => []
  | .latch u _ => Wf.when (u = 1 || u = 2) 0x0D
  | .special _ => []
  | .bad _ => [0x08]

/-- A selector of class v (Table 6.1). -/
def Src.wfV : Src → List Nat
  | .bad _ => [0x08]
  | _ => []

/-- A selector of class s in a V slot (Table 6.1): V latches are not allowed (0x08, R162). -/
def Src.wfVs : Src → List Nat
  | .reg _ => []
  | .latch u _ => Wf.when (u = 1 || u = 2) 0x08
  | .special _ => []
  | .bad _ => [0x08]

/-- DLD's address: an s register or an S or X latch (R71). -/
def Src.wfDld : Src → List Nat
  | .special _ => [0x08]
  | s => s.wfS

/-- A destination whose result enters a latch (R52, R56). -/
def Dst.wfLatch : Dst → List Nat
  | .bad _ => [0x09]
  | _ => []

/-- A destination whose result enters no latch (R52). -/
def Dst.wfReg : Dst → List Nat
  | .reg _ => []
  | _ => [0x09]

/-- A destination of a class of `n` registers whose bit 5 has the suppress meaning (R52).
[DEDUCED, unsafe: log 93] -/
def Wf.dest (n : Nat) (d : BitVec 6) : List Nat :=
  if d.toNat ≥ 32 then [0x09] else Wf.when (d.toNat ≥ n) 0x08

/-- An index of a class of `n` registers; beyond the class raises 0x08 (R50). A compare's flag (R88) and the record that
NST reads (R116) are such indices, bit 5 with the rest. [DEDUCED, unsafe: log 93] -/
def Wf.index (n : Nat) (d : BitVec 6) : List Nat := Wf.when (d.toNat ≥ n) 0x08

def Scope.reserved : Scope → Bool
  | .res6 | .res7 => true
  | _ => false
def Hint.reserved : Hint → Bool
  | .res _ => true
  | _ => false
def Size.reserved : Size → Bool
  | .res _ => true
  | _ => false

/-- The modifier of LD and ST (R46, R96): the allowed orders, no reserved code, and no scope or path
without an order. -/
def Mod.wf (allowed : List Ord) (m : Mod) : List Nat :=
  Wf.when (!allowed.contains m.ord) 0x08 ++ Wf.when m.scope.reserved 0x08 ++
  Wf.when m.hint.reserved 0x08 ++ Wf.when m.size.reserved 0x08 ++
  Wf.when (m.ord = .plain && (m.scope ≠ .ctx || m.paths ≠ 0)) 0x08

/-- The ordering fields of form XA (R363, R371, R372). -/
def XaOps.wf (allowed : List Ord) (o : XaOps) : List Nat :=
  Wf.when (!allowed.contains o.ord) 0x08 ++ Wf.when o.scope.reserved 0x08 ++
  Wf.when (o.ord = .plain && (o.scope ≠ .ctx || o.psel ≠ 0)) 0x08

/-- The format pairs that a beat allows (R49). -/
def MFmt.pairOk (a b : MFmt) : Bool :=
  a = b || (a = .e4m3 && b = .e5m2) || (a = .e5m2 && b = .e4m3)

/-- An operand code of a beat: a nest record or the hold (R189). -/
def Wf.code (c : BitVec 4) : List Nat := Wf.when (c.toNat > 8) 0x08

/-- A staging block of `n` registers must end by g15 (R232, 0x13). -/
def COps.wf (n : Nat) (o : COps) : List Nat := Wf.when (o.sbase.toNat + n > 16) 0x13

/-- PLOG names c0 to c7 when SEL is 0 (R61). -/
def Wf.plog (m : Bool) (xs : List (BitVec 4)) : List Nat :=
  Wf.when (!m && xs.any fun x => x.toNat ≥ 8) 0x08

/-- The control registers that Tables 3.12 and 10.6 and R402 assign. -/
def Wf.crAssigned (n : BitVec 12) : Bool :=
  n.toNat ≤ 0x00B || (0x010 ≤ n.toNat && n.toNat ≤ 0x015) || (0x020 ≤ n.toNat && n.toNat ≤ 0x022) ||
  n.toNat = 0x030

/-- The ratio of the larger to the smaller element size of a VCVT code (Table 6.7); 0 for an
unassigned code. -/
def Wf.cvtRatio (code : BitVec 6) : Nat :=
  match code.toNat with
  | 0 | 1 | 8 | 9 | 13 | 14 | 18 | 19 | 20 | 21 | 22 | 23 => 2
  | 2 | 3 | 4 | 10 | 11 | 12 | 15 | 16 | 17 => 4
  | 5 | 6 | 7 => 1
  | _ => 0

/-- Everything the decode stage finds wrong with one instruction alone (Table 2.15). [DEDUCED, unsafe: log 93] -/
def Instr.wfDetails : Instr → List Nat
  | .pand m d a b | .por m d a b | .pxor m d a b | .pandn m d a b => Wf.plog m [d, a, b]
  | .pnot m d a => Wf.plog m [d, a]
  | .checkpointBundle | .token _ _ | .snop | .lend | .vnop | .mnop | .cnop | .ynop | .xnop => []
  | .add d a b | .sub d a b | .and d a b | .or d a b | .xor d a b | .shl d a b | .shr d a b
  | .asr d a b | .mul d a b | .mulh d a b | .mulhN64 d a b | .min d a b | .max d a b
  | .sel d a b _ | .fadd d a b | .fsub d a b | .fmul d a b | .fdiv d a b =>
    d.wfLatch ++ a.wfS ++ b.wfS
  | .fma d a b => d.wfReg ++ a.wfS ++ b.wfS
  | .cmpeq d a b | .cmpne d a b | .cmplt d a b | .cmple d a b | .cmpltn d a b | .fcmpeq d a b
  | .fcmplt d a b | .fcmple d a b => Wf.index 8 d ++ a.wfS ++ b.wfS
  | .fsqrt d a => d.wfLatch ++ a.wfS
  | .fcvt d a c => d.wfLatch ++ a.wfS ++ Wf.when (c.toNat > 8) 0x08
  | .ld d a b m => d.wfReg ++ a.wfS ++ b.wfS ++ m.wf [.plain, .acquire]
  | .st x a b m => x.wfS ++ a.wfS ++ b.wfS ++ m.wf [.plain, .release]
  | .spld d a b sz => d.wfLatch ++ a.wfS ++ b.wfS ++ Wf.when sz.reserved 0x08
  | .spst x a b sz => x.wfS ++ a.wfS ++ b.wfS ++ Wf.when sz.reserved 0x08
  | .movg d a => Wf.dest 16 d ++ a.wfS
  | .pkc d => d.wfLatch
  | .upc a => a.wfS
  | .addi d a _ | .andi d a _ | .ori d a _ | .shli d a _ | .shri d a _ | .asri d a _
  | .movhi d a _ _ | .spldi d a _ => d.wfLatch ++ a.wfS
  | .movi d _ => d.wfLatch
  | .cmpeqi d a _ | .cmplti d a _ => Wf.index 8 d ++ a.wfS
  | .ldi d a _ => d.wfReg ++ a.wfS
  | .sti x a _ | .spsti x a _ => x.wfS ++ a.wfS
  | .crd d n => d.wfLatch ++ Wf.when (!Wf.crAssigned n) 0x08
  | .cwr a n => a.wfS ++ Wf.when (!Wf.crAssigned n) 0x08
  | .pbr d a _ => Wf.dest 4 d ++ a.wfS
  | .trn f neg alw a => Wf.when (alw && (neg || f ≠ 0)) 0x03 ++ Wf.index 4 a
  | .call a _ => a.wfS
  | .loop k a _ => Wf.index 6 k ++ a.wfS
  | .vadd _ d a b _ | .vsub _ d a b _ | .vadds _ d a b _ | .vsubs _ d a b _ | .vmin _ d a b _
  | .vmax _ d a b _ | .vminn _ d a b _ | .vmaxn _ d a b _ | .vshl _ d a b _ | .vshr _ d a b _
  | .vasr _ d a b _ => d.wfLatch ++ a.wfV ++ b.wfV
  | .vmul _ d a b _ | .vmulh _ d a b _ => d.wfLatch ++ a.wfV ++ b.wfV
  | .vand d a b _ | .vor d a b _ | .vxor d a b _ | .vperm d a b _ _ => d.wfLatch ++ a.wfV ++ b.wfV
  | .vnot d a _ | .vfrcp d a _ | .vfrsq d a _ | .vfexp2 d a _ | .vflog2 d a _ | .vftanh d a _
  | .vfsigm d a _ | .vmov d a _ => d.wfLatch ++ a.wfV
  | .vcmpeq _ d a b _ | .vcmplt _ d a b _ | .vcmpltn _ d a b _ => Wf.dest 16 d ++ a.wfV ++ b.wfV
  | .vsel d a b c _ => d.wfLatch ++ a.wfV ++ b.wfV ++ Wf.index 16 c
  | .vfadd _ d a b _ | .vfsub _ d a b _ | .vfmul _ d a b _ | .vfmin _ d a b _ | .vfmax _ d a b _ =>
    d.wfLatch ++ a.wfV ++ b.wfV
  | .vfma _ d a b c _ => d.wfLatch ++ a.wfV ++ b.wfV ++ c.wfV
  | .vfcmpeq _ d a b _ | .vfcmplt _ d a b _ | .vfcmple _ d a b _ => Wf.dest 16 d ++ a.wfV ++ b.wfV
  | .vshuf d a b pat _ _ => d.wfLatch ++ a.wfV ++ b.wfV ++ Wf.when (pat.toNat ≥ 4) 0x08
  | .vrot d a b _ _ => d.wfLatch ++ a.wfV ++ b.wfVs
  | .vbcast d a _ _ => d.wfLatch ++ a.wfVs
  | .vrdsum _ d a _ | .vrdmax _ d a _ | .vrdmin _ d a _ | .vscan _ d a _ => d.wfLatch ++ a.wfV
  | .vcvt d a part code _ => d.wfLatch ++ a.wfV ++ Wf.when (part.toNat ≥ Wf.cvtRatio code) 0x08
  | .vqnt _ d a e ty _ _ _ => d.wfLatch ++ a.wfV ++ Wf.index 8 e ++ Wf.when (ty = 3) 0x08
  | .vdq _ d a e ty _ _ => d.wfLatch ++ a.wfV ++ Wf.index 8 e ++ Wf.when (ty = 3) 0x08
  | .vspld d a b _ _ => d.wfLatch ++ a.wfVs ++ b.wfVs
  | .vld d a b _ _ => d.wfReg ++ a.wfVs ++ b.wfVs
  | .vspst x a b _ _ | .vst x a b _ _ => x.wfV ++ a.wfVs ++ b.wfVs
  | .vins d a b _ => d.wfLatch ++ a.wfVs ++ b.wfVs
  | .vext d a b _ _ => d.wfReg ++ a.wfV ++ b.wfVs
  | .vany d a _ | .vall d a _ => Wf.dest 8 d ++ Wf.index 16 a
  | .vmovExpand d a _ => d.wfLatch ++ Wf.index 16 a
  | .vmovPack d a _ => Wf.dest 16 d ++ a.wfV
  | .viota d a _ _ => d.wfLatch ++ Wf.index 16 a
  | .macc af bf _ an bn | .mset af bf _ an bn =>
    Wf.when (!af.pairOk bf) 0x0A ++ Wf.code an ++ Wf.code bn
  | .mpush an bn => Wf.code an ++ Wf.code bn
  | .mshift af bf _ _ bn => Wf.when (!af.pairOk bf) 0x0A ++ Wf.code bn
  | .mdrain c _ _ n i => Wf.when (c = 7) 0x08 ++ Wf.when (n.toNat ≥ 8 || i.toNat ≥ 6) 0x08
  | .mzero _ | .mswap => []
  | .mload _ n i => Wf.when (n.toNat ≥ 8 || i.toNat ≥ 6) 0x08
  | .mdrainq af _ _ n i =>
    Wf.when (af.toNat < 3 || af.toNat > 5) 0x08 ++ Wf.when (n.toNat ≥ 8 || i.toNat ≥ 6) 0x08
  | .cpy o | .cgath o | .cfill o => o.wf 3
  | .cmcast o => o.wf 4
  | .cpref o => o.wf 2
  | .cpyt o | .put o | .get o | .radd o => o.wf 5
  | .fwait _ _ | .fwaitAcq _ _ | .fpost _ _ | .fpostRel _ _ _ | .fclr _ | .finc _ _ | .fbar _ _ => []
  | .lea d a b _ => d.wfLatch ++ a.wfS ++ b.wfS
  | .leai d a _ => d.wfLatch ++ a.wfS
  | .agen d a _ => d.wfLatch ++ Wf.index 8 a
  | .rbpop d => d.wfReg
  | .esld t a _ => Wf.dest 11 t ++ a.wfS
  | .nld d a _ => Wf.dest 8 d ++ a.wfS
  | .nst d a _ => Wf.index 8 d ++ a.wfS
  | .aadd d a b o | .amin d a b o | .amax d a b o | .aminn d a b o | .amaxn d a b o | .aand d a b o
  | .aor d a b o | .axor d a b o | .axchg d a b o | .acas d a b o | .afadd d a b o =>
    d.wfReg ++ a.wfS ++ b.wfS ++ o.wf [.plain, .acquire, .release, .acqRel]
  | .aaddU a b | .aminU a b | .amaxU a b | .aminnU a b | .amaxnU a b | .aandU a b | .aorU a b
  | .axorU a b | .afaddU a b => a.wfS ++ b.wfS
  | .oadd t a b o | .ofadd t a b o => t.wfS ++ a.wfS ++ b.wfS ++ o.wf [.plain, .release]
  | .oopen d a o => d.wfReg ++ a.wfS ++ o.wf [.plain, .release]
  | .oclose d a b o => d.wfReg ++ a.wfS ++ b.wfS ++ o.wf [.plain, .acquire]
  | .spawn wt d a => (if wt then d.wfReg else Wf.when (d ≠ .reg 0) 0x03) ++ a.wfS
  | .join | .exit | .trap _ | .eret => []
  | .tkt d a b | .mwait d a b | .mwaitNe d a b => d.wfReg ++ a.wfS ++ b.wfS
  | .qpush a b => a.wfS ++ b.wfS
  | .qpushT t a b | .invl t a b => t.wfS ++ a.wfS ++ b.wfS
  | .invlAll t => t.wfS
  | .probe d a => d.wfReg ++ a.wfS
  | .dld a e n => a.wfDld ++ Wf.when (e.toNat + n.toNat + 1 > 512) 0x0C
  | .resultLanding _ | .interlockedLoadData _ _ _ | .arrayPoint _ | .drainWrite _
  | .mergeDecision _ | .forcedYield _ | .rbqFill _ | .copyCompletion _ _ | .copyStop _ _
  | .flagPostArrival _ | .preemptionRequest _ | .saveComplete _ | .parkedWindowWrite _ _
  | .resumption _ _ | .timeSliceExpiry _ | .dataError _ | .rerunVerdict _ | .coreRetirement _
  | .reserve _ _ _ _ | .commit _ _ | .lost _ _ | .release _ _ | .reservationRetry _ _
  | .steal _ _ | .stealRound _ | .task _ | .launchConditionMet _ | .walk _ | .wait _ | .signal _
  | .bind _ | .lease _ | .summary _ | .emptyRecord _ | .leaseGrant _ | .pagereq _ _
  | .migration _ _ _ | .migfail _ _ | .orderedAtomicArrival _ | .orderedRetry _ _
  | .hbmRequestAdmit _ _ _ | .activation _ _ _ | .backoffEnd _ _ _ _ | .periodicRefresh _ _ _ _
  | .rowIdleClose _ _ _ _ | .putPacket _ | .getreq _ | .getdata _ | .raddPacket _ | .done _
  | .nack _ | .fragmentTimeout _ | .pkt _ _ | .ack _ _ | .nak _ _ | .lmreq _ _ | .lmap _ _
  | .resync _ _ | .idle _ _ | .laneFail _ _ | .ackTimer _ | .nakResend _ | .replayTimeout _
  | .resyncSend _ | .resyncMissing _ | .retrain _ | .retrainDone _ _ | .linkTrained _ _ _ _
  | .escapeTreeInstall _ _ | .sparePortAssign _ | .rekey _ | .regionCreate _ | .regionUpdate _
  | .regionDestroy _ | .queueCreate _ | .queueDestroy _ | .asCreate _ | .windowCreate _
  | .windowDestroy _ | .mapDevice _ | .setRowthr _ | .linkProtect _ | .vfBind _ | .peerWindow _
  | .graft _ | .setPowercap _ | .mboxWrite _ _ _ | .replyheadWrite _ _ | .wakerejRead _
  | .qarejRead _ | .registerWrite _ _ _ | .wakeWrite _ _ | .deviceWakeStore _ _ _ _
  | .queueApertureWrite _ _ _ | .bar2Access _ _ _ _ _ | .peerReadTimeout _ _
  | .graftVerified _ _ _ _ | .handover _ _ _ _ | .commitRegisterWrite _ | .refuse _
  | .heartbeat _ _ | .heartbeatMissed _ _ | .trialExpiry _ | .getVersion _ | .getCapabilities _
  | .negotiateAlgorithms _ | .getDigests _ | .getCertificate _ _ | .challenge _ _ _
  | .getMeasurements _ _ | .keyExchange _ | .finish _ _ | .keyUpdate _ | .endSession _
  | .powerComparison _ _ | .thermalTrip | .moduleReset | .sensorRefresh _
  | .hbmLineUncorrectable _ | .escapeWaitTimeout _ _ | .overflowQueueDispatch _ _
  | .pldmRequest _ | .inputPowerLoss => []

/-- An instruction that its slot's decoder accepts. -/
def WellFormed (i : Instr) : Prop := i.wfDetails = []

/-- Well-formedness as a test. -/
def Instr.wf (i : Instr) : Bool := i.wfDetails.isEmpty

end Sys2Proof
end

