-- ==== Sys2Proof/Decode.lean ====
section
/-! DEFINITION. Decode.lean: reading slots and bundles from their bits, and writing an instruction's
bits. Field positions are those of Tables 2.1 to 2.6, 2.9, 2.16 and 2.17; opcodes are those of Tables
2.10 to 2.14 and 10.3 to 14.11. A slot parser reads fields only; bits that no field of the instruction
uses are caught by writing the instruction back (`slotDetails`), so that every unused bit must be 0. -/

namespace Sys2Proof

/-! ## Field codes -/

/-- Table 2.7, codes 48 to 60. -/
def Special.code : Special → BitVec 6
  | .zero => 48 | .one => 49 | .ones => 50 | .lane => 51 | .member => 52 | .ctxid => 53 | .core => 54
  | .die => 55 | .pc => 56 | .ticket => 57 | .region => 58 | .dx => 59 | .dy => 60

/-- Table 2.7. -/
def Src.code : Src → BitVec 6
  | .reg n => 0#1 ++ n
  | .latch u k => 4#3 ++ u ++ BitVec.ofBool k
  | .special p => p.code
  | .bad c => c

/-- Table 2.7, read. -/
def Src.ofCode (c : BitVec 6) : Src :=
  if c.toNat < 32 then .reg (c.extractLsb' 0 5)
  else if c.toNat < 40 then .latch (c.extractLsb' 1 2) (c.getLsbD 0)
  else match c.toNat with
    | 48 => .special .zero | 49 => .special .one | 50 => .special .ones | 51 => .special .lane
    | 52 => .special .member | 53 => .special .ctxid | 54 => .special .core | 55 => .special .die
    | 56 => .special .pc | 57 => .special .ticket | 58 => .special .region | 59 => .special .dx
    | 60 => .special .dy
    | _ => .bad c

/-- R52. -/
def Dst.code : Dst → BitVec 6
  | .reg n => 0#1 ++ n
  | .drop => 32
  | .bad n => 1#1 ++ n

/-- R52, read. -/
def Dst.ofCode (c : BitVec 6) : Dst :=
  if c.toNat < 32 then .reg (c.extractLsb' 0 5)
  else if c.toNat = 32 then .drop else .bad (c.extractLsb' 0 5)

def Ord.code : Ord → BitVec 2
  | .plain => 0 | .acquire => 1 | .release => 2 | .acqRel => 3
def Ord.ofCode (c : BitVec 2) : Ord :=
  match c.toNat with | 0 => .plain | 1 => .acquire | 2 => .release | _ => .acqRel

def Scope.code : Scope → BitVec 3
  | .ctx => 0 | .core => 1 | .cluster => 2 | .die => 3 | .module => 4 | .fabric => 5 | .res6 => 6
  | .res7 => 7
def Scope.ofCode (c : BitVec 3) : Scope :=
  match c.toNat with
  | 0 => .ctx | 1 => .core | 2 => .cluster | 3 => .die | 4 => .module | 5 => .fabric | 6 => .res6
  | _ => .res7

def Hint.code : Hint → BitVec 3
  | .normal => 0 | .noalloc => 1 | .stream => 2 | .keep => 3 | .res k => 1#1 ++ k
def Hint.ofCode (c : BitVec 3) : Hint :=
  match c.toNat with
  | 0 => .normal | 1 => .noalloc | 2 => .stream | 3 => .keep | _ => .res (c.extractLsb' 0 2)

def Size.code : Size → BitVec 3
  | .b1 => 0 | .b2 => 1 | .b4 => 2 | .b8 => 3 | .res k => 1#1 ++ k
def Size.ofCode (c : BitVec 3) : Size :=
  match c.toNat with
  | 0 => .b1 | 1 => .b2 | 2 => .b4 | 3 => .b8 | _ => .res (c.extractLsb' 0 2)

/-- Table 2.4: ORD 14–13, SCOPE 12–10, PATHS 9–6, HINT 5–3, SIZE 2–0. -/
def Mod.code (m : Mod) : BitVec 15 := m.ord.code ++ m.scope.code ++ m.paths ++ m.hint.code ++ m.size.code
def Mod.ofCode (c : BitVec 15) : Mod :=
  ⟨.ofCode (c.extractLsb' 13 2), .ofCode (c.extractLsb' 10 3), c.extractLsb' 6 4,
   .ofCode (c.extractLsb' 3 3), .ofCode (c.extractLsb' 0 3)⟩

def MFmt.code : MFmt → BitVec 3
  | .e4m3 => 0 | .e5m2 => 1 | .int8 => 2 | .sx2 => 3 | .sx4 => 4 | .sx8 => 5 | .bf16 => 6 | .f16 => 7
def MFmt.ofCode (c : BitVec 3) : MFmt :=
  match c.toNat with
  | 0 => .e4m3 | 1 => .e5m2 | 2 => .int8 | 3 => .sx2 | 4 => .sx4 | 5 => .sx8 | 6 => .bf16 | _ => .f16

/-- Form XA, bits 6–0: ORD, SCOPE, PSEL (Table 2.6). -/
def XaOps.code (o : XaOps) : BitVec 7 := o.ord.code ++ o.scope.code ++ o.psel
def XaOps.ofCode (c : BitVec 7) : XaOps :=
  ⟨.ofCode (c.extractLsb' 5 2), .ofCode (c.extractLsb' 2 3), c.extractLsb' 0 2⟩

/-- Offset of a type within a run of opcodes that lists its types in order (R63). -/
def IntTy.code : IntTy → BitVec 7
  | .w8 => 0 | .w16 => 1 | .w32 => 2
def MulTy.code : MulTy → BitVec 7
  | .w16 => 0 | .w32 => 1
def FpTy.code : FpTy → BitVec 7
  | .f32 => 0 | .f16 => 1 | .bf16 => 2
def RedTy.code : RedTy → BitVec 7
  | .f32 => 0 | .i32 => 1
def BlkTy.code : BlkTy → BitVec 7
  | .sx2 => 0 | .sx4 => 1 | .sx8 => 2

/-! ## The header's PLOG (Tables 2.9, 2.10) -/

/-- PLOG: OP 15–13, SEL 12, DEST 11–8, SRCA 7–4, SRCB 3–0. -/
def encPlog : Instr → Option (BitVec 16)
  | .pand m d a b => some (1#3 ++ BitVec.ofBool m ++ d ++ a ++ b)
  | .por m d a b => some (2#3 ++ BitVec.ofBool m ++ d ++ a ++ b)
  | .pxor m d a b => some (3#3 ++ BitVec.ofBool m ++ d ++ a ++ b)
  | .pandn m d a b => some (4#3 ++ BitVec.ofBool m ++ d ++ a ++ b)
  | .pnot m d a => some (5#3 ++ BitVec.ofBool m ++ d ++ a ++ 0#4)
  | _ => none

/-- The PLOG instruction of a header; `none` for operation 0, an error for codes 6 and 7. -/
def parsePlog (w : BitVec 16) : Except Nat (Option Instr) :=
  let m := w.getLsbD 12
  let d := w.extractLsb' 8 4
  let a := w.extractLsb' 4 4
  let b := w.extractLsb' 0 4
  match (w.extractLsb' 13 3).toNat with
  | 0 => .ok none
  | 1 => .ok (some (.pand m d a b))
  | 2 => .ok (some (.por m d a b))
  | 3 => .ok (some (.pxor m d a b))
  | 4 => .ok (some (.pandn m d a b))
  | 5 => .ok (some (.pnot m d a))
  | _ => .error 0x02

/-! ## The S slot (Tables 2.3, 2.11) -/

/-- Register form: op 39–33, dest 32–27, a 26–21, b 20–15, modifier 14–0. -/
def Enc.sr (op : BitVec 7) (d a b : BitVec 6) (m : BitVec 15) : BitVec 40 := op ++ d ++ a ++ b ++ m
/-- Immediate form: op 39–33, dest 32–27, a 26–21, imm 20–0. -/
def Enc.si (op : BitVec 7) (d a : BitVec 6) (imm : BitVec 21) : BitVec 40 := op ++ d ++ a ++ imm

def encS : Instr → Option (BitVec 40)
  | .snop => some 0
  | .add d a b => some (Enc.sr 0x01 d.code a.code b.code 0)
  | .sub d a b => some (Enc.sr 0x02 d.code a.code b.code 0)
  | .and d a b => some (Enc.sr 0x03 d.code a.code b.code 0)
  | .or d a b => some (Enc.sr 0x04 d.code a.code b.code 0)
  | .xor d a b => some (Enc.sr 0x05 d.code a.code b.code 0)
  | .shl d a b => some (Enc.sr 0x06 d.code a.code b.code 0)
  | .shr d a b => some (Enc.sr 0x07 d.code a.code b.code 0)
  | .asr d a b => some (Enc.sr 0x08 d.code a.code b.code 0)
  | .mul d a b => some (Enc.sr 0x09 d.code a.code b.code 0)
  | .mulh d a b => some (Enc.sr 0x0A d.code a.code b.code 0)
  | .mulhN64 d a b => some (Enc.sr 0x0A d.code a.code b.code 1)
  | .min d a b => some (Enc.sr 0x0B d.code a.code b.code 0)
  | .max d a b => some (Enc.sr 0x0C d.code a.code b.code 0)
  | .cmpeq d a b => some (Enc.sr 0x0D d a.code b.code 0)
  | .cmpne d a b => some (Enc.sr 0x0E d a.code b.code 0)
  | .cmplt d a b => some (Enc.sr 0x0F d a.code b.code 0)
  | .cmple d a b => some (Enc.sr 0x10 d a.code b.code 0)
  | .cmpltn d a b => some (Enc.sr 0x11 d a.code b.code 0)
  | .sel d a b cf => some (Enc.sr 0x12 d.code a.code b.code (0#12 ++ cf))
  | .fadd d a b => some (Enc.sr 0x13 d.code a.code b.code 0)
  | .fsub d a b => some (Enc.sr 0x14 d.code a.code b.code 0)
  | .fmul d a b => some (Enc.sr 0x15 d.code a.code b.code 0)
  | .fma d a b => some (Enc.sr 0x16 d.code a.code b.code 0)
  | .fdiv d a b => some (Enc.sr 0x17 d.code a.code b.code 0)
  | .fsqrt d a => some (Enc.sr 0x18 d.code a.code 0 0)
  | .fcmpeq d a b => some (Enc.sr 0x19 d a.code b.code 0)
  | .fcmplt d a b => some (Enc.sr 0x1A d a.code b.code 0)
  | .fcmple d a b => some (Enc.sr 0x1B d a.code b.code 0)
  | .fcvt d a c => some (Enc.sr 0x1C d.code a.code 0 (0#11 ++ c))
  | .ld d a b m => some (Enc.sr 0x1D d.code a.code b.code m.code)
  | .st x a b m => some (Enc.sr 0x1E x.code a.code b.code m.code)
  | .spld d a b sz => some (Enc.sr 0x1F d.code a.code b.code (0#12 ++ sz.code))
  | .spst x a b sz => some (Enc.sr 0x20 x.code a.code b.code (0#12 ++ sz.code))
  | .movg d a => some (Enc.sr 0x21 d a.code 0 0)
  | .pkc d => some (Enc.sr 0x22 d.code 0 0 0)
  | .upc a => some (Enc.sr 0x23 0 a.code 0 0)
  | .addi d a v => some (Enc.si 0x40 d.code a.code v)
  | .andi d a v => some (Enc.si 0x41 d.code a.code v)
  | .ori d a v => some (Enc.si 0x42 d.code a.code v)
  | .shli d a k => some (Enc.si 0x43 d.code a.code (0#15 ++ k))
  | .shri d a k => some (Enc.si 0x44 d.code a.code (0#15 ++ k))
  | .asri d a k => some (Enc.si 0x45 d.code a.code (0#15 ++ k))
  | .movi d v => some (Enc.si 0x46 d.code 0 v)
  | .movhi d a h k => some (Enc.si 0x47 d.code a.code (0#3 ++ k ++ h))
  | .cmpeqi d a v => some (Enc.si 0x48 d a.code v)
  | .cmplti d a v => some (Enc.si 0x49 d a.code v)
  | .ldi d a v => some (Enc.si 0x4A d.code a.code v)
  | .sti x a v => some (Enc.si 0x4B x.code a.code v)
  | .spldi d a v => some (Enc.si 0x4C d.code a.code v)
  | .spsti x a v => some (Enc.si 0x4D x.code a.code v)
  | .crd d n => some (Enc.si 0x4E d.code 0 (0#9 ++ n))
  | .cwr a n => some (Enc.si 0x4F 0 a.code (0#9 ++ n))
  | .pbr d a v => some (Enc.si 0x50 d a.code v)
  | .trn f neg alw a =>
    some (Enc.si 0x51 (0#1 ++ BitVec.ofBool alw ++ BitVec.ofBool neg ++ f) a 0)
  | .call a v => some (Enc.si 0x52 0 a.code v)
  | .loop k a v => some (Enc.si 0x53 k a.code v)
  | .lend => some (Enc.si 0x54 0 0 0)
  | _ => none

/-- The S slot's instruction; 0x02 for an unassigned opcode. -/
def parseS (w : BitVec 40) : Except Nat Instr :=
  let dr := w.extractLsb' 27 6
  let d := Dst.ofCode dr
  let x := Src.ofCode dr
  let a := Src.ofCode (w.extractLsb' 21 6)
  let b := Src.ofCode (w.extractLsb' 15 6)
  let m := w.extractLsb' 0 15
  let v := w.extractLsb' 0 21
  match (w.extractLsb' 33 7).toNat with
  | 0x00 => .ok .snop
  | 0x01 => .ok (.add d a b) | 0x02 => .ok (.sub d a b) | 0x03 => .ok (.and d a b)
  | 0x04 => .ok (.or d a b) | 0x05 => .ok (.xor d a b) | 0x06 => .ok (.shl d a b)
  | 0x07 => .ok (.shr d a b) | 0x08 => .ok (.asr d a b) | 0x09 => .ok (.mul d a b)
  | 0x0A => .ok (if m.getLsbD 0 then .mulhN64 d a b else .mulh d a b)
  | 0x0B => .ok (.min d a b) | 0x0C => .ok (.max d a b) | 0x0D => .ok (.cmpeq dr a b)
  | 0x0E => .ok (.cmpne dr a b) | 0x0F => .ok (.cmplt dr a b) | 0x10 => .ok (.cmple dr a b)
  | 0x11 => .ok (.cmpltn dr a b) | 0x12 => .ok (.sel d a b (m.extractLsb' 0 3))
  | 0x13 => .ok (.fadd d a b) | 0x14 => .ok (.fsub d a b) | 0x15 => .ok (.fmul d a b)
  | 0x16 => .ok (.fma d a b) | 0x17 => .ok (.fdiv d a b) | 0x18 => .ok (.fsqrt d a)
  | 0x19 => .ok (.fcmpeq dr a b) | 0x1A => .ok (.fcmplt dr a b) | 0x1B => .ok (.fcmple dr a b)
  | 0x1C => .ok (.fcvt d a (m.extractLsb' 0 4))
  | 0x1D => .ok (.ld d a b (.ofCode m)) | 0x1E => .ok (.st x a b (.ofCode m))
  | 0x1F => .ok (.spld d a b (.ofCode (m.extractLsb' 0 3)))
  | 0x20 => .ok (.spst x a b (.ofCode (m.extractLsb' 0 3)))
  | 0x21 => .ok (.movg dr a) | 0x22 => .ok (.pkc d) | 0x23 => .ok (.upc a)
  | 0x40 => .ok (.addi d a v) | 0x41 => .ok (.andi d a v) | 0x42 => .ok (.ori d a v)
  | 0x43 => .ok (.shli d a (v.extractLsb' 0 6)) | 0x44 => .ok (.shri d a (v.extractLsb' 0 6))
  | 0x45 => .ok (.asri d a (v.extractLsb' 0 6)) | 0x46 => .ok (.movi d v)
  | 0x47 => .ok (.movhi d a (v.extractLsb' 0 16) (v.extractLsb' 16 2))
  | 0x48 => .ok (.cmpeqi dr a v) | 0x49 => .ok (.cmplti dr a v) | 0x4A => .ok (.ldi d a v)
  | 0x4B => .ok (.sti x a v) | 0x4C => .ok (.spldi d a v) | 0x4D => .ok (.spsti x a v)
  | 0x4E => .ok (.crd d (v.extractLsb' 0 12)) | 0x4F => .ok (.cwr a (v.extractLsb' 0 12))
  | 0x50 => .ok (.pbr dr a v)
  | 0x51 => .ok (.trn (dr.extractLsb' 0 3) (dr.getLsbD 3) (dr.getLsbD 4) (w.extractLsb' 21 6))
  | 0x52 => .ok (.call a v) | 0x53 => .ok (.loop dr a v) | 0x54 => .ok .lend
  | _ => .error 0x02

/-! ## The V slots (Tables 2.5, 2.12, 6.3) -/

/-- op 35–29, dest 28–23, a 22–17, b 16–11, c 10–5, mask 4–1, reserved 0. -/
def Enc.v (op : BitVec 7) (d a b c : BitVec 6) (mask : BitVec 4) : BitVec 36 :=
  op ++ d ++ a ++ b ++ c ++ mask ++ 0#1

def encV : Instr → Option (BitVec 36)
  | .vnop => some 0
  | .vadd t d a b k => some (Enc.v (0x01 + t.code) d.code a.code b.code 0 k)
  | .vsub t d a b k => some (Enc.v (0x04 + t.code) d.code a.code b.code 0 k)
  | .vadds t d a b k => some (Enc.v (0x07 + t.code) d.code a.code b.code 0 k)
  | .vsubs t d a b k => some (Enc.v (0x0A + t.code) d.code a.code b.code 0 k)
  | .vmul t d a b k => some (Enc.v (0x0D + t.code) d.code a.code b.code 0 k)
  | .vmulh t d a b k => some (Enc.v (0x0F + t.code) d.code a.code b.code 0 k)
  | .vmin t d a b k => some (Enc.v (0x11 + t.code) d.code a.code b.code 0 k)
  | .vmax t d a b k => some (Enc.v (0x14 + t.code) d.code a.code b.code 0 k)
  | .vminn t d a b k => some (Enc.v (0x17 + t.code) d.code a.code b.code 0 k)
  | .vmaxn t d a b k => some (Enc.v (0x1A + t.code) d.code a.code b.code 0 k)
  | .vand d a b k => some (Enc.v 0x1D d.code a.code b.code 0 k)
  | .vor d a b k => some (Enc.v 0x1E d.code a.code b.code 0 k)
  | .vxor d a b k => some (Enc.v 0x1F d.code a.code b.code 0 k)
  | .vnot d a k => some (Enc.v 0x20 d.code a.code 0 0 k)
  | .vshl t d a b k => some (Enc.v (0x21 + t.code) d.code a.code b.code 0 k)
  | .vshr t d a b k => some (Enc.v (0x24 + t.code) d.code a.code b.code 0 k)
  | .vasr t d a b k => some (Enc.v (0x27 + t.code) d.code a.code b.code 0 k)
  | .vcmpeq t d a b k => some (Enc.v (0x2A + t.code) d a.code b.code 0 k)
  | .vcmplt t d a b k => some (Enc.v (0x2D + t.code) d a.code b.code 0 k)
  | .vcmpltn t d a b k => some (Enc.v (0x30 + t.code) d a.code b.code 0 k)
  | .vsel d a b c k => some (Enc.v 0x33 d.code a.code b.code c k)
  | .vfadd t d a b k => some (Enc.v (0x34 + t.code) d.code a.code b.code 0 k)
  | .vfsub t d a b k => some (Enc.v (0x37 + t.code) d.code a.code b.code 0 k)
  | .vfmul t d a b k => some (Enc.v (0x3A + t.code) d.code a.code b.code 0 k)
  | .vfma t d a b c k => some (Enc.v (0x3D + t.code) d.code a.code b.code c.code k)
  | .vfmin t d a b k => some (Enc.v (0x40 + t.code) d.code a.code b.code 0 k)
  | .vfmax t d a b k => some (Enc.v (0x43 + t.code) d.code a.code b.code 0 k)
  | .vfcmpeq t d a b k => some (Enc.v (0x46 + t.code) d a.code b.code 0 k)
  | .vfcmplt t d a b k => some (Enc.v (0x49 + t.code) d a.code b.code 0 k)
  | .vfcmple t d a b k => some (Enc.v (0x4C + t.code) d a.code b.code 0 k)
  | .vfrcp d a k => some (Enc.v 0x4F d.code a.code 0 0 k)
  | .vfrsq d a k => some (Enc.v 0x50 d.code a.code 0 0 k)
  | .vfexp2 d a k => some (Enc.v 0x51 d.code a.code 0 0 k)
  | .vflog2 d a k => some (Enc.v 0x52 d.code a.code 0 0 k)
  | .vftanh d a k => some (Enc.v 0x53 d.code a.code 0 0 k)
  | .vfsigm d a k => some (Enc.v 0x54 d.code a.code 0 0 k)
  | .vperm d a b sz k => some (Enc.v 0x55 d.code a.code b.code (0#4 ++ sz) k)
  | .vshuf d a b p sz k => some (Enc.v 0x56 d.code a.code b.code (0#1 ++ p ++ sz) k)
  | .vrot d a b sz k => some (Enc.v 0x57 d.code a.code b.code (0#4 ++ sz) k)
  | .vbcast d a sz k => some (Enc.v 0x58 d.code a.code 0 (0#4 ++ sz) k)
  | .vrdsum t d a k => some (Enc.v (0x59 + t.code) d.code a.code 0 0 k)
  | .vrdmax t d a k => some (Enc.v (0x5B + t.code) d.code a.code 0 0 k)
  | .vrdmin t d a k => some (Enc.v (0x5D + t.code) d.code a.code 0 0 k)
  | .vscan t d a k => some (Enc.v (0x5F + t.code) d.code a.code 0 0 k)
  | .vcvt d a p c k => some (Enc.v 0x61 d.code a.code p c k)
  | .vqnt t d a e ty sr k0 k =>
    some (Enc.v (0x62 + t.code) d.code a.code e (k0 ++ BitVec.ofBool sr ++ ty) k)
  | .vdq t d a e ty k0 k => some (Enc.v (0x65 + t.code) d.code a.code e (k0 ++ 0#1 ++ ty) k)
  | .vspld d a b o k => some (Enc.v 0x68 d.code a.code b.code o k)
  | .vspst x a b o k => some (Enc.v 0x69 x.code a.code b.code o k)
  | .vld d a b o k => some (Enc.v 0x6A d.code a.code b.code o k)
  | .vst x a b o k => some (Enc.v 0x6B x.code a.code b.code o k)
  | .vins d a b sz => some (Enc.v 0x6C d.code a.code b.code (0#4 ++ sz) 0)
  | .vext d a b sz sg => some (Enc.v 0x6D d.code a.code b.code (0#3 ++ BitVec.ofBool sg ++ sz) 0)
  | .vany d a k => some (Enc.v 0x6E d a 0 0 k)
  | .vall d a k => some (Enc.v 0x6F d a 0 0 k)
  | .vmov d a k => some (Enc.v 0x70 d.code a.code 0 0 k)
  | .vmovExpand d a k => some (Enc.v 0x70 d.code a 0 1 k)
  | .vmovPack d a k => some (Enc.v 0x70 d a.code 0 2 k)
  | .viota d a sz k => some (Enc.v 0x71 d.code a 0 (0#4 ++ sz) k)
  | _ => none

/-- The V slot's instruction. -/
def parseV (w : BitVec 36) : Except Nat Instr :=
  let dr := w.extractLsb' 23 6
  let ar := w.extractLsb' 17 6
  let br := w.extractLsb' 11 6
  let cr := w.extractLsb' 5 6
  let k := w.extractLsb' 1 4
  let d := Dst.ofCode dr
  let x := Src.ofCode dr
  let a := Src.ofCode ar
  let b := Src.ofCode br
  let sz := cr.extractLsb' 0 2
  match (w.extractLsb' 29 7).toNat with
  | 0x00 => .ok .vnop
  | 0x01 => .ok (.vadd .w8 d a b k) | 0x02 => .ok (.vadd .w16 d a b k) | 0x03 => .ok (.vadd .w32 d a b k)
  | 0x04 => .ok (.vsub .w8 d a b k) | 0x05 => .ok (.vsub .w16 d a b k) | 0x06 => .ok (.vsub .w32 d a b k)
  | 0x07 => .ok (.vadds .w8 d a b k) | 0x08 => .ok (.vadds .w16 d a b k)
  | 0x09 => .ok (.vadds .w32 d a b k)
  | 0x0A => .ok (.vsubs .w8 d a b k) | 0x0B => .ok (.vsubs .w16 d a b k)
  | 0x0C => .ok (.vsubs .w32 d a b k)
  | 0x0D => .ok (.vmul .w16 d a b k) | 0x0E => .ok (.vmul .w32 d a b k)
  | 0x0F => .ok (.vmulh .w16 d a b k) | 0x10 => .ok (.vmulh .w32 d a b k)
  | 0x11 => .ok (.vmin .w8 d a b k) | 0x12 => .ok (.vmin .w16 d a b k) | 0x13 => .ok (.vmin .w32 d a b k)
  | 0x14 => .ok (.vmax .w8 d a b k) | 0x15 => .ok (.vmax .w16 d a b k) | 0x16 => .ok (.vmax .w32 d a b k)
  | 0x17 => .ok (.vminn .w8 d a b k) | 0x18 => .ok (.vminn .w16 d a b k)
  | 0x19 => .ok (.vminn .w32 d a b k)
  | 0x1A => .ok (.vmaxn .w8 d a b k) | 0x1B => .ok (.vmaxn .w16 d a b k)
  | 0x1C => .ok (.vmaxn .w32 d a b k)
  | 0x1D => .ok (.vand d a b k) | 0x1E => .ok (.vor d a b k) | 0x1F => .ok (.vxor d a b k)
  | 0x20 => .ok (.vnot d a k)
  | 0x21 => .ok (.vshl .w8 d a b k) | 0x22 => .ok (.vshl .w16 d a b k) | 0x23 => .ok (.vshl .w32 d a b k)
  | 0x24 => .ok (.vshr .w8 d a b k) | 0x25 => .ok (.vshr .w16 d a b k) | 0x26 => .ok (.vshr .w32 d a b k)
  | 0x27 => .ok (.vasr .w8 d a b k) | 0x28 => .ok (.vasr .w16 d a b k) | 0x29 => .ok (.vasr .w32 d a b k)
  | 0x2A => .ok (.vcmpeq .w8 dr a b k) | 0x2B => .ok (.vcmpeq .w16 dr a b k)
  | 0x2C => .ok (.vcmpeq .w32 dr a b k)
  | 0x2D => .ok (.vcmplt .w8 dr a b k) | 0x2E => .ok (.vcmplt .w16 dr a b k)
  | 0x2F => .ok (.vcmplt .w32 dr a b k)
  | 0x30 => .ok (.vcmpltn .w8 dr a b k) | 0x31 => .ok (.vcmpltn .w16 dr a b k)
  | 0x32 => .ok (.vcmpltn .w32 dr a b k)
  | 0x33 => .ok (.vsel d a b cr k)
  | 0x34 => .ok (.vfadd .f32 d a b k) | 0x35 => .ok (.vfadd .f16 d a b k) | 0x36 => .ok (.vfadd .bf16 d a b k)
  | 0x37 => .ok (.vfsub .f32 d a b k) | 0x38 => .ok (.vfsub .f16 d a b k) | 0x39 => .ok (.vfsub .bf16 d a b k)
  | 0x3A => .ok (.vfmul .f32 d a b k) | 0x3B => .ok (.vfmul .f16 d a b k) | 0x3C => .ok (.vfmul .bf16 d a b k)
  | 0x3D => .ok (.vfma .f32 d a b (.ofCode cr) k) | 0x3E => .ok (.vfma .f16 d a b (.ofCode cr) k)
  | 0x3F => .ok (.vfma .bf16 d a b (.ofCode cr) k)
  | 0x40 => .ok (.vfmin .f32 d a b k) | 0x41 => .ok (.vfmin .f16 d a b k) | 0x42 => .ok (.vfmin .bf16 d a b k)
  | 0x43 => .ok (.vfmax .f32 d a b k) | 0x44 => .ok (.vfmax .f16 d a b k) | 0x45 => .ok (.vfmax .bf16 d a b k)
  | 0x46 => .ok (.vfcmpeq .f32 dr a b k) | 0x47 => .ok (.vfcmpeq .f16 dr a b k)
  | 0x48 => .ok (.vfcmpeq .bf16 dr a b k)
  | 0x49 => .ok (.vfcmplt .f32 dr a b k) | 0x4A => .ok (.vfcmplt .f16 dr a b k)
  | 0x4B => .ok (.vfcmplt .bf16 dr a b k)
  | 0x4C => .ok (.vfcmple .f32 dr a b k) | 0x4D => .ok (.vfcmple .f16 dr a b k)
  | 0x4E => .ok (.vfcmple .bf16 dr a b k)
  | 0x4F => .ok (.vfrcp d a k) | 0x50 => .ok (.vfrsq d a k) | 0x51 => .ok (.vfexp2 d a k)
  | 0x52 => .ok (.vflog2 d a k) | 0x53 => .ok (.vftanh d a k) | 0x54 => .ok (.vfsigm d a k)
  | 0x55 => .ok (.vperm d a b sz k) | 0x56 => .ok (.vshuf d a b (cr.extractLsb' 2 3) sz k)
  | 0x57 => .ok (.vrot d a b sz k) | 0x58 => .ok (.vbcast d a sz k)
  | 0x59 => .ok (.vrdsum .f32 d a k) | 0x5A => .ok (.vrdsum .i32 d a k)
  | 0x5B => .ok (.vrdmax .f32 d a k) | 0x5C => .ok (.vrdmax .i32 d a k)
  | 0x5D => .ok (.vrdmin .f32 d a k) | 0x5E => .ok (.vrdmin .i32 d a k)
  | 0x5F => .ok (.vscan .f32 d a k) | 0x60 => .ok (.vscan .i32 d a k)
  | 0x61 => .ok (.vcvt d a br cr k)
  | 0x62 => .ok (.vqnt .sx2 d a br sz (cr.getLsbD 2) (cr.extractLsb' 3 3) k)
  | 0x63 => .ok (.vqnt .sx4 d a br sz (cr.getLsbD 2) (cr.extractLsb' 3 3) k)
  | 0x64 => .ok (.vqnt .sx8 d a br sz (cr.getLsbD 2) (cr.extractLsb' 3 3) k)
  | 0x65 => .ok (.vdq .sx2 d a br sz (cr.extractLsb' 3 3) k)
  | 0x66 => .ok (.vdq .sx4 d a br sz (cr.extractLsb' 3 3) k)
  | 0x67 => .ok (.vdq .sx8 d a br sz (cr.extractLsb' 3 3) k)
  | 0x68 => .ok (.vspld d a b cr k) | 0x69 => .ok (.vspst x a b cr k) | 0x6A => .ok (.vld d a b cr k)
  | 0x6B => .ok (.vst x a b cr k) | 0x6C => .ok (.vins d a b sz)
  | 0x6D => .ok (.vext d a b sz (cr.getLsbD 2)) | 0x6E => .ok (.vany dr ar k)
  | 0x6F => .ok (.vall dr ar k)
  | 0x70 => match sz.toNat with
    | 0 => .ok (.vmov d a k)
    | 1 => .ok (.vmovExpand d ar k)
    | 2 => .ok (.vmovPack dr a k)
    | _ => .error (if br ≠ 0 ∨ cr.extractLsb' 2 4 ≠ 0 ∨ w.getLsbD 0 then 0x03 else 0x08)
  | 0x71 => .ok (.viota d ar sz k)
  | _ => .error 0x02

/-! ## The M, C and Y slots (Tables 2.5, 2.13a, 7.4, 8.7, 14.9) -/

/-- op 23–20, AFMT 19–17, BFMT 16–14, BANK 13, ANEST 12–9, BNEST 8–5, reserved 4–0. -/
def Enc.m (op : BitVec 4) (af bf : BitVec 3) (bank : Bool) (an bn : BitVec 4) : BitVec 24 :=
  op ++ af ++ bf ++ BitVec.ofBool bank ++ an ++ bn ++ 0#5

def encM : Instr → Option (BitVec 24)
  | .mnop => some 0
  | .macc af bf k an bn => some (Enc.m 1 af.code bf.code k an bn)
  | .mset af bf k an bn => some (Enc.m 2 af.code bf.code k an bn)
  | .mpush an bn => some (Enc.m 3 0 0 false an bn)
  | .mshift af bf k s bn => some (Enc.m 4 af.code bf.code k s bn)
  | .mdrain c clr k n i => some (Enc.m 5 c (0#2 ++ BitVec.ofBool clr) k n i)
  | .mzero k => some (Enc.m 6 0 0 k 0 0)
  | .mload k n i => some (Enc.m 7 0 0 k n i)
  | .mswap => some (Enc.m 8 0 0 false 0 0)
  | .mdrainq af clr k n i => some (Enc.m 9 af (0#2 ++ BitVec.ofBool clr) k n i)
  | _ => none

/-- The M slot's instruction. -/
def parseM (w : BitVec 24) : Except Nat Instr :=
  let ar := w.extractLsb' 17 3
  let br := w.extractLsb' 14 3
  let k := w.getLsbD 13
  let an := w.extractLsb' 9 4
  let bn := w.extractLsb' 5 4
  match (w.extractLsb' 20 4).toNat with
  | 0 => .ok .mnop
  | 1 => .ok (.macc (.ofCode ar) (.ofCode br) k an bn)
  | 2 => .ok (.mset (.ofCode ar) (.ofCode br) k an bn)
  | 3 => .ok (.mpush an bn)
  | 4 => .ok (.mshift (.ofCode ar) (.ofCode br) k an bn)
  | 5 => .ok (.mdrain ar (br.getLsbD 0) k an bn)
  | 6 => .ok (.mzero k)
  | 7 => .ok (.mload k an bn)
  | 8 => .ok .mswap
  | 9 => .ok (.mdrainq ar (br.getLsbD 0) k an bn)
  | _ => .error 0x02

/-- op 19–15, NEST 14–12, SBASE 11–8, CFLAG 7–4, PP 3–2, reserved 1–0. -/
def Enc.c (op : BitVec 5) (o : COps) : BitVec 20 :=
  op ++ o.nest ++ o.sbase ++ o.flag ++ BitVec.ofBool o.pri ++ BitVec.ofBool o.xord ++ 0#2

def encC : Instr → Option (BitVec 20)
  | .cnop => some 0
  | .cpy o => some (Enc.c 1 o)
  | .cpyt o => some (Enc.c 2 o)
  | .cmcast o => some (Enc.c 3 o)
  | .cgath o => some (Enc.c 4 o)
  | .cfill o => some (Enc.c 5 o)
  | .cpref o => some (Enc.c 6 o)
  | .put o => some (Enc.c 7 o)
  | .get o => some (Enc.c 8 o)
  | .radd o => some (Enc.c 9 o)
  | _ => none

/-- The C slot's instruction. -/
def parseC (w : BitVec 20) : Except Nat Instr :=
  let o : COps := ⟨w.extractLsb' 12 3, w.extractLsb' 8 4, w.extractLsb' 4 4, w.getLsbD 3, w.getLsbD 2⟩
  match (w.extractLsb' 15 5).toNat with
  | 0 => .ok .cnop
  | 1 => .ok (.cpy o) | 2 => .ok (.cpyt o) | 3 => .ok (.cmcast o) | 4 => .ok (.cgath o)
  | 5 => .ok (.cfill o) | 6 => .ok (.cpref o) | 7 => .ok (.put o) | 8 => .ok (.get o)
  | 9 => .ok (.radd o)
  | _ => .error 0x02

/-- op 15–12, flag 11–8, count 7–0. -/
def Enc.y (op f : BitVec 4) (n : BitVec 8) : BitVec 16 := op ++ f ++ n

def encY : Instr → Option (BitVec 16)
  | .ynop => some 0
  | .fwait f n => some (Enc.y 1 f (0#1 ++ n))
  | .fwaitAcq f n => some (Enc.y 1 f (1#1 ++ n))
  | .fpost f m => some (Enc.y 2 f (0#3 ++ m))
  | .fpostRel f dy dx => some (Enc.y 2 f (2#2 ++ dy ++ dx))
  | .fclr f => some (Enc.y 3 f 0)
  | .finc f n => some (Enc.y 4 f n)
  | .fbar f n => some (Enc.y 5 f n)
  | _ => none

/-- The Y slot's instruction. -/
def parseY (w : BitVec 16) : Except Nat Instr :=
  let f := w.extractLsb' 8 4
  match (w.extractLsb' 12 4).toNat with
  | 0 => .ok .ynop
  | 1 => .ok (if w.getLsbD 7 then .fwaitAcq f (w.extractLsb' 0 7) else .fwait f (w.extractLsb' 0 7))
  | 2 => .ok (if w.getLsbD 7 then .fpostRel f (w.extractLsb' 3 3) (w.extractLsb' 0 3)
              else .fpost f (w.extractLsb' 0 5))
  | 3 => .ok (.fclr f)
  | 4 => .ok (.finc f (w.extractLsb' 0 8))
  | 5 => .ok (.fbar f (w.extractLsb' 0 8))
  | _ => .error 0x02

/-! ## The X slot (Tables 2.6, 2.14) -/

/-- Forms XR and XA: op 31–25, dest 24–19, a 18–13, b 12–7, low seven bits. -/
def Enc.xr (op : BitVec 7) (d a b : BitVec 6) (sub : BitVec 7) : BitVec 32 := op ++ d ++ a ++ b ++ sub
/-- Form XI: op 31–25, dest 24–19, a 18–13, imm 12–0. -/
def Enc.xi (op : BitVec 7) (d a : BitVec 6) (imm : BitVec 13) : BitVec 32 := op ++ d ++ a ++ imm

/-- SCOPE code 001 with ORD 00: the update form (R363). -/
def Enc.upd (op : BitVec 7) (a b : Src) : BitVec 32 := Enc.xr op 0 a.code b.code 4

def encX : Instr → Option (BitVec 32)
  | .xnop => some 0
  | .lea d a b sh => some (Enc.xr 0x01 d.code a.code b.code (0#4 ++ sh))
  | .leai d a v => some (Enc.xi 0x02 d.code a.code v)
  | .agen d a v => some (Enc.xi 0x03 d.code a v)
  | .rbpop d => some (Enc.xr 0x04 d.code 0 0 0)
  | .esld t a v => some (Enc.xi 0x05 t a.code v)
  | .nld d a v => some (Enc.xi 0x06 d a.code v)
  | .nst d a v => some (Enc.xi 0x07 d a.code v)
  | .aadd d a b o => some (Enc.xr 0x08 d.code a.code b.code o.code)
  | .amin d a b o => some (Enc.xr 0x09 d.code a.code b.code o.code)
  | .amax d a b o => some (Enc.xr 0x0A d.code a.code b.code o.code)
  | .aminn d a b o => some (Enc.xr 0x0B d.code a.code b.code o.code)
  | .amaxn d a b o => some (Enc.xr 0x0C d.code a.code b.code o.code)
  | .aand d a b o => some (Enc.xr 0x0D d.code a.code b.code o.code)
  | .aor d a b o => some (Enc.xr 0x0E d.code a.code b.code o.code)
  | .axor d a b o => some (Enc.xr 0x0F d.code a.code b.code o.code)
  | .axchg d a b o => some (Enc.xr 0x10 d.code a.code b.code o.code)
  | .acas d a b o => some (Enc.xr 0x11 d.code a.code b.code o.code)
  | .afadd d a b o => some (Enc.xr 0x12 d.code a.code b.code o.code)
  | .aaddU a b => some (Enc.upd 0x08 a b)
  | .aminU a b => some (Enc.upd 0x09 a b)
  | .amaxU a b => some (Enc.upd 0x0A a b)
  | .aminnU a b => some (Enc.upd 0x0B a b)
  | .amaxnU a b => some (Enc.upd 0x0C a b)
  | .aandU a b => some (Enc.upd 0x0D a b)
  | .aorU a b => some (Enc.upd 0x0E a b)
  | .axorU a b => some (Enc.upd 0x0F a b)
  | .afaddU a b => some (Enc.upd 0x12 a b)
  | .oadd t a b o => some (Enc.xr 0x13 t.code a.code b.code o.code)
  | .ofadd t a b o => some (Enc.xr 0x14 t.code a.code b.code o.code)
  | .oopen d a o => some (Enc.xr 0x15 d.code a.code 0 o.code)
  | .oclose d a b o => some (Enc.xr 0x16 d.code a.code b.code o.code)
  | .spawn wt d a => some (Enc.xr 0x18 d.code a.code 0 (0#6 ++ BitVec.ofBool wt))
  | .join => some (Enc.xr 0x19 0 0 0 0)
  | .exit => some (Enc.xr 0x1A 0 0 0 0)
  | .tkt d a b => some (Enc.xr 0x1B d.code a.code b.code 0)
  | .qpush a b => some (Enc.xr 0x1C 0 a.code b.code 0)
  | .qpushT t a b => some (Enc.xr 0x1C t.code a.code b.code 1)
  | .mwait d a b => some (Enc.xr 0x20 d.code a.code b.code 0)
  | .mwaitNe d a b => some (Enc.xr 0x20 d.code a.code b.code 1)
  | .invl t a b => some (Enc.xr 0x24 t.code a.code b.code 0)
  | .invlAll t => some (Enc.xr 0x24 t.code 0 0 1)
  | .probe d a => some (Enc.xr 0x25 d.code a.code 0 0)
  | .trap v => some (Enc.xi 0x28 0 0 v)
  | .eret => some (Enc.xr 0x29 0 0 0 0)
  | .dld a e n => some (0x2A#7 ++ a.code ++ e ++ n ++ 0#1)
  | _ => none

/-- The X slot's instruction. -/
def parseX (w : BitVec 32) : Except Nat Instr :=
  let dr := w.extractLsb' 19 6
  let ar := w.extractLsb' 13 6
  let d := Dst.ofCode dr
  let t := Src.ofCode dr
  let a := Src.ofCode ar
  let b := Src.ofCode (w.extractLsb' 7 6)
  let sub := w.extractLsb' 0 7
  let v := w.extractLsb' 0 13
  let o := XaOps.ofCode sub
  let upd := sub = 4#7
  match (w.extractLsb' 25 7).toNat with
  | 0x00 => .ok .xnop
  | 0x01 => .ok (.lea d a b (sub.extractLsb' 0 3)) | 0x02 => .ok (.leai d a v)
  | 0x03 => .ok (.agen d ar v) | 0x04 => .ok (.rbpop d) | 0x05 => .ok (.esld dr a v)
  | 0x06 => .ok (.nld dr a v) | 0x07 => .ok (.nst dr a v)
  | 0x08 => .ok (if upd then .aaddU a b else .aadd d a b o)
  | 0x09 => .ok (if upd then .aminU a b else .amin d a b o)
  | 0x0A => .ok (if upd then .amaxU a b else .amax d a b o)
  | 0x0B => .ok (if upd then .aminnU a b else .aminn d a b o)
  | 0x0C => .ok (if upd then .amaxnU a b else .amaxn d a b o)
  | 0x0D => .ok (if upd then .aandU a b else .aand d a b o)
  | 0x0E => .ok (if upd then .aorU a b else .aor d a b o)
  | 0x0F => .ok (if upd then .axorU a b else .axor d a b o)
  | 0x10 => .ok (.axchg d a b o) | 0x11 => .ok (.acas d a b o)
  | 0x12 => .ok (if upd then .afaddU a b else .afadd d a b o)
  | 0x13 => .ok (.oadd t a b o) | 0x14 => .ok (.ofadd t a b o) | 0x15 => .ok (.oopen d a o)
  | 0x16 => .ok (.oclose d a b o)
  | 0x18 => .ok (.spawn (sub.getLsbD 0) d a) | 0x19 => .ok .join | 0x1A => .ok .exit
  | 0x1B => .ok (.tkt d a b)
  | 0x1C => .ok (if sub.getLsbD 0 then .qpushT t a b else .qpush a b)
  | 0x20 => match (sub.extractLsb' 0 2).toNat with
    | 0 => .ok (.mwait d a b)
    | 1 => .ok (.mwaitNe d a b)
    | _ => .error (if sub.extractLsb' 2 5 ≠ 0 then 0x03 else 0x08)
  | 0x24 => .ok (if sub.getLsbD 0 then .invlAll t else .invl t a b)
  | 0x25 => .ok (.probe d a) | 0x28 => .ok (.trap v) | 0x29 => .ok .eret
  | 0x2A => .ok (.dld t (w.extractLsb' 10 9) (w.extractLsb' 1 9))
  | _ => .error 0x02

/-! ## Encoding an instruction -/

/-- Where an instruction stands: the header's PLOG field, the header's CKPT bit, a token of a packet,
one of the slots, or nowhere (an event). -/
inductive Place where
  | plog | ckpt | token | s | v | m | c | y | x | event
  deriving DecidableEq, Repr

/-- The place of an instruction and the bits it has there (R41). An event has none. -/
def encode (i : Instr) : Place × Nat :=
  match i with
  | .checkpointBundle => (.ckpt, 1)
  | .token ix dl => (.token, (ix ++ dl).toNat)
  | _ =>
    match encPlog i with
    | some w => (.plog, w.toNat)
    | none => match encS i with
      | some w => (.s, w.toNat)
      | none => match encV i with
        | some w => (.v, w.toNat)
        | none => match encM i with
          | some w => (.m, w.toNat)
          | none => match encC i with
            | some w => (.c, w.toNat)
            | none => match encY i with
              | some w => (.y, w.toNat)
              | none => match encX i with
                | some w => (.x, w.toNat)
                | none => (.event, 0)

/-- Decoding of the bits an instruction has at its place; events have no bits to decode. -/
def decodeAt (p : Place) (w : Nat) : Option Instr :=
  match p with
  | .plog => match parsePlog (.ofNat 16 w) with | .ok o => o | .error _ => none
  | .ckpt => if w = 1 then some .checkpointBundle else none
  | .token => some (.token ((BitVec.ofNat 16 w).extractLsb' 7 9) ((BitVec.ofNat 16 w).extractLsb' 0 7))
  | .s => (parseS (.ofNat 40 w)).toOption
  | .v => (parseV (.ofNat 36 w)).toOption
  | .m => (parseM (.ofNat 24 w)).toOption
  | .c => (parseC (.ofNat 20 w)).toOption
  | .y => (parseY (.ofNat 16 w)).toOption
  | .x => (parseX (.ofNat 32 w)).toOption
  | .event => none

/-! ## Bundles (Tables 2.1, 2.2) -/

/-- Every cause found in one slot: the parser's own, an unused bit that is set (0x03), and those of
well-formedness. -/
def slotDetails {n : Nat} (w : BitVec n) (parsed : Except Nat Instr) (enc : Instr → Option (BitVec n)) :
    List Nat :=
  match parsed with
  | .error e => [e]
  | .ok i => Wf.when (enc i ≠ some w) 0x03 ++ i.wfDetails

/-- A full bundle as read: header fields, the nine instructions by slot number (1 S, 2 V0, 3 V1, 4 M,
5 C0, 6 C1, 7 Y, 8 X), and the PLOG instruction if there is one. -/
structure Bundle where
  ckpt : Bool
  profile : Nat
  w0 : Nat
  w1 : Nat
  plog : Option Instr
  slots : List (Nat × Instr)
  deriving DecidableEq, Repr

/-- Vector width in bits of a W code (R42); 0 for the reserved code. -/
def widthOf (c : BitVec 2) : Nat :=
  match c.toNat with | 0 => 256 | 1 => 512 | 2 => 1024 | _ => 0

/-- Decode causes of a full bundle's own bits, each with its slot number (R54), leaving out those that
need the context or another slot. -/
def bundleDetails (w : BitVec 256) : List (Nat × Nat) :=
  let tag (k : Nat) (l : List Nat) : List (Nat × Nat) := l.map (k, ·)
  let pl := w.extractLsb' 227 15
  tag 0 (Wf.when ((w.extractLsb' 254 2).toNat ≥ 2) 0x01) ++
  tag 0 (match parsePlog (w.extractLsb' 227 16) with
    | .error e => [e]
    | .ok none => Wf.when (pl ≠ 0 ∨ w.getLsbD 242) 0x03
    | .ok (some i) => Wf.when (encPlog i ≠ some (w.extractLsb' 227 16)) 0x03 ++ i.wfDetails) ++
  tag 0 (Wf.when (w.extractLsb' 224 3 ≠ 0) 0x03) ++
  tag 0 (Wf.when (widthOf (w.extractLsb' 245 2) = 0 ∨ widthOf (w.extractLsb' 243 2) = 0) 0x04) ++
  tag 0 (Wf.when ((w.extractLsb' 247 6).toNat > 12) 0x05) ++
  tag 1 (slotDetails (w.extractLsb' 184 40) (parseS (w.extractLsb' 184 40)) encS) ++
  tag 2 (slotDetails (w.extractLsb' 148 36) (parseV (w.extractLsb' 148 36)) encV) ++
  tag 2 (Wf.when (parseV (w.extractLsb' 148 36) matches .ok .vnop ∧ w.extractLsb' 245 2 ≠ 0) 0x03) ++
  tag 3 (slotDetails (w.extractLsb' 112 36) (parseV (w.extractLsb' 112 36)) encV) ++
  tag 3 (Wf.when (parseV (w.extractLsb' 112 36) matches .ok .vnop ∧ w.extractLsb' 243 2 ≠ 0) 0x03) ++
  tag 4 (slotDetails (w.extractLsb' 88 24) (parseM (w.extractLsb' 88 24)) encM) ++
  tag 5 (slotDetails (w.extractLsb' 68 20) (parseC (w.extractLsb' 68 20)) encC) ++
  tag 6 (slotDetails (w.extractLsb' 48 20) (parseC (w.extractLsb' 48 20)) encC) ++
  tag 7 (slotDetails (w.extractLsb' 32 16) (parseY (w.extractLsb' 32 16)) encY) ++
  tag 8 (slotDetails (w.extractLsb' 0 32) (parseX (w.extractLsb' 0 32)) encX)

/-- A full bundle's instructions, without the checks; an unreadable slot gives the NOP of its place,
and `bundleDetails` names it. -/
def readBundle (w : BitVec 256) : Bundle :=
  let get (e : Except Nat Instr) (nop : Instr) : Instr := match e with | .ok i => i | .error _ => nop
  { ckpt := w.getLsbD 253
    profile := (w.extractLsb' 247 6).toNat
    w0 := widthOf (w.extractLsb' 245 2)
    w1 := widthOf (w.extractLsb' 243 2)
    plog := match parsePlog (w.extractLsb' 227 16) with | .ok o => o | .error _ => none
    slots :=
      [(1, get (parseS (w.extractLsb' 184 40)) .snop), (2, get (parseV (w.extractLsb' 148 36)) .vnop),
       (3, get (parseV (w.extractLsb' 112 36)) .vnop), (4, get (parseM (w.extractLsb' 88 24)) .mnop),
       (5, get (parseC (w.extractLsb' 68 20)) .cnop), (6, get (parseC (w.extractLsb' 48 20)) .cnop),
       (7, get (parseY (w.extractLsb' 32 16)) .ynop), (8, get (parseX (w.extractLsb' 0 32)) .xnop)] }

/-- Token `j` of a packet (R68): bits [239−16j : 224−16j]. -/
def tokenAt (w : BitVec 256) (j : Nat) : BitVec 16 := w.extractLsb' (224 - 16 * j) 16

/-- COUNT of a packet (R68). -/
def tokenCount (w : BitVec 256) : Nat := (w.extractLsb' 250 4).toNat

/-- Whether the 256 bits are a token packet (FORM 01). -/
def isPacket (w : BitVec 256) : Bool := w.extractLsb' 254 2 = 1

/-- 0x0B of a packet's own bits: COUNT 0 or a non-zero token past COUNT; 0x03 for its reserved bits
(R68; slot 15 for the first, the header for the second, R54). -/
def packetDetails (w : BitVec 256) : List (Nat × Nat) :=
  let n := tokenCount w
  (Wf.when (w.extractLsb' 240 10 ≠ 0) 0x03).map (0, ·) ++
  (Wf.when (n = 0 ∨ n > 15 ∨ (List.range 15).any (fun j => n ≤ j ∧ tokenAt w j ≠ 0)) 0x0B).map (15, ·)

/-- A token's bundle (R69): the dictionary entry with DELTA added to the S immediate field modulo
2^21. -/
def expandToken (entry : BitVec 256) (delta : BitVec 7) : BitVec 256 :=
  let imm := entry.extractLsb' 184 21 + delta.signExtend 21
  entry.extractLsb' 205 51 ++ imm ++ entry.extractLsb' 0 184

/-- Whether the entry's S slot holds an immediate-form instruction (opcode bit 6, R45). -/
def hasImmForm (entry : BitVec 256) : Bool := entry.getLsbD 223

/-- The instruction that the host's 256-bit word stands for: the packet's first token, or the first
instruction of the bundle that is no NOP (in slot order), or SNOP when there is none. The opcode table
gives its rows no bits, so `nbits` does not narrow the word. [DESIGN CHOICE, safe: log 7] -/
def decodeTableWord (_nbits w : Nat) : Option Instr :=
  let b := BitVec.ofNat 256 w
  if isPacket b then
    if packetDetails b = [] then
      some (.token ((tokenAt b 0).extractLsb' 7 9) ((tokenAt b 0).extractLsb' 0 7))
    else none
  else if bundleDetails b ≠ [] then none
  else
    let r := readBundle b
    let nop : Instr → Bool
      | .snop | .vnop | .mnop | .cnop | .ynop | .xnop => true
      | _ => false
    if r.ckpt then some .checkpointBundle
    else match r.plog with
      | some i => some i
      | none => match r.slots.find? (fun p => !nop p.2) with
        | some p => some p.2
        | none => some .snop

end Sys2Proof
end

