-- ==== Sys2Proof/Machine/Float.lean ====
section
/-! DEFINITION. Machine/Float.lean: the number formats and their arithmetic (spec/05_numbers.md R135 to
R148, spec/03_scalar_and_control.md R92 to R95). A value is exact: a sign, a natural significand and a
power of two; rounding happens once, at the end. -/

namespace Sys2Proof

/-! ## Status bits (Table 5.9) -/

def St.nv : Word := 0x001
def St.dz : Word := 0x002
def St.of : Word := 0x004
def St.uf : Word := 0x008
def St.nx : Word := 0x010
def St.qinf : Word := 0x020
def St.qnan : Word := 0x040
def St.qsat : Word := 0x080
def St.mnv : Word := 0x100
def St.mof : Word := 0x200

/-- A status bit when a condition holds. -/
def St.when (b : Bool) (s : Word) : Word := if b then s else 0

/-! ## Formats and values -/

/-- A binary format (Table 5.1): exponent and trailing significand widths, bias, the canonical NaN, and
whether it is E4M3 (no Inf, one NaN per sign) or saturates on narrowing (the OCP formats). -/
structure Fmt where
  eb : Nat
  mb : Nat
  bias : Nat
  canon : Nat
  e4m3 : Bool
  saturates : Bool
  deriving DecidableEq, Repr

def Fmt.f32 : Fmt := ⟨8, 23, 127, 0x7FC00000, false, false⟩
def Fmt.f16 : Fmt := ⟨5, 10, 15, 0x7E00, false, false⟩
def Fmt.bf16 : Fmt := ⟨8, 7, 127, 0x7FC0, false, false⟩
def Fmt.e4m3f : Fmt := ⟨4, 3, 7, 0x7F, true, true⟩
def Fmt.e5m2f : Fmt := ⟨5, 2, 15, 0x7E, false, true⟩

/-- Width of a format in bits. -/
def Fmt.bits (f : Fmt) : Nat := 1 + f.eb + f.mb

/-- An exact value: NaN (signalling or quiet), an infinity, or (−1)^neg × m × 2^e. -/
inductive Fv where
  | nan (sig : Bool)
  | inf (neg : Bool)
  | fin (neg : Bool) (m : Nat) (e : Int)
  deriving DecidableEq, Repr

def Fv.isNan : Fv → Bool
  | .nan _ => true
  | _ => false
def Fv.isSig : Fv → Bool
  | .nan s => s
  | _ => false
def Fv.isInf : Fv → Bool
  | .inf _ => true
  | _ => false
def Fv.neg : Fv → Bool
  | .nan _ => false
  | .inf s => s
  | .fin s _ _ => s
def Fv.isZero : Fv → Bool
  | .fin _ m _ => m = 0
  | _ => false
/-- The value with its sign changed. -/
def Fv.negate : Fv → Fv
  | .nan s => .nan s
  | .inf s => .inf !s
  | .fin s m e => .fin (!s) m e

/-- The value of an encoding (R136, R139). -/
def Fmt.decode (f : Fmt) (w : Nat) : Fv :=
  let s := bitN w (f.eb + f.mb)
  let x := w / 2 ^ f.mb % 2 ^ f.eb
  let t := w % 2 ^ f.mb
  let top := 2 ^ f.eb - 1
  if f.e4m3 then
    if x = top ∧ t = 7 then .nan false
    else if x = 0 then .fin s t (1 - (f.bias : Int) - f.mb)
    else .fin s (2 ^ f.mb + t) ((x : Int) - f.bias - f.mb)
  else if x = top then
    if t = 0 then .inf s else .nan (!bitN t (f.mb - 1))
  else if x = 0 then .fin s t (1 - (f.bias : Int) - f.mb)
  else .fin s (2 ^ f.mb + t) ((x : Int) - f.bias - f.mb)

/-- Rounding modes (R145). -/
inductive Rm where
  | rne | rtz | sr (w : Nat)
  deriving DecidableEq, Repr

def Fmt.signBit (f : Fmt) (neg : Bool) : Nat := if neg then 2 ^ (f.eb + f.mb) else 0
/-- The encoding of an infinity. -/
def Fmt.infBits (f : Fmt) (neg : Bool) : Nat := f.signBit neg + (2 ^ f.eb - 1) * 2 ^ f.mb
/-- The encoding of the largest finite magnitude (Table 5.1). -/
def Fmt.maxBits (f : Fmt) (neg : Bool) : Nat :=
  f.signBit neg + (if f.e4m3 then 0x7E else (2 ^ f.eb - 1) * 2 ^ f.mb - 1)

/-- What a magnitude beyond the largest finite value delivers (Table 5.3). -/
def Fmt.beyond (f : Fmt) (neg : Bool) : Nat × Word :=
  if f.saturates then (f.maxBits neg, St.qsat ||| St.nx) else (f.infBits neg, St.of ||| St.nx)

/-- Whether a + rem/2^sh, with 0 < rem < 2^sh, rounds up to a + 1 (Table 0.4, R145). -/
def roundsUp (rm : Rm) (a rem sh : Nat) : Bool :=
  match rm with
  | .rne => rem > 2 ^ (sh - 1) || (rem = 2 ^ (sh - 1) && a % 2 = 1)
  | .rtz => false
  | .sr w => w < rem * 65536 / 2 ^ sh

/-- Round (−1)^neg × m × 2^e to a format: the encoding and the status it raises (R141, R145, R156).
"Tiny after rounding" is IEEE's, as if the exponent had no lower bound; under stochastic rounding it is the delivered
value below the least normal number. [DEDUCED, unsafe: log 109] -/
def Fmt.round (f : Fmt) (rm : Rm) (neg : Bool) (m : Nat) (e : Int) : Nat × Word :=
  if m = 0 then (f.signBit neg, 0)
  else
    let emin : Int := 1 - f.bias
    let top : Int := e + m.log2
    let q : Int := max top emin - f.mb
    let sh := (q - e).toNat
    let a := if e ≥ q then m * 2 ^ (e - q).toNat else m / 2 ^ sh
    let rem := if e ≥ q then 0 else m % 2 ^ sh
    let isMax (x : Nat) : Bool := q + f.mb + f.bias ≥ 2 ^ f.eb - (if f.e4m3 then 1 else 2) ∧
      x ≥ 2 ^ (f.mb + 1) - (if f.e4m3 then 2 else 1)
    let tooBig (x : Nat) : Bool :=
      let b : Int := q + f.mb + f.bias + (if x ≥ 2 ^ (f.mb + 1) then 1 else 0)
      if f.e4m3 then b > 15 || (b = 15 && x % 2 ^ f.mb = 7 && x < 2 ^ (f.mb + 1))
      else b ≥ 2 ^ f.eb - 1
    let up := decide (rem ≠ 0) && roundsUp rm a rem sh && !(rm matches .sr _ && isMax a)
    let x := if up then a + 1 else a
    -- the same rounding with an unbounded exponent range
    let su := (top - f.mb - e).toNat
    let au := m / 2 ^ su
    let ru := m % 2 ^ su
    let fullUp := decide (su ≠ 0 ∧ ru ≠ 0) && roundsUp rm au ru su
    let tiny := match rm with
      | .sr _ => decide (x < 2 ^ f.mb)
      | _ => decide (top < emin) &&
          !(decide (top = emin - 1) && fullUp && decide (au + 1 = 2 ^ (f.mb + 1)))
    let st := if rem = 0 then 0 else St.nx ||| St.when (decide (top < emin) && tiny) St.uf
    if tooBig (match rm with | .sr _ => a | _ => x) then f.beyond neg
    else if x < 2 ^ f.mb then (f.signBit neg + x, st)
    else
      let x' := if x ≥ 2 ^ (f.mb + 1) then x / 2 else x
      let q' := if x ≥ 2 ^ (f.mb + 1) then q + 1 else q
      (f.signBit neg + (q' + f.mb + f.bias).toNat * 2 ^ f.mb + (x' - 2 ^ f.mb), st)

/-- A value delivered in a format (R137, Table 5.3). -/
def Fmt.deliver (f : Fmt) (rm : Rm) (v : Fv) : Nat × Word :=
  match v with
  | .nan sig => (f.canon, St.when sig St.nv)
  | .inf s => if f.e4m3 then (f.maxBits s, St.qinf) else (f.infBits s, 0)
  | .fin s m e => f.round rm s m e

/-! ## Exact operations -/

/-- A signed integer that stands for m × 2^(e − base), for `base` at most `e`. -/
def Fv.scaled (neg : Bool) (m : Nat) (e base : Int) : Int :=
  let x : Int := (m * 2 ^ (e - base).toNat : Nat)
  if neg then -x else x

/-- Exact sum; opposite infinities give `none` (invalid). Zero signs as R136 gives. -/
def Fv.add : Fv → Fv → Option Fv
  | .nan s, .nan t => some (.nan (s || t))
  | .nan s, _ => some (.nan s)
  | _, .nan s => some (.nan s)
  | .inf s, .inf t => if s = t then some (.inf s) else none
  | .inf s, _ => some (.inf s)
  | _, .inf s => some (.inf s)
  | .fin s m e, .fin t n k =>
    let base := min e k
    let x := Fv.scaled s m e base + Fv.scaled t n k base
    some (if x = 0 then .fin (s && t) 0 0 else .fin (decide (x < 0)) x.natAbs base)

/-- Exact product; 0 × Inf gives `none` (invalid). -/
def Fv.mul : Fv → Fv → Option Fv
  | .nan s, .nan t => some (.nan (s || t))
  | .nan s, _ => some (.nan s)
  | _, .nan s => some (.nan s)
  | .inf s, .inf t => some (.inf (s ^^ t))
  | .inf s, .fin t n _ => if n = 0 then none else some (.inf (s ^^ t))
  | .fin s m _, .inf t => if m = 0 then none else some (.inf (s ^^ t))
  | .fin s m e, .fin t n k => some (.fin (s ^^ t) (m * n) (e + k))

/-- m/n × 2^e to 64 bits past the point, with a last bit that says whether anything is left. -/
def quotSticky (m n : Nat) (e : Int) : Nat × Int :=
  let k := 64 + n.log2
  let q := m * 2 ^ k / n
  (2 * q + (if m * 2 ^ k % n = 0 then 0 else 1), e - k - 1)

/-- The integer square root, bit by bit from bit `k`. -/
def isqrtFrom (n : Nat) : Nat → Nat → Nat
  | 0, r => if (r + 1) * (r + 1) ≤ n then r + 1 else r
  | k + 1, r => isqrtFrom n k (if (r + 2 ^ (k + 1)) * (r + 2 ^ (k + 1)) ≤ n then r + 2 ^ (k + 1) else r)

/-- floor(√n). -/
def isqrt (n : Nat) : Nat := isqrtFrom n (n.log2 / 2 + 1) 0

/-- √(m × 2^e) with a last bit that says whether anything is left. -/
def sqrtSticky (m : Nat) (e : Int) : Nat × Int :=
  let m' := if e % 2 = 0 then m * 2 ^ 80 else m * 2 ^ 81
  let e' := if e % 2 = 0 then e - 80 else e - 81
  let r := isqrt m'
  (2 * r + (if r * r = m' then 0 else 1), e' / 2 - 1)

/-! ## IEEE operations on encodings (R93, R94, R136 to R138, R169, R170) -/

/-- The delivered value of an operation whose result is exact or invalid, with the NV that signalling
operands raise. -/
def Fmt.finish (f : Fmt) (sig : Bool) (r : Option Fv) : Nat × Word :=
  match r with
  | none => (f.canon, St.nv)
  | some (.nan _) => (f.canon, St.when sig St.nv)
  | some v => let (b, st) := f.deliver .rne v; (b, st ||| St.when sig St.nv)

def Fmt.fadd (f : Fmt) (a b : Nat) : Nat × Word :=
  let x := f.decode a; let y := f.decode b
  f.finish (x.isSig || y.isSig) (x.add y)
def Fmt.fsub (f : Fmt) (a b : Nat) : Nat × Word :=
  let x := f.decode a; let y := f.decode b
  f.finish (x.isSig || y.isSig) (x.add y.negate)
def Fmt.fmul (f : Fmt) (a b : Nat) : Nat × Word :=
  let x := f.decode a; let y := f.decode b
  f.finish (x.isSig || y.isSig) (x.mul y)
/-- a × b + c, rounded once; Inf × 0 is invalid even beside a quiet NaN addend (R170). -/
def Fmt.ffma (f : Fmt) (a b c : Nat) : Nat × Word :=
  let x := f.decode a; let y := f.decode b; let z := f.decode c
  let sig := x.isSig || y.isSig || z.isSig
  match x.mul y with
  | none => (f.canon, St.nv)
  | some p => f.finish sig (p.add z)
def Fmt.fdiv (f : Fmt) (a b : Nat) : Nat × Word :=
  let x := f.decode a; let y := f.decode b
  let sig := x.isSig || y.isSig
  let s := x.neg ^^ y.neg
  match x, y with
  | .nan t, _ => f.finish sig (some (.nan t))
  | _, .nan t => f.finish sig (some (.nan t))
  | .inf _, .inf _ => f.finish sig none
  | .inf _, .fin _ _ _ => f.finish sig (some (.inf s))
  | .fin _ _ _, .inf _ => f.finish sig (some (.fin s 0 0))
  | .fin _ m e, .fin _ n k =>
    if n = 0 then
      if m = 0 then f.finish sig none else (f.infBits s, St.dz)
    else
      let (q, qe) := quotSticky m n (e - k)
      f.finish sig (some (.fin s q qe))
def Fmt.fsqrt (f : Fmt) (a : Nat) : Nat × Word :=
  match f.decode a with
  | .nan s => f.finish s (some (.nan s))
  | .inf s => if s then f.finish false none else (f.infBits false, 0)
  | .fin s m e =>
    if m = 0 then (f.signBit s, 0)
    else if s then f.finish false none
    else let (r, re) := sqrtSticky m e; f.finish false (some (.fin false r re))

/-- Order of two values that are not NaN: −1, 0 or 1; −0 equals +0. -/
def Fv.cmp (x y : Fv) : Int :=
  let key (v : Fv) (base : Int) : Int :=
    match v with
    | .fin s m e => Fv.scaled s m e base
    | _ => 0
  match x, y with
  | .inf s, .inf t => if s = t then 0 else if s then -1 else 1
  | .inf s, _ => if s then -1 else 1
  | _, .inf t => if t then 1 else -1
  | .fin _ _ e, .fin _ _ k => (key x (min e k) - key y (min e k)).sign
  | _, _ => 0

/-- Comparison relations of R94. -/
inductive Rel where
  | eq | lt | le
  deriving DecidableEq, Repr

/-- The relation and the status of R94. -/
def Fmt.compare (f : Fmt) (r : Rel) (a b : Nat) : Bool × Word :=
  let x := f.decode a; let y := f.decode b
  if x.isNan || y.isNan then
    (false, St.when (r ≠ .eq || x.isSig || y.isSig) St.nv)
  else
    let c := x.cmp y
    (match r with | .eq => c = 0 | .lt => c < 0 | .le => c ≤ 0, 0)

/-- Floating minimum (`wantMax` false) and maximum of R138. -/
def Fmt.minMax (f : Fmt) (wantMax : Bool) (a b : Nat) : Nat × Word :=
  let x := f.decode a; let y := f.decode b
  let st := St.when (x.isSig || y.isSig) St.nv
  if x.isNan && y.isNan then (f.canon, st)
  else if x.isNan then (b, st)
  else if y.isNan then (a, st)
  else
    let c := x.cmp y
    let aLess := decide (c < 0) || (decide (c = 0) && x.neg && !y.neg)
    (if aLess = wantMax then b else a, st)

/-! ## Conversions (R95, R140, R141, R178) -/

/-- A value to an integer in [lo, hi] (R95, R140): NaN gives 0; out of range saturates; either raises
NV. An inexact result raises NX. Stochastic rounding compares magnitudes with the largest value (R145).
[DEDUCED, unsafe: log 95] -/
def Fv.toInt (rm : Rm) (lo hi : Int) (v : Fv) : Int × Word :=
  match v with
  | .nan _ => (0, St.nv)
  | .inf s => (if s then lo else hi, St.nv)
  | .fin s m e =>
    let sh := (-e).toNat
    let a := if e ≥ 0 then m * 2 ^ e.toNat else m / 2 ^ sh
    let rem := if e ≥ 0 then 0 else m % 2 ^ sh
    let sg (x : Nat) : Int := if s then -(x : Int) else x
    let outOf (x : Int) : Bool := match rm with
      | .sr _ => decide ((x.natAbs : Int) > hi)
      | _ => decide (x < lo) || decide (x > hi)
    let up := decide (rem ≠ 0) && roundsUp rm a rem sh &&
      !(rm matches .sr _ && outOf (sg (a + 1)))
    let x := sg (if up then a + 1 else a)
    if outOf x then (satI x lo hi, St.nv) else (x, St.when (rem ≠ 0) St.nx)

/-- The exact value of an integer. -/
def Fv.ofInt (x : Int) : Fv := .fin (decide (x < 0)) x.natAbs 0

/-- Conversion between two floating formats. -/
def Fmt.convert (src dst : Fmt) (rm : Rm) (a : Nat) : Nat × Word := dst.deliver rm (src.decode a)

/-- FCVT by code (Table 3.7) on the 64-bit source. -/
def fcvt (code : Nat) (a : Word) : Word × Word :=
  let x := Fmt.f32.decode (a.toNat % 2 ^ 32)
  let int (p : Int × Word) : Word × Word := (BitVec.ofInt 64 p.1, p.2)
  let nat (p : Nat × Word) : Word × Word := (BitVec.ofNat 64 p.1, p.2)
  match code with
  | 0 => int (x.toInt .rtz (-(2 ^ 63)) (2 ^ 63 - 1))
  | 1 => int (x.toInt .rne (-(2 ^ 63)) (2 ^ 63 - 1))
  | 2 => int (x.toInt .rtz 0 (2 ^ 64 - 1))
  | 3 => nat (Fmt.f32.deliver .rne (.ofInt a.toInt))
  | 4 => nat (Fmt.f32.deliver .rne (.ofInt a.toNat))
  | 5 => nat (Fmt.f16.deliver .rne x)
  | 6 => nat (Fmt.f32.deliver .rne (Fmt.f16.decode (a.toNat % 2 ^ 16)))
  | 7 => nat (Fmt.bf16.deliver .rne x)
  | _ => nat (Fmt.f32.deliver .rne (Fmt.bf16.decode (a.toNat % 2 ^ 16)))

/-! ## Block formats (R142, R143, R147) -/

/-- rnd(W, i) of R146. -/
def rndOf (w : Word) (i : Nat) : Nat := (eltN 16 w.toNat (i % 4) + (i / 4) * 0x9E37) % 65536

/-- The value of a block element with `m` magnitude bits under scale word `sc` (R142, R143); `i` is its
index in the block. -/
def blockElem (m sc el i : Nat) : Fv :=
  if sc / 256 % 256 = 255 then .nan false
  else
    let mag := el % 2 ^ m
    let d := sc / 2 ^ (2 * (i / 4)) % 4
    if mag = 0 then .fin false 0 0
    else .fin (bitN el m) mag ((sc / 256 % 256 : Nat) - 127 - (d : Int) - ((m : Int) - 1))

/-- How a quantised element is rounded: QRN or QSR with a word and an index base (R147), or MDRAINQ's
round to nearest even throughout (R204). -/
inductive QMode where
  | qrn (w : Word) (base : Nat)
  | qsr (w : Word) (base : Nat)
  | drain
  deriving DecidableEq, Repr

/-- floor(log2 of the magnitude) of a finite non-zero value. -/
def Fv.exponent : Fv → Int
  | .fin _ m e => m.log2 + e
  | _ => 0

/-- One element of a block under exponent `unit` (R147): its code and status. -/
def quantElem (m : Nat) (mode : QMode) (unit : Int) (i : Nat) (v : Fv) : Nat × Word :=
  let top := 2 ^ m - 1
  match v with
  | .inf s => ((if s then 2 ^ m else 0) + top, 0)
  | .nan _ => (0, 0)
  | .fin s x e =>
    let sh := (unit - e).toNat
    let q := if e ≥ unit then x * 2 ^ (e - unit).toNat else x / 2 ^ sh
    let rem := if e ≥ unit then 0 else x % 2 ^ sh
    let sr (w : Word) (base : Nat) : Nat :=
      if rndOf w (base + i) < rem * 65536 / 2 ^ sh then q + 1 else q
    let near : Nat := if roundsUp .rne q rem sh then q + 1 else q
    let r : Nat × Word :=
      if rem = 0 then (q, 0)
      else match mode with
        | .qsr w b => (sr w b, St.when (q = 0) St.uf)
        | .qrn w b => if q = 0 then (sr w b, St.uf) else (near, 0)
        | .drain => (near, St.when (q = 0) St.uf)
    let mag := min r.1 top
    let st := r.2 ||| St.when (r.1 > top) St.qsat ||| St.when (rem ≠ 0 ∨ r.1 > top) St.nx
    ((if mag ≠ 0 ∧ s then 2 ^ m else 0) + mag, st)

/-- quantise_block of R147: the scale word, the sixteen element codes and the status. -/
def quantBlock (m : Nat) (mode : QMode) (x : List Fv) : Nat × List Nat × Word :=
  if x.any Fv.isNan then
    (0xFF00, List.replicate 16 0, St.qnan ||| St.when (x.any Fv.isSig) St.nv)
  else
    let anyInf := x.any Fv.isInf
    let fins := x.filter fun v => !v.isInf && !v.isZero
    let st0 := St.when anyInf St.qinf
    if fins = [] ∧ !anyInf then (0, List.replicate 16 0, 0)
    else
      let maxExp (l : List Fv) : Int := l.foldl (fun a v => max a v.exponent) (-100000)
      let ex : Int := if fins = [] then 0xFE else satI (maxExp fins + 127) 0 0xFE
      let step (g : Nat) : Nat :=
        let quad := (x.drop (4 * g)).take 4
        let nz := quad.filter fun v => !v.isZero
        if quad.any Fv.isInf then 0
        else if nz = [] then 0
        else (satI (ex - 128 - maxExp nz) 0 3).toNat
      let r := (List.range 16).map fun i =>
        quantElem m mode (ex - 127 - (step (i / 4) : Nat) - ((m : Int) - 1)) i (x.getD i (.fin false 0 0))
      let sc := ex.toNat * 256 + step 3 * 64 + step 2 * 16 + step 1 * 4 + step 0
      (sc, r.map (·.1), r.foldl (fun a p => a ||| p.2) st0)

end Sys2Proof
end

