-- ==== Sys2Proof/Config.lean ====
section
/-! DEFINITION. Config.lean: what an implementation fixes, and the free values. Every `opaque` constant
here has no body, so no proof can see a value of it (notes/assumptions/ names each). -/

namespace Sys2Proof.Config

/-- Free byte number `k`: what a scratchpad byte that the task has not written reads as (R220).
[DESIGN CHOICE, safe: log 5; DESIGN CHOICE, safe: log 26] -/
opaque freeByte : Nat → Byte

/-- Free choice number `k`: whether a stopped copy had already written an element (R244).
[DESIGN CHOICE, safe: log 26; DESIGN CHOICE, safe: log 27] -/
opaque freeBit : Nat → Bool

/-- The byte that host memory holds at a physical address before anything has written it (R493).
[DESIGN CHOICE, safe: log 3] -/
opaque hostByte : Nat → Byte

/-- What a byte reads as at a physical address of the unmapped range of Table 11.3, which no rule gives.
[DESIGN CHOICE, safe: log 4] -/
opaque absentByte : Nat → Byte

/-- Free FP32 value number `k`: the rounding of a special function whose exact value the model's
interval cannot separate from a rounding boundary (R172). [DESIGN CHOICE, safe: log 22] -/
opaque freeF32 : Nat → BitVec 32

/-- The hub's window key (R430). [DESIGN CHOICE, safe: log 6] -/
opaque windowKey : List Byte

/-- The hub's queue key (R450). [DESIGN CHOICE, safe: log 6] -/
opaque queueKey : List Byte

/-- The internal form of a commit-buffer entry, over which the rerun signature is taken (R288).
[DESIGN CHOICE, safe: log 6] -/
opaque internalForm : List Nat → List Byte

/-- The hash of SRC, DST and XID that draws intermediate group number `k` of a non-minimal route
(R422). [DESIGN CHOICE, safe: log 6] -/
opaque routeHash : Nat → Nat → Nat → Nat → Nat

/-- The key and the salt that the F7s of two hubs agree (R427), for a direction of a link and the number of the key.
[DESIGN CHOICE, safe: log 120] -/
opaque linkKey : Nat → Nat → BitVec 256
opaque linkSalt : Nat → Nat → BitVec 96

/-- SHA3-256 of the image that a measurement names (R460): 0 the hub loader, 1 to 8 the images of F0 to
F7, 9 the HBM controller and UCIe firmware, 10 the configuration. [DESIGN CHOICE, safe: log 6] -/
opaque imageDigest : Nat → BitVec 256

/-- The version of the stock image of a Nalvel function (R462). [DESIGN CHOICE, safe: log 6] -/
opaque stockVersion : Nat → Nat

/-- Bytes that the device identity signs or encrypts in an attestation answer (R461).
[DESIGN CHOICE, safe: log 73] -/
opaque attest : Nat → List Nat → BitVec 256

/-- Bytes of an entry of section `j` of a SUMMARY record, for the values that Table 15.10 names for it, in its order: the
table gives the entry's size and contents, and no layout (R459). [DEDUCED, safe: log 49] -/
opaque summaryEntry : Nat → List Nat → List Byte

/-- Physical base of the region control block table (R22, R32), which the firmware chooses.
[DESIGN CHOICE, safe: log 6] -/
opaque rcbBase : Nat

/-- The 4 KiB page of HBM, by number, that F3 takes for the `k`-th page table that it makes (R383).
[DESIGN CHOICE, safe: log 51] -/
opaque tablePage : Nat → Nat

/-- Save slots that F3 adds to the pool of a top-level region for the saved tasks that its subtree may hold (R272), which no
rule counts. [DESIGN CHOICE, safe: log 101] -/
opaque poolExtra : Nat → Nat

/-- The 32 KiB of Nalvel-owned HBM that F3 gives a context for its spill ring (R304).
[DESIGN CHOICE, safe: log 97] -/
opaque spillRing : Nat → Nat

/-- The module's id, which F5 writes at bring-up (R402). [DESIGN CHOICE, safe: log 102] -/
opaque moduleId : Fin 16416

/-- Which step of Table 19.3, less one, fails in a bring-up, if any, by free value number (R493).
[DESIGN CHOICE, safe: log 102] -/
opaque bringupFails : Nat → Option (Fin 9)

/-- The input voltage that a module reset finds, in 10 mV units, by free value number (R487).
[DESIGN CHOICE, safe: log 102] -/
opaque inputVoltage : Nat → Nat

/-- Whether a bring-up's self-test finds a core bad, by free value number and core: logical positions 0 to 95, and 96 + 2d
and 97 + 2d for the spares of die d (R493, step 5). [DESIGN CHOICE, safe: log 102] -/
opaque selfTestFails : Nat → Nat → Bool

/-- The 64 KiB of Nalvel-owned HBM, by number, of a function (R463). [DESIGN CHOICE, safe: log 121] -/
opaque nalvelArea : Nat → Nat

/-- The schema version of a graft, by the digest of its image (R463). [DESIGN CHOICE, safe: log 121] -/
opaque graftSchema : BitVec 256 → Nat

/-- SHA3-256 of a region-0 policy that system software supplies, by a number that names it (R460).
[DESIGN CHOICE, safe: log 121] -/
opaque policyDigest : Nat → BitVec 256

/-- Number of logical cores per die, of dies, and of contexts (R19). -/
abbrev coresPerDie : Nat := 24
abbrev dies : Nat := 4
abbrev cores : Nat := 96
abbrev contexts : Nat := 192

end Sys2Proof.Config
end

