-- ==== Sys2Proof/Machine/State.lean ====
section
/-! DEFINITION. Machine/State.lean: everything the spec gives the machine, as plain data. A context is
named by a number, 2 × logical core id for the foreground and one more for the background; a logical
core id is die × 24 + row × 6 + column (Table 2.7). INVENTORY.md lists each field with its rule. -/

namespace Sys2Proof.Machine

/-! ## A context -/

/-- What a latch holds: a result and the width of the operation that made it (R57). -/
structure LatchVal where
  width : Nat
  val : BitVec 1024
  deriving DecidableEq, Repr

/-- One register write that a result makes when it lands. Masks say which bits are written. -/
inductive Wr where
  | s (n : Nat) (v : Word)
  | c (n : Nat) (v : Bool)
  | b (n : Nat) (v : Word)
  | i (n : Nat) (v : BitVec 32)
  | g (n : Nat) (v : Word)
  | n (n : Nat) (v : BitVec 512)
  | v (n : Nat) (v mask : BitVec 1024)
  | m (n : Nat) (v mask : BitVec 128)
  | e (n : Nat) (v mask : BitVec 128)
  | cr (n : Nat) (v : Word)
  | asc (v : BitVec 2048)
  | bsc (v : BitVec 4096)
  | ph0
  deriving DecidableEq, Repr

/-- A result in flight (R55): issue cycles still to go, what it writes, the latch it enters (0 S, 1 V0,
2 V1, 3 X), and the status it raises. -/
structure Land where
  left : Nat
  wr : List Wr
  latch : Option (Nat × LatchVal)
  status : Word
  deriving DecidableEq, Repr

/-- One open loop level (R112). -/
structure LoopLvl where
  k : Nat
  count : Nat
  start : Word
  deriving DecidableEq, Repr

/-- The pending transfer (R107). -/
structure Pending where
  target : Word
  left : Nat
  deriving DecidableEq, Repr

/-- What an M instruction does at its array point (R197); the operands are those of its issue. -/
inductive MAct where
  | beat (bank : Nat) (set : Bool) (af bf : MFmt) (profile : Nat) (a : BitVec 4096) (b : BitVec 8192)
      (shift : Nat) (asc : BitVec 2048) (bsc : BitVec 4096) (ph : Nat)
  | drain (bank row code : Nat) (clr : Bool) (off : Option Nat)
  | drainq (bank row fmt : Nat) (clr : Bool) (off : Option Nat)
  | load (bank row : Nat) (img : BitVec 8192)
  | zero (bank : Nat)
  deriving DecidableEq, Repr

/-- An M instruction in flight. -/
structure MOp where
  left : Nat
  act : MAct
  deriving DecidableEq, Repr

/-- A drain write not yet landed (R203): its bytes, its offset (none when clipped) and its status. -/
structure Drain where
  left : Nat
  off : Option Nat
  bytes : List Byte
  status : Word
  deriving DecidableEq, Repr

/-- What trap entry saves in the snapshot buffer (R276): M status is among the results in flight. -/
structure TrapSave where
  pending : Option Pending
  delay : Nat
  loops : List LoopLvl
  latches : Tab (Option LatchVal)
  flight : List Land
  /-- The checkpoint bundle that had performed steps 1 and 2 and not yet issued, if there was one (R283). -/
  opened : Option Word
  deriving DecidableEq, Repr

/-- The state of a context that a checkpoint captures and a rollback restores (R282). -/
structure Arch where
  s : Tab Word := []
  c : Tab Bool := []
  b : Tab Word := []
  i : Tab (BitVec 32) := []
  g : Tab Word := []
  n : Tab (BitVec 512) := []
  v : Tab (BitVec 1024) := []
  m : Tab (BitVec 128) := []
  e : Tab (BitVec 128) := []
  f : Tab (BitVec 16) := []
  /-- Control registers by number (Tables 3.12, 10.6), those that are stored. -/
  cr : Tab Word := []
  pc : Word := 0
  pending : Option Pending := none
  /-- Bundles still to come in a delay position after a TRN or CALL, taken or not (R108). -/
  delay : Nat := 0
  /-- Open loop levels, innermost first. -/
  loops : List LoopLvl := []
  /-- The index register that each level was last opened with, level 0 first: what LOOPST shows of a level that is
  closed (Table 3.14, R114). -/
  ix : Tab Nat := []
  flight : List Land := []
  /-- Latches by selector code less 32 (Table 2.7). -/
  latches : Tab (Option LatchVal) := []
  dict : Tab (Option (BitVec 256)) := []
  rbq : List Word := []
  seed : Word := 0
  stream : BitVec 32 := 0
  lane : BitVec 32 := 0
  popcnt : BitVec 48 := 0
  nextBlock : Word := 0
  /-- The first word of the next block is discarded (R151). -/
  skipWord : Bool := false
  asc : BitVec 2048 := 0
  bsc : BitVec 4096 := 0
  ph : Nat := 0
  ahold : BitVec 4096 := 0
  bhold : BitVec 8192 := 0
  /-- Accumulator rows: physical bank × 128 + row. -/
  acc : Tab (BitVec 8192) := []
  /-- The names acc0 and acc1 are exchanged (R198). -/
  swap : Bool := false
  mflight : List MOp := []
  drains : List Drain := []
  trap : Option TrapSave := none
  /-- In a capture: the task's window bytes, by group × 1 MiB and logical offset (Table 8.2, retirement). -/
  spad : Tab (Option Byte) := []
  deriving DecidableEq, Repr

/-- States of a context (Table 9.1); `held` remembers whether it was in TRAP. -/
inductive CtxState where
  | idle | run | trap | save | held (inTrap : Bool)
  deriving DecidableEq, Repr

/-- A declared VA range of a task (Table 13.4). -/
structure VaRange where
  idx : Nat
  base : Nat
  len : Nat
  r : Bool
  w : Bool
  x : Bool
  deriving DecidableEq, Repr

/-- A tensor of a lease: its descriptor's fields, its rights and its tile table (R387, R396). -/
structure Tensor where
  idx : Nat
  desc : Nat
  tid : Nat
  ndim : Nat
  elog : Nat
  layout : Nat
  dbase : Nat
  extent : List Nat
  tlog : List Nat
  tiles : List Nat
  r : Bool
  w : Bool
  deriving DecidableEq, Repr

/-- What a context still does that has issued its JOIN, with CONTBLK as it read it, or its EXIT, or whose task a
fault ends (R276, R315, R320). -/
inductive Ending where
  | join (blk : Nat) | exit | fault
  deriving DecidableEq, Repr

/-- How far a launch has come (R295): it waits for its lease, for its condition words, or for its cluster. -/
inductive LaunchStage where
  | lease | cond | reserve
  deriving DecidableEq, Repr

/-- A range entry as it was read, with its tensor descriptor when it names one that is readable (Tables 13.4, 13.5). -/
abbrev RawRange := BitVec 256 × Option (BitVec 1024)

/-- A task on its way from a record to its shadow banks (R295): the queue whose record is in dispatch, the frame with
its range table and dictionary image as read at step 1, the lease that it holds, the node that it completes, and for
a tile step its first s register and coordinates (R324). -/
structure Launch where
  q : Option Nat
  die : Nat
  ticket : Nat
  region : Nat
  frame : Word
  frameBits : BitVec 2048
  table : List RawRange
  image : List (BitVec 256)
  stage : LaunchStage
  lease : Nat
  cnode : Word
  coords : Option (Nat × List Word)
  deriving DecidableEq, Repr

/-- What a context knows of its task (R255): identity, predicate map, windows, geometry, completion. `uid`
is the model's own number of the task, shared by the members of its cluster. -/
structure Task where
  uid : Nat := 0
  frame : Word := 0
  ticket : Nat := 0
  region : Nat := 0
  /-- Effective DET at launch (R29). -/
  det : Bool := false
  pred : BitVec 32 := 0
  /-- Window sizes and physical bases, groups A, B, C, in bytes (R216). -/
  win : List Nat := []
  pbase : List Nat := []
  /-- Cluster width, height and origin (column, row) on its die, and this member's index. -/
  w : Nat := 1
  h : Nat := 1
  ox : Nat := 0
  oy : Nat := 0
  die : Nat := 0
  member : Nat := 0
  /-- Espalier origin and size within the cluster; width 0 when there is none. -/
  ex0 : Nat := 0
  ey0 : Nat := 0
  ew : Nat := 0
  eh : Nat := 0
  cnode : Word := 0
  parent : Word := 0
  contblk : Word := 0
  saveArea : Word := 0
  /-- The lease this task holds or inherited (0: none). -/
  lease : Nat := 0
  ranges : List VaRange := []
  tensors : List Tensor := []
  /-- A tile step's launch, and whether the task has released an effect (R325). -/
  tile : Option Launch := none
  released : Bool := false
  deriving DecidableEq, Repr

/-- A fault's record: class, slot, detail and the registers FAULTREC1 to FAULTREC3 (R275). -/
structure FaultRec where
  cls : Nat
  slot : Nat
  detail : Nat
  pc : Word
  r2 : Word
  r3 : Word
  deriving DecidableEq, Repr

/-- Operations of the atomics (Table 12.5). -/
inductive AtOp where
  | add | min | max | minn | maxn | and | or | xor | xchg | cas | fadd
  deriving DecidableEq, Repr

/-- A copy or fabric command as it was issued: its nest records and staging words are those of its
issue (R231). `op` is the C opcode. -/
structure Cmd where
  op : Nat
  src : BitVec 512
  drec : BitVec 512
  words : List Word
  flag : Nat
  pri : Bool
  xord : Bool
  pc : Word
  slot : Nat
  /-- Issue number of the command in its context, over both engines. -/
  seq : Nat
  /-- It has started; the elements of a copy that are moved, or the fragments of a fabric command that are sent
  (R227, R229, R436). -/
  started : Bool
  moved : Nat := 0
  /-- The writes of its walk whose bytes may take any value; a write, and the one of the same bytes that comes last. Both
  are known when it starts, by position, so that they hold wherever the command goes on (R229, R233). -/
  clash : List Nat := []
  last : List (Nat × Nat) := []
  /-- The window handle, read when a fabric command starts (R434). -/
  handle : BitVec 256 := 0
  deriving DecidableEq, Repr

/-- What a held effect releases: a scope, a path mask, and the issue number before which the context's commands are
earlier (R356). -/
structure Release where
  scope : Scope
  paths : BitVec 4
  seq : Nat
  deriving DecidableEq, Repr

/-- An external effect (R284). -/
inductive Eff where
  | store (va : Word) (data : List (Option Byte)) (hint : Hint) (rel : Option Release)
      (pc : Word) (slot : Nat)
  | upd (op : AtOp) (va v : Word) (pc : Word)
  | ordered (fp : Bool) (va v : Word) (t : Nat) (rel : Option Release) (pc : Word)
  | copy (eng : Nat) (cmd : Cmd)
  | qpush (cap : BitVec 256) (rec : BitVec 512) (tk : Option Nat) (seq : Nat)
  | spawn (f : Word) (t : Nat) (parent : Word) (seq : Nat)
  | invl (asid : Nat) (all : Bool) (va n : Word) (seq : Nat)
  | fpost (flag member : Nat) (seq : Nat)
  /-- An ordered atomic that is a wide release is under way: what follows waits until its slice has taken it (R357). -/
  | ordWait
  /-- An INVL has removed its entries: what follows waits for the accesses that used one of them (R399). -/
  | invlWait (asid : Nat) (all : Bool) (va n : Word)
  /-- A push that the hub has unsealed waits there: it stays in the commit buffer (R303, R458). -/
  | pushWait (cap : BitVec 256) (rec : BitVec 512) (tk : Option Nat)
  deriving DecidableEq, Repr

/-- A request that a checkpoint bundle makes (R301, R365, R371): the operation, addresses and operands. -/
inductive Request where
  | atomic (op : AtOp) (va : Nat) (v e : Word)
  | tkt (va : Nat) (n : Word)
  | oopen (va : Nat)
  | oclose (va : Nat) (v : Word)
  deriving DecidableEq, Repr

/-- A request of an espalier member that waits for the release of the regions before it (R283, R365): where its reply
goes, and the PC of its bundle. -/
structure Asked where
  req : Request
  rel : Option Release
  acq : Option (Scope × BitVec 4)
  dst : Nat
  pc : Word
  deriving DecidableEq, Repr

/-- An interlocked load outstanding (R84): where its data goes, and how it will fail if it does. `ext`
marks the load of a device page, whose access is performed when its data comes: `acq` is then its acquire, and `own`
the bytes of the context's own earlier stores (R98, R334, R358). -/
structure Outst where
  wr : Wr
  pc : Word
  va : Word
  size : Nat
  ext : Bool
  bad : Option FaultRec
  acq : Option (Scope × BitVec 4) := none
  own : List (Option Byte) := []
  /-- Its request has still to be made (R365). -/
  asked : Bool := false
  /-- It has gone to the hub: a load of a device page waits for its turn (R334). -/
  sent : Bool := true
  deriving DecidableEq, Repr

/-- A deque entry (R304). -/
structure DqEnt where
  frame : Word
  ticket : Nat
  region : Nat
  /-- The lease the frame inherits, with the ranges it may declare within (R391). -/
  lease : Nat
  ranges : List VaRange
  tensors : List Tensor
  /-- The DET that a continuation's segments were launched under (R29); none for a frame not yet launched. -/
  det : Option Bool
  deriving DecidableEq, Repr

/-- An ordered atomic on its way to its home slice (R372). -/
structure OrdReq where
  uid : Nat
  member : Nat
  fp : Bool
  pa : Nat
  va : Word
  v : Word
  t : Nat
  pc : Word
  ticket : Nat
  region : Nat
  frame : Word
  /-- It is of an espalier member. -/
  esp : Bool
  /-- The core that sent it. -/
  src : Nat
  deriving DecidableEq, Repr

/-- What a full shadow launch bank starts (R255): a task from its frame with its first registers, or a
saved context. -/
inductive Bank where
  | start (task : Task) (arch : Arch)
  | saved (k member : Nat)
  deriving DecidableEq, Repr

/-- A rerun in progress (R287): 1 or 2, and the count and signature of the first; 3 when they have agreed, and the
closing checkpoint has still to issue. -/
structure Rerun where
  phase : Nat
  count : Nat
  sig : BitVec 32
  deriving DecidableEq, Repr

/-- The partial device wake group of a context (R456). -/
structure WakeGroup where
  slot : Nat
  next : Nat
  bytes : BitVec 256
  deriving DecidableEq, Repr

/-- What steers fetch (R111): a LOOP's trip count, whether a TRN is taken or a LEND branches, and the
target. In an espalier these are the lead's. -/
structure Steer where
  count : Nat := 0
  taken : Bool := false
  target : Word := 0
  deriving DecidableEq, Repr

/-- A bundle that the lead of an espalier has broadcast and a member has still to issue (R263). -/
structure Feed where
  pc : Word
  bits : BitVec 256
  fromToken : Bool
  steer : Steer
  succ : Word
  deriving DecidableEq, Repr

/-- What a checkpoint bundle's own request was answered (R301, R365, R371): the value, or the fault that the
destination's reader takes. -/
structure Reply where
  val : Word
  bad : Option FaultRec
  deriving DecidableEq, Repr

/-- A region of an espalier member that the member has closed and that not every member has confirmed
(R283): the capture that opened it, the arrivals since, and its held effects. -/
structure Past where
  cap : Arch
  arrived : Tab (BitVec 16)
  capSeq : Nat
  effs : List Eff
  reply : Option Reply
  deriving DecidableEq, Repr

/-- A context (R81, R254 to R256). [DESIGN CHOICE, unsafe: log 1] -/
structure Ctx where
  st : CtxState := .idle
  task : Task := {}
  a : Arch := {}
  /-- The capture of the last checkpoint (R282). -/
  cap : Arch := {}
  /-- Arrivals at each counting flag since the capture (R248). -/
  arrived : Tab (BitVec 16) := []
  loads : List Outst := []
  /-- Held effects of the open region, and released ones not yet handed on, oldest first. -/
  cbuf : List Eff := []
  rel : List Eff := []
  /-- The capture stands inside a checkpoint bundle, after its step 5 (R283); else at a bundle's start. -/
  capMid : Bool := false
  /-- PC of the checkpoint bundle that opened the region (Table 9.5 CKOVF). -/
  regionPc : Word := 0
  /-- The checkpoint bundle at PC has performed steps 1 and 2 (R283). -/
  released : Bool := false
  /-- What the capture's own returning atomic, TKT, OOPEN or OCLOSE was answered (R301, R365). -/
  reply : Option Reply := none
  /-- The rerun is at the checkpoint bundle whose capture was restored: only step 6 is performed. -/
  replay : Bool := false
  q0 : List Cmd := []
  q1 : List Cmd := []
  seq : Nat := 0
  capSeq : Nat := 0
  /-- Deferred faults that fall due at the next bundle of their kind (R97, R244, R376, R395), each with one more than
  the issue number of the command that raised it; 0 for a released effect's. -/
  deferred : List (Nat × FaultRec) := []
  /-- An espalier member's request that waits (R365). -/
  asked : Option Asked := none
  deque : List DqEnt := []
  spill : List DqEnt := []
  bank : Option Bank := none
  retry : List OrdReq := []
  wake : Option WakeGroup := none
  rerun : Option Rerun := none
  /-- Issue cycles from the region's checkpoint bundle on, plus RBQ stalls (R288). -/
  regionCount : Nat := 0
  preempt : Bool := false
  /-- The handler's first bundle has not issued; loads in flight complete before it (R82). -/
  fresh : Bool := false
  /-- JOIN or EXIT has issued, and its effects are being released (R315, R320). -/
  ending : Option Ending := none
  /-- The member's EXIT is done, and it waits for the others of its cluster (R320). -/
  exited : Bool := false
  /-- The espalier's step counter (R264), the bundles still to issue, and closed regions not released. -/
  step : Nat := 0
  feed : List Feed := []
  past : List Past := []
  /-- The entry that the task was stolen as, and whether it resumed a continuation, until the first bundle (R312). -/
  taken : Option (DqEnt × Bool) := none
  /-- Checkpoints issued since the task's start. -/
  regionNo : Nat := 0
  /-- In the F2 time slice (R268): whether a bundle has issued, and whether the context has been ready since it began. -/
  sliceIssued : Bool := false
  sliceReady : Bool := false
  deriving DecidableEq, Repr

/-! ## A core -/

/-- States of an L1 line (Table 11.1); `u` carries the operation and the element's bytes. -/
inductive LineState where
  | c | d | u (op : AtOp)
  deriving DecidableEq, Repr

/-- An L1 line (R327, R328): its line number (PA / 128), way, state, masks and bytes. `owner` is the
task that last updated a U line, by ticket, region and frame, and the address it used (R376). -/
structure L1Line where
  line : Nat
  way : Nat
  st : LineState
  valid : BitVec 128
  dirty : BitVec 128
  data : BitVec 1024
  keep : Bool
  owner : Nat
  ownerTicket : Nat
  ownerRegion : Nat
  ownerVa : Word
  ownerFrame : Word
  ownerMember : Nat := 0
  ownerEsp : Bool := false
  deriving DecidableEq, Repr

/-- The reserve latch of a core (R261). -/
inductive RLatch where
  | empty | held (ticket : Nat) | committed (ticket : Nat)
  deriving DecidableEq, Repr

/-- A cached translation (R384): the leaf and the segment's attributes, and the way that it stands in. -/
structure TlbEnt where
  asid : Nat
  vpage : Nat
  plog : Nat
  leaf : Word
  way : Nat := 0
  deriving DecidableEq, Repr

/-- A cached pointer of a walk (R384): the table that a VA prefix at a level leads to. -/
structure PtrEnt where
  asid : Nat
  level : Nat
  idx : Nat
  table : Nat
  way : Nat := 0
  deriving DecidableEq, Repr

/-- A core (R19, R81, R257). [DESIGN CHOICE, unsafe: log 1] -/
structure Core where
  cycles : Word := 0
  yieldCnt : Nat := 0
  rlatch : RLatch := .empty
  /-- A RESERVE held because its bank is full (R261): ticket and class. -/
  rheld : Option (Nat × CtxClass) := none
  /-- Tickets of the requests that wait until a COMMITTED latch empties (R262). -/
  rwait : List Nat := []
  l1 : List L1Line := []
  /-- Tree pseudo-LRU bits per set: one tree per allocation class (R331). -/
  plruF : Tab (BitVec 7) := []
  plruB : Tab (BitVec 7) := []
  tlb : List TlbEnt := []
  /-- The tree of its 64-entry TLB (Table 13.7). -/
  tlbLru : BitVec 63 := 0
  /-- The physical scratchpad; `none` is a byte nothing has written (R220). -/
  spad : Tab (Option Byte) := []
  /-- Per copy engine, the turn of its granules while both contexts have work: the background's is turn 3 (R227). -/
  copyTurn : Tab Nat := []
  dead : Bool := false
  /-- F4 has been told to retire it: nothing issues on it until it has moved (R289, R441). -/
  stopped : Bool := false
  /-- Which physical core stands here: 0 the position's own, else spare 1 or 2 (R289). -/
  phys : Nat := 0
  deriving DecidableEq, Repr

/-! ## Tasks, queues and leases -/

/-- A region: its control block's fields (Table 1.3), the domain halt (R28) and its accounting block
(Table 1.6). -/
structure Region where
  parent : Nat := 0
  level : Nat := 0
  prio : Nat := 0
  cores : Nat := 0
  diemask : Nat := 0
  ctxcl : Nat := 0
  det : Bool := false
  domhalt : Bool := false
  domain : Nat := 0
  spada : Nat := 0
  spadb : Nat := 0
  spadc : Nat := 0
  waymask : BitVec 64 := 0
  hbmsh : Nat := 0
  fabsh : Nat := 0
  spillq : Nat := 0
  leaseq : Nat := 0
  ovr : BitVec 15 := 0
  evqbase : Nat := 0
  evqsize : Nat := 4
  cos : List Nat := [0, 0, 0, 0]
  cnode : Nat := 0
  halted : Bool := false
  /-- The region's address space, when it was given its own (R378). -/
  asid : Option Nat := none
  fgcyc : Word := 0
  bgcyc : Word := 0
  bundles : Word := 0
  hbmbytes : Word := 0
  fabbytes : Word := 0
  coresheld : BitVec 16 := 0
  leasesheld : BitVec 16 := 0
  spillheld : BitVec 13 := 0
  tasksdone : Word := 0
  faults : BitVec 32 := 0
  preempts : BitVec 32 := 0
  evdrop : BitVec 32 := 0
  deriving DecidableEq, Repr

/-- An address space: the region that owns it and its region attribute file (Table 13.1). -/
structure Space where
  region : Nat := 0
  raf : List (BitVec 128) := []
  deriving DecidableEq, Repr

/-- A lease (R388): who is counted for it, its ranges and tensors, its pinned pages (ASID, VA page, log2
of the page size), and how many live holders it has. -/
structure Lease where
  id : Nat
  region : Nat
  ticket : Nat
  frame : Word
  ranges : List VaRange
  tensors : List Tensor
  pages : List (Nat × Nat × Nat)
  holders : Nat
  /-- Held by a LEASE record of queue q until dropped (R454). -/
  record : Option Nat
  deriving DecidableEq, Repr

/-- Queue states (Table 15.8). -/
inductive QState where
  | empty | active | held | fetchWait | stopped
  deriving DecidableEq, Repr

/-- A queue control block (R298, R450, R455). [DESIGN CHOICE, unsafe: log 1] -/
structure Queue where
  owner : Nat := 0
  base : Nat := 0
  logsz : Nat := 4
  ticketMode : Bool := false
  push : Bool := false
  wake : Bool := false
  ctrl : Bool := false
  func : Nat := 0
  anyf : Bool := false
  gen : BitVec 16 := 0
  live : Bool := false
  st : QState := .empty
  nextt : BitVec 32 := 0
  dispt : BitVec 32 := 0
  /-- Tickets taken and filled through the hub, not yet dispatched (TICKET mode). -/
  filled : List Nat := []
  /-- Why it was stopped: a denied ring page (R455). -/
  denied : Bool := false
  /-- A header write found its page not resident, and is still to be made (R451). -/
  headerDue : Bool := false
  deriving DecidableEq, Repr

/-- A walk in progress (R323): its operator block, its template as checked once, the next step, and its lease. -/
structure Walk where
  q : Nat
  die : Nat
  region : Nat
  topb : BitVec 1024
  template : Launch
  next : Nat
  lease : Nat
  deriving DecidableEq, Repr

/-- A cluster reservation (R261): its rectangle in ascending core id, the cores that have granted, with the class that
each granted for, and those that committed. `attempt` counts its failures; `waiting` marks one that has failed. -/
structure Reservation where
  die : Nat
  ticket : Nat
  cls : CtxClass
  flexible : Bool
  coresWanted : List Nat
  granted : List (Nat × CtxClass)
  committed : List Nat
  attempt : Nat
  waiting : Bool
  deriving DecidableEq, Repr

/-- A lease grant waiting at F3 (R388), for a dispatched task, a WALK's template or a LEASE record, with the pages pinned so
far. -/
structure Grant where
  id : Nat
  launch : Launch
  isRecord : Bool
  isWalk : Bool
  pages : List (Nat × Nat × Nat)
  /-- What of each range has passed the tests: range number and page. -/
  passed : List (Nat × Nat)
  /-- The page that F3 denied. -/
  denied : Option Nat
  deriving DecidableEq, Repr

/-- A task saved by pre-emption (R271): the state of every member. [DESIGN CHOICE, unsafe: log 31] -/
structure Saved where
  id : Nat
  members : List Ctx
  /-- The members' window bytes, once written to the save area; `none` while parked. -/
  windows : List (Option (List (List (Option Byte))))
  homes : List Nat
  /-- Save area: 0 for a pool slot. -/
  area : Word
  /-- Every member is saved, and none stands in a bank. -/
  live : Bool
  deriving DecidableEq, Repr

/-- A segment that a JOIN suspended (R315): its frame, and what its continuation runs under (R29, R391). -/
structure Suspended where
  asid : Nat
  frame : Word
  lease : Nat
  ranges : List VaRange
  tensors : List Tensor
  det : Bool
  deriving DecidableEq, Repr

/-- A counting-flag post on its way (R246): the core that sent it, the task and member it is for, and the flag. -/
structure Post where
  src : Nat
  uid : Nat
  member : Nat
  flag : Nat
  deriving DecidableEq, Repr

/-! ## Ordered reductions -/

/-- An open reduction (R369 to R371). Words are physical addresses in order. -/
structure Reduction where
  desc : Nat
  words : List Nat
  tfirst : Nat
  tcount : Nat
  window : Nat
  entries : Nat
  fp : Bool
  /-- Next ticket per word. -/
  next : List Nat
  /-- Buffered contributions: word index, ticket, value. -/
  buf : List (Nat × Nat × Word)
  deriving DecidableEq, Repr

/-! ## L2 and HBM -/

/-- A line of an L2 slice (R337). [DESIGN CHOICE, unsafe: log 82] -/
structure L2Line where
  line : Nat
  way : Nat
  valid : BitVec 128
  dirty : BitVec 128
  cos : Nat
  region : Nat
  keep : Bool
  deriving DecidableEq, Repr

/-- A request at an HBM controller (R339, R344). -/
structure HbmReq where
  region : Nat
  cos : Nat
  die : Nat
  pa : Nat
  bytes : Nat
  arrived : Nat
  deriving DecidableEq, Repr

/-- One bank of a stack (R344, R346): the open row and when it was last used, its last activation, and
until when it backs off. -/
structure HbmBank where
  openRow : Option Nat := none
  lastUse : Nat := 0
  lastAct : Option Nat := none
  backoff : Option Nat := none
  deriving DecidableEq, Repr

/-- A controller (R339, R345, R349). -/
structure Hbm where
  /-- Row counters: (channel × 16 + bank) × 65536 + row. -/
  cnt : Tab (BitVec 16) := []
  banks : Tab HbmBank := []
  actcnt : Word := 0
  alerts : Word := 0
  rfmcnt : Word := 0
  selchn : BitVec 6 := 0
  selbank : BitVec 4 := 0
  selrow : BitVec 16 := 0
  bowait : Tab Word := []
  /-- Per class: what its credit bucket lacks of full, in 1/256 bytes, and when it was last refilled. -/
  credit : Tab Nat := []
  creditAt : Tab Nat := []
  waiting : List HbmReq := []
  admitted : List HbmReq := []
  deriving DecidableEq, Repr

/-- A class-of-service entry (Table 11.5). -/
structure Cos where
  ways : BitVec 16 := 0xFFFF
  hbmsh : Nat := 256
  used : Bool := false
  deriving DecidableEq, Repr

/-- Per die: class-of-service table, channel-weight register, second-level TLB and walk cache, dispatch
tickets, spares, clock (R338, R384, R295, R289, R489).
[DESIGN CHOICE, unsafe: log 1; DESIGN CHOICE, unsafe: log 98] -/
structure Die where
  cos : List Cos := []
  /-- Channel weights, Table 11.6. -/
  wreq : Nat := 3
  wwb : Nat := 1
  word : Nat := 0
  wput : Nat := 1
  l2 : List L2Line := []
  plru : Tab (BitVec 15) := []
  tlb : List TlbEnt := []
  ptrs : List PtrEnt := []
  /-- The trees of the second-level TLB's sets and of the walk cache (Table 13.7). -/
  tlbLru : Tab (BitVec 7) := []
  ptrLru : BitVec 511 := 0
  ticket : BitVec 16 := 0
  spares : Nat := 2
  /-- Core clock in MHz (R489). -/
  mhz : Nat := 1050
  deriving DecidableEq, Repr

/-! ## Fabric -/

/-- Port states (R418). -/
inductive PortSt where
  | down | training | up | retrain
  deriving DecidableEq, Repr

/-- A key bank: the number of the key that it holds, the key and its salt, and the packets sealed or opened under it (R427,
R428). -/
structure KeyBank where
  key : Option Nat := none
  value : BitVec 256 := 0
  salt : BitVec 96 := 0
  packets : Nat := 0
  deriving DecidableEq, Repr

/-- The two key banks of a direction, the one in use, and the number of the key installed last.
[DESIGN CHOICE, unsafe: log 1] -/
structure Keys where
  kg : Bool := false
  last : Nat := 0
  bank0 : KeyBank := {}
  bank1 : KeyBank := {}
  deriving DecidableEq, Repr

/-- A flit of a packet that is sent: the packet that it begins, if it is its header, its key bank and its payload. -/
structure OutFlit where
  head : Option Packet
  kg : Bool
  bits : BitVec 512
  deriving DecidableEq, Repr

/-- The sender of a direction (R411 to R416, R427, R428). [DESIGN CHOICE, unsafe: log 1] -/
structure Tx where
  map : BitVec 8 := 0
  /-- An LMAP is outstanding: the first sequence under the new map (state MAP). -/
  mapSeq : Option Nat := none
  /-- The next PKT sequence. -/
  seq : Nat := 0
  /-- Unacknowledged PKT flits, oldest first: sequence, virtual channel, flit. -/
  replay : List (Nat × Nat × OutFlit) := []
  /-- Times that the oldest of them has been sent again. -/
  resends : Nat := 0
  /-- The sequence of the NAK counted last, until flits are freed: a receiver in WAIT sends it again (R413). -/
  naked : Option Nat := none
  /-- Cumulative counts per VC: flits sent, slots returned (R414). -/
  sent : Tab Nat := []
  returned : Tab Nat := []
  sinceResync : Nat := 0
  sinceLmreq : Nat := 0
  keys : Keys := {}
  /-- The idle bank holds a new key, which the next packet turns to (R428). -/
  rekeying : Bool := false
  /-- Packets queued for the port, oldest first, and per VC the flits left of the packet being sent. -/
  queue : List Packet := []
  out : Tab (List OutFlit) := []
  deriving DecidableEq, Repr

/-- A packet under reception: its key bank, on a protected link the key and the IV that open it, and its flits. -/
structure RxPk where
  kg : Bool := false
  sealed : Option (BitVec 256 × BitVec 96) := none
  flits : List (BitVec 512) := []
  deriving DecidableEq, Repr

/-- The receiver of a direction. [DESIGN CHOICE, unsafe: log 1] -/
structure Rx where
  map : BitVec 8 := 0
  /-- The proposed map while in PEND (R411). -/
  pend : Option (BitVec 8) := none
  expect : Nat := 0
  waiting : Bool := false
  /-- Flits accepted since the last ACK (R412). -/
  accepted : Nat := 0
  /-- Slot returns per VC (R414), those that the sender has been told, and the VC to tell next. -/
  returns : Tab Nat := []
  told : Tab Nat := []
  rvc : Nat := 0
  /-- Per VC, the packet being received. -/
  got : Tab RxPk := []
  sinceResync : Nat := 0
  keys : Keys := {}
  deriving DecidableEq, Repr

/-- A Gidin port: its status block (Table 14.6) and its two directions. [DESIGN CHOICE, unsafe: log 1] -/
structure Port where
  st : PortSt := .down
  prot : Bool := false
  peer : Nat := 0
  peerport : Nat := 0
  retries : Nat := 0
  rsfail : Nat := 0
  tagfail : Nat := 0
  drops : Nat := 0
  /-- Resynchronisation failures in a row, retrains failed in a row, tag failures in a row. -/
  rsRow : Nat := 0
  retrainRow : Nat := 0
  tagRow : Nat := 0
  /-- Lane failure threshold, log2 of its reciprocal (R409). -/
  thrLog : Nat := 14
  tx : Tx := {}
  rx : Rx := {}
  deriving DecidableEq, Repr

/-- A window-table slot (R429). [DESIGN CHOICE, unsafe: log 1] -/
structure Window where
  valid : Bool := false
  gen : BitVec 16 := 0
  region : Nat := 0
  base : Nat := 0
  bound : Nat := 0
  rejects : Nat := 0
  lease : Nat := 0
  deriving DecidableEq, Repr

/-- A fragment outstanding at the issuing hub (R434, R435): its command, its place in the local walk, and what has
returned: its bytes (`got`) and DONE (`fin`). `ack` is the flag of the command's ACK. -/
structure Frag where
  xid : Nat
  core : Nat
  uid : Nat
  member : Nat
  eng : Nat
  seq : Nat
  op : Nat
  pc : Word
  slot : Nat
  ack : Option Nat
  roff : Nat
  len : Nat
  pos : Nat
  got : Bool
  fin : Bool
  /-- The handle that its packet bears. -/
  handle : BitVec 256
  deriving DecidableEq, Repr

/-- A link that F5 knows: module and port at each end (R403, R424). -/
structure FabLink where
  a : Nat
  ap : Nat
  b : Nat
  bp : Nat
  deriving DecidableEq, Repr

/-! ## Host link, firmware and power -/

/-- A PCIe function (R444, R445). -/
structure Func where
  bound : Bool := false
  region : Nat := 0
  mbox : Option Req := none
  wakerej : BitVec 32 := 0
  qarej : BitVec 32 := 0
  replybase : Word := 0
  replylog : BitVec 4 := 0
  replyvec : BitVec 11 := 0
  replytail : BitVec 32 := 0
  replyhead : BitVec 32 := 0
  /-- MSI-X vectors whose mask bit is 0, those pending, and the message address and data of an entry (R445, R447). -/
  unmasked : List Nat := []
  pendingVec : List Nat := []
  msi : Tab (BitVec 96) := []
  /-- log2 of BAR2's size (R448). -/
  bar2log : Nat := 39
  /-- BAR2 host window entries (R448): VA base, length in 4 KiB units, R, W. -/
  bar2 : List (Nat × Nat × Bool × Bool) := []
  bar2Leases : List Nat := []
  /-- Replies held because the ring is full, oldest first (R446). -/
  heldReplies : List (BitVec 512) := []
  deriving DecidableEq, Repr

/-- A peer window (R449). -/
structure Peer where
  region : Nat
  bus : Nat
  size : Nat
  deriving DecidableEq, Repr

/-- Slot states of live replacement (Table 15.12). -/
inductive GraftSt where
  | stock | loaded | handover | trial | committed | reverted
  deriving DecidableEq, Repr

/-- A message in a Nalvel mailbox (R441): of a host, a lease grant by its id, a ring page of a queue that the hub needs, a
lane failure, or the report of a core to retire. -/
inductive Letter where
  | host (q : Req)
  | grant (id : Nat)
  | page (q va : Nat)
  | lane (port lane : Nat)
  | retire (core : Nat)
  deriving DecidableEq, Repr

/-- A Nalvel function: its mailbox (R441) and its replacement slot (R462 to R464). `taken` marks a
message taken and not yet retired. `stock` is a committed graft's version and digest; none is the image that the
module started with. -/
structure Nalvel where
  mail : List (Letter × Bool) := []
  /-- Messages whose senders have found no FREE slot, in order. -/
  waits : List Letter := []
  graft : GraftSt := .stock
  stock : Option (Nat × BitVec 256) := none
  graftVersion : Nat := 0
  graftDigest : BitVec 256 := 0
  graftReq : Option Req := none
  trialStart : Nat := 0
  /-- Milliseconds of the trial up to the end of that of the last heartbeat (R464). -/
  beat : Nat := 0
  /-- Hand-overs written since reset (Table 15.13). -/
  seq : Nat := 0
  deriving DecidableEq, Repr

/-- One extension of a measurement register (R460): an image of the configuration, or given data. -/
inductive MeasItem where
  | image (k : Nat)
  | digest (d : BitVec 256)
  | log (function cause version : Nat)
  deriving DecidableEq, Repr

/-- SPDM session state of a function's DOE mailbox (R461). -/
structure Spdm where
  versionDone : Bool := false
  capsDone : Bool := false
  algsDone : Bool := false
  session : Bool := false
  established : Bool := false
  keyGen : Nat := 0
  deriving DecidableEq, Repr

/-- The algorithms that F7 negotiates (R461). -/
inductive SpdmAlg where
  | mlDsa65 | sha3256 | ecdheP384 | aes256Gcm
  deriving DecidableEq, Repr

/-- What the module sends to the outside, oldest first. -/
inductive Out where
  /-- A flit, with the bytes that each lane in use carries (R410, R411). -/
  | flit (port : Nat) (f : Flit) (lanes : List (Nat × List Byte))
  /-- An interrupt: the function, the vector, and its table entry's address and data. -/
  | msix (func vec : Nat) (entry : BitVec 96)
  /-- A reply, with the host address that it is written to (R446). -/
  | reply (func addr : Nat) (m : BitVec 512)
  | bar2Data (func : Nat) (d : List Byte)
  | bar2Fail (func : Nat)
  | regData (func : Nat) (v : BitVec 32)
  | tlpWrite (bus : Nat) (d : List Byte)
  | tlpRead (bus n : Nat)
  /-- An SPDM answer of a function's DOE mailbox, or, for function 128, of the management connector. -/
  | doe (func code : Nat) (words : List (BitVec 256))
  | doeAlgorithms (func : Nat) (l : List SpdmAlg)
  | pldm (sensor : Nat) (v : Nat)
  | alert
  | bringupFailed (step : Nat)
  | message (fn : Nat) (q : Req) (status : Nat)
  deriving DecidableEq, Repr

/-- A firmware event waiting for nothing: page requests that F3 has not answered (R388, R451). -/
structure PageReq where
  asid : Nat
  va : Nat
  /-- The grant that waits (its id), or the queue whose ring page it is. -/
  grant : Option Nat
  queue : Option Nat
  deriving DecidableEq, Repr

/-- How far a migration is (R397): the page is marked, MIG is set and its translations are removed, or it is copied. -/
inductive MigStep where
  | marked | closed | copied
  deriving DecidableEq, Repr

/-- A migration pending (R397). -/
structure Migration where
  asid : Nat
  va : Nat
  frame : Nat
  step : MigStep := .marked
  deriving DecidableEq, Repr

/-- Power, thermal and sensor state (R488 to R494). -/
structure Power where
  cap : Nat := 3400
  stage : Nat := 0
  /-- L2 and die interconnect clock in MHz. -/
  l2mhz : Nat := 1400
  /-- Since when every quantity has stayed 5 % below its limit (R489). -/
  calmSince : Option Nat := none
  sensor : BitVec 256 := 0
  lost : Bool := false
  tripped : Bool := false
  /-- The step of the bring-up that failed; 0 for a module that did not start (R487, R493). -/
  stuck : Option Nat := none
  deriving DecidableEq, Repr

/-! ## The bundle in issue -/

/-- The bundle being issued: its context, its place, the slot that acts, and what the bundle's
instructions leave for its end (R54, R107). -/
structure Cur where
  ctx : Nat := 0
  slot : Nat := 15
  width : Nat := 1024
  profile : Nat := 0
  ckpt : Bool := false
  /-- The bundle was expanded from a token (R69), and its 256 bits (after expansion). -/
  fromToken : Bool := false
  bits : BitVec 256 := 0
  /-- Its sequential successor (R43). -/
  succ : Word := 0
  /-- The bundle's instructions that are no NOP, with their slots. -/
  todo : List (Nat × Instr) := []
  /-- The fault that the slot raised, if it did. -/
  raised : Option FaultRec := none
  /-- Where a LOOP, LEND, inline call or ERET sends the PC (R107). -/
  jump : Option Word := none
  /-- The transfer that the bundle's TRN or CALL sets (R107). -/
  transfer : Option Word := none
  /-- The bundle holds a TRN or CALL (R108). -/
  control : Bool := false
  /-- What steers fetch: the lead's for an espalier member, else noted as the bundle's own. -/
  steer : Steer := {}
  /-- The bundle's TRAP, ERET, JOIN or EXIT has already moved the PC. -/
  moved : Bool := false
  deriving DecidableEq, Repr

/-- The reasons for which the machine stops. [DEDUCED, safe: log 57; DEDUCED, safe: log 70] -/
inductive Fault where
  /-- An event names a physical address of the unmapped range of Table 11.3, or a device register
  address outside the device apertures. Raised by HBM_LINE_UNCORRECTABLE and REGISTER_WRITE. Safe: the
  spec says that the address does not exist. -/
  | unmappedPhysical (pa : Nat)
  deriving DecidableEq, Repr

/-- The reasons for which an instruction is refused. -/
inductive Refusal where
  /-- The instruction named has no meaning yet. Raised by the refused arms of Machine/Dispatch.lean only.
  Safe: nothing is claimed of it. -/
  | notModelled (mnemonic : String)
  deriving DecidableEq, Repr

/-- The machine. -/
structure State where
  /-- Contexts that the merge stages have granted and that have not issued yet; one stands for its espalier. -/
  grants : List Nat := []
  /-- Events that happen next, oldest first: those at hand in a core's turn. -/
  agenda : List Instr := []
  /-- The core whose merge stage decides next. -/
  turn : Nat := 0
  cur : Cur := {}
  /-- The model's own counter for free values. -/
  free : Nat := 0
  /-- The time in ns of the latest timed event. -/
  now : Nat := 0
  /-- HBM as its home slices give it; an unlisted byte reads 0 (R493). -/
  mem : Tab Byte := []
  /-- Host memory that has been written; `none` reads as what the host put there (R493). -/
  hostMem : Tab (Option Byte) := []
  ctxs : Tab Ctx := []
  cores : Tab Core := []
  dies : List Die := []
  regions : Tab (Option Region) := []
  spaces : Tab (Option Space) := []
  /-- Page tables that F3 has made (R383): the model's own count, which numbers the next one. -/
  tables : Nat := 0
  /-- Pin counts per page: ASID × 2^57 + VA of the page (R390). -/
  pins : Tab Nat := []
  leases : List Lease := []
  nextLease : Nat := 1
  grantsF3 : List Grant := []
  pageReqs : List PageReq := []
  migrations : List Migration := []
  queues : Tab Queue := []
  /-- The queue after which round-robin dispatch begins (R300). -/
  rrQueue : Nat := 0
  /-- The pending-wake vector's set bits (R456). -/
  wakes : List Nat := []
  /-- The wake catcher's staging buffer, and the wakes whose credits it withholds: arrival function, capability (R456). -/
  staged : List (Option Nat × BitVec 256) := []
  withheld : List (Option Nat × BitVec 256) := []
  overflow : Tab (List DqEnt) := []
  /-- Completion nodes, by physical address, whose UNDER the launch unit has set: a write of 1 clears it (Tables 0.3, 1.8). -/
  under : List Nat := []
  launches : List Launch := []
  walks : List Walk := []
  reservations : List Reservation := []
  saved : List Saved := []
  nextSaved : Nat := 0
  nextTask : Nat := 1
  suspended : List Suspended := []
  posts : List Post := []
  ordNet : List OrdReq := []
  reductions : List Reduction := []
  hbm : Tab Hbm := []
  /-- Lines of HBM whose stored data is uncorrectable (R495), by line number. -/
  badLines : List Nat := []
  /-- Test thresholds (R348): region and value. -/
  rowthr : List (Nat × Nat) := []
  modid : Nat := 0
  ports : Tab Port := []
  /-- Which failed port the spare stands for (R404). -/
  spareFor : Option Nat := none
  /-- Links between other modules, as the modules' F5s have told each other (R403, R424). -/
  fabric : List FabLink := []
  /-- A port has gone DOWN or come UP since the last tree (R424). -/
  treeStale : Bool := false
  /-- Escape tables by epoch parity: destination module and port (R424, R425). -/
  escape0 : List (Nat × Nat) := []
  escape1 : List (Nat × Nat) := []
  epoch : Bool := false
  windows : Tab Window := []
  frags : List Frag := []
  /-- Per region: what the hub's injection credit lacks of full, in bytes, and when it was last refilled (R439). -/
  fabCredit : Tab Nat := []
  fabCreditAt : Tab Nat := []
  /-- Packets for this module that its hub has still to act on, oldest first. -/
  delivered : List Packet := []
  nextXid : Nat := 0
  funcs : Tab Func := []
  /-- Queue-aperture pushes that wait for room: function, capability, record (R453). -/
  aperture : List (Nat × BitVec 256 × BitVec 512) := []
  peers : Tab (Option Peer) := []
  nalvel : Tab Nalvel := []
  /-- Measurement registers, each as the list of its extensions, oldest first (R460). -/
  meas : List (List MeasItem) := []
  spdm : Tab Spdm := []
  snapseq : Nat := 0
  /-- Error counters (Table 15.10 section 5): corrected ECC, data errors, reruns agreed, retirements,
  DATA faults. -/
  eccCount : Nat := 0
  dataErrors : Nat := 0
  rerunsAgreed : Nat := 0
  retirements : Nat := 0
  dataFaults : Nat := 0
  power : Power := {}
  outbox : List Out := []
  deriving DecidableEq, Repr

/-- Region 0 as F2 creates it at bring-up (R21). -/
def Region.root : Region :=
  { prio := 15, cores := 96, diemask := 0xF, ctxcl := 3, spada := 1024, spadb := 1024, spadc := 1024,
    waymask := 0xFFFF_FFFF_FFFF_FFFF, hbmsh := 256, fabsh := 256, spillq := 4096, leaseq := 4095,
    evqsize := 4, asid := some 1 }

/-- A die after reset: class 0 is region 0's (R338). -/
def Die.reset : Die :=
  { cos := { used := true : Cos } :: List.replicate 63 {} }

/-- The machine right after module reset and bring-up (R493, Table 19.3): region 0 with address space 1
exists, no task runs, every port is DOWN, HBM reads zero, and F5 has given the module its id (R402).
[DESIGN CHOICE, unsafe: log 1; DESIGN CHOICE, safe: log 2; DESIGN CHOICE, safe: log 102] -/
def State.reset : State :=
  { dies := [Die.reset, Die.reset, Die.reset, Die.reset]
    regions := [(0, some Region.root)]
    spaces := [(1, some { region := 0, raf := List.replicate 16 0 })]
    modid := Config.moduleId.val
    funcs := [(0, { bound := true : Func })]
    meas := [[.image 0], [.image 1], [.image 2], [.image 3], [.image 4], [.image 5], [.image 6],
             [.image 7], [.image 8], [.image 9], [.image 10], [], [], [], [], []] }

end Sys2Proof.Machine
end

