-- ==== Sys2Proof/Machine/Access.lean ====
section
/-! DEFINITION. Machine/Access.lean: reading and writing the parts of the state by name: contexts, cores,
dies, regions, and the raw bytes of memory at its home (spec/01_device_and_regions.md R24,
spec/11_caches_and_bandwidth.md R335, R336). -/

namespace Sys2Proof.Machine

/-! ## Contexts, cores, dies -/

def State.ctx (s : State) (c : Nat) : Ctx := Tab.get {} s.ctxs c
def State.setCtx (s : State) (c : Nat) (x : Ctx) : State := { s with ctxs := Tab.set {} s.ctxs c x }
def State.modCtx (s : State) (c : Nat) (f : Ctx → Ctx) : State := s.setCtx c (f (s.ctx c))
def State.modArch (s : State) (c : Nat) (f : Arch → Arch) : State :=
  s.modCtx c fun x => { x with a := f x.a }
def State.core (s : State) (k : Nat) : Core := Tab.get {} s.cores k
def State.setCore (s : State) (k : Nat) (x : Core) : State := { s with cores := Tab.set {} s.cores k x }
def State.modCore (s : State) (k : Nat) (f : Core → Core) : State := s.setCore k (f (s.core k))
def State.die (s : State) (d : Nat) : Die := s.dies.getD d {}
def State.modDie (s : State) (d : Nat) (f : Die → Die) : State :=
  { s with dies := s.dies.set d (f (s.die d)) }

/-- The core, class and die of a context number. -/
def coreOf (c : Nat) : Nat := c / 2
def isBg (c : Nat) : Bool := c % 2 = 1
def dieOfCore (k : Nat) : Nat := k / 24
def dieOf (c : Nat) : Nat := dieOfCore (coreOf c)
/-- The logical core at a column and row of a die (Table 2.7). -/
def coreAt (die col row : Nat) : Nat := die * 24 + row * 6 + col
def colOf (k : Nat) : Nat := k % 24 % 6
def rowOf (k : Nat) : Nat := k % 24 / 6

/-- The context whose bundle is in issue. -/
def State.here (s : State) : Ctx := s.ctx s.cur.ctx

/-- Whether a context holds a task. -/
def Ctx.busy (x : Ctx) : Bool := decide (x.st ≠ .idle)

/-- The contexts that hold the task `uid`, in ascending order. -/
def State.holders (s : State) (uid : Nat) : List Nat :=
  (s.ctxs.filter fun p => p.2.busy && p.2.task.uid = uid).map (·.1)

/-! ## Clusters and espaliers (R260, R263) -/

/-- The context of member `m` of the cluster of a task; `bg` is its class. -/
def Task.memberCtx (t : Task) (bg : Bool) (m : Nat) : Nat :=
  2 * coreAt t.die (t.ox + m % t.w) (t.oy + m / t.w) + (if bg then 1 else 0)

/-- Offset of a member from the espalier's lead, when it stands in the espalier. -/
def Task.espAt (t : Task) : Option (Nat × Nat) :=
  let dx := t.member % t.w
  let dy := t.member / t.w
  if t.ew ≠ 0 ∧ t.ex0 ≤ dx ∧ dx < t.ex0 + t.ew ∧ t.ey0 ≤ dy ∧ dy < t.ey0 + t.eh then
    some (dx - t.ex0, dy - t.ey0)
  else none

/-- The skew of a member behind the lead, in steps (R264). -/
def Task.skew (t : Task) : Nat := match t.espAt with | some (ex, ey) => 2 * (ex + ey) | none => 0

def Task.inEsp (t : Task) : Bool := t.espAt.isSome
def Task.isLead (t : Task) : Bool := t.espAt = some (0, 0)

/-- The contexts of the espalier that context `c` belongs to, lead first, in member order. -/
def State.espCtxs (s : State) (c : Nat) : List Nat :=
  let t := (s.ctx c).task
  if t.inEsp then
    (List.range (t.ew * t.eh)).map fun k =>
      t.memberCtx (isBg c) ((t.ey0 + k / t.ew) * t.w + t.ex0 + k % t.ew)
  else [c]

/-- The contexts of the cluster that context `c` belongs to, in member order. -/
def State.clusterCtxs (s : State) (c : Nat) : List Nat :=
  let t := (s.ctx c).task
  (List.range (t.w * t.h)).map (t.memberCtx (isBg c))

/-! ## Regions and effective values (R24, Table 1.4) -/

def State.region (s : State) (r : Nat) : Option Region := Tab.get none s.regions r
def State.regionD (s : State) (r : Nat) : Region := (s.region r).getD {}
def State.setRegion (s : State) (r : Nat) (x : Region) : State :=
  { s with regions := Tab.set none s.regions r (some x) }
def State.modRegion (s : State) (r : Nat) (f : Region → Region) : State :=
  match s.region r with | some x => s.setRegion r (f x) | none => s

/-- Override bits by field (Table 1.4). -/
def Region.ovrBit (x : Region) (k : Nat) : Bool := x.ovr.getLsbD k

/-- An effective value: the own value combined with the parent's where the override bit is set, else the
parent's; region 0's own. `fuel` bounds the depth of the tree (R21: eight levels). -/
def State.effOf {α : Type} (s : State) (own : Region → α) (bit : Nat) (comb : α → α → α) : Nat → Nat → α
  | 0, r => own (s.regionD r)
  | n + 1, r =>
    if r = 0 then own (s.regionD 0)
    else
      let up := s.effOf own bit comb n (s.regionD r).parent
      if (s.regionD r).ovrBit bit then comb (own (s.regionD r)) up else up

def State.effPrio (s : State) (r : Nat) : Nat := s.effOf (·.prio) 0 Nat.min 8 r
def State.effCores (s : State) (r : Nat) : Nat := s.effOf (·.cores) 1 Nat.min 8 r
def State.effDiemask (s : State) (r : Nat) : Nat := s.effOf (·.diemask) 2 (· &&& ·) 8 r
def State.effCtxcl (s : State) (r : Nat) : Nat := s.effOf (·.ctxcl) 3 (· &&& ·) 8 r
def State.effDet (s : State) (r : Nat) : Bool := s.effOf (·.det) 4 (· || ·) 8 r
def State.effDomain (s : State) (r : Nat) : Nat := s.effOf (·.domain) 5 (fun own _ => own) 8 r
def State.effSpad (s : State) (r g : Nat) : Nat :=
  match g with
  | 0 => s.effOf (·.spada) 6 Nat.min 8 r
  | 1 => s.effOf (·.spadb) 7 Nat.min 8 r
  | _ => s.effOf (·.spadc) 8 Nat.min 8 r
/-- The way mask for the slices of die `d`. -/
def State.effWays (s : State) (r d : Nat) : Nat :=
  s.effOf (fun x => eltN 16 x.waymask.toNat d) 9 (· &&& ·) 8 r
def State.effHbmsh (s : State) (r : Nat) : Nat := s.effOf (·.hbmsh) 10 Nat.min 8 r
def State.effFabsh (s : State) (r : Nat) : Nat := s.effOf (·.fabsh) 11 Nat.min 8 r
def State.effSpillq (s : State) (r : Nat) : Nat := s.effOf (·.spillq) 12 Nat.min 8 r
def State.effLeaseq (s : State) (r : Nat) : Nat := s.effOf (·.leaseq) 13 Nat.min 8 r
def State.effDomhalt (s : State) (r : Nat) : Bool := s.effOf (·.domhalt) 14 (fun own _ => own) 8 r

/-- The region and its ancestors, itself first. -/
def State.lineage (s : State) : Nat → Nat → List Nat
  | 0, r => [r]
  | n + 1, r => if r = 0 then [0] else r :: s.lineage n (s.regionD r).parent

/-- Whether `r` is `a` or lies below it. -/
def State.within (s : State) (a r : Nat) : Bool := (s.lineage 8 r).contains a

/-- The live regions. -/
def State.liveRegions (s : State) : List Nat := (s.regions.filter fun p => p.2.isSome).map (·.1)

/-- The regions of the subtree of `a`. -/
def State.subtree (s : State) (a : Nat) : List Nat := s.liveRegions.filter (s.within a)

/-- The top-level region of `r` (R21): its ancestor at level 1, or region 0. -/
def State.topRegion (s : State) (r : Nat) : Nat :=
  ((s.lineage 8 r).find? fun x => (s.regionD x).level ≤ 1).getD 0

/-- The address space of a region: its own, or that of its nearest ancestor with one (R378). -/
def State.asidOf (s : State) (r : Nat) : Nat :=
  ((s.lineage 8 r).findSome? fun x => (s.regionD x).asid).getD 1

/-- The regions that form one fault domain with `r`, other than itself (R28). -/
def State.domainPeers (s : State) (r : Nat) : List Nat :=
  let d := s.effDomain r
  if d = 0 then [] else s.liveRegions.filter fun x => decide (x ≠ r) && decide (s.effDomain x = d)

/-! ## Physical memory (Table 11.3) -/

/-- What a physical address is. -/
inductive PaKind where
  | hbm | unmapped | device | host
  deriving DecidableEq, Repr

def paKind (pa : Nat) : PaKind :=
  if pa < 0x80_0000_0000 then .hbm
  else if pa < 0x8_0000_0000_0000 then .unmapped
  else if pa < 0xC_0000_0000_0000 then .device
  else .host

/-- A peer window that a device address lies in: its number and the bus address (R449). -/
def State.peerAt (s : State) (pa : Nat) : Option (Nat × Nat) :=
  if pa < 0xA_0000_0000_0000 then none
  else
    let k := (pa - 0xA_0000_0000_0000) / 2 ^ 32
    match Tab.get none s.peers k with
    | some w => if k < 64 ∧ pa % 2 ^ 32 < w.size then some (k, w.bus + pa % 2 ^ 32) else none
    | none => none

/-- Whether a page at a physical address may have a memory type: 0 normal, 1 device, 2 host (Table 11.3).
[DESIGN CHOICE, safe: log 4] -/
def typeFits (mtype pa : Nat) : Bool :=
  decide (paKind pa = match mtype with | 0 => .hbm | 1 => .device | _ => .host)

/-- One byte at its home. A device byte that no block occupies reads as ones (R335).
[DESIGN CHOICE, safe: log 3; DESIGN CHOICE, safe: log 4] -/
def State.homeByte (s : State) (pa : Nat) : Byte :=
  match paKind pa with
  | .hbm => Tab.get 0 s.mem pa
  | .host => (Tab.get none s.hostMem pa).getD (Config.hostByte pa)
  | .device => 0xFF
  | .unmapped => Config.absentByte pa

/-- `n` bytes at their home. -/
def State.homeRead (s : State) (pa n : Nat) : List Byte := (List.range n).map fun i => s.homeByte (pa + i)

/-- Whether the byte at `pa` holds the UNDER of a completion node that the launch unit has set (Table 1.8).
[DEDUCED, unsafe: log 87] -/
def State.holdsUnder (s : State) (pa : Nat) : Bool := decide (4 ≤ pa) && s.under.contains (pa - 4)

/-- What a write of `b` leaves in a byte that holds such an UNDER, bit 2: a 1 clears it, and a 0 does not (Table 0.3).
[DEDUCED, unsafe: log 87] -/
def w1cUnder (b : Byte) : Byte := b ^^^ 4

/-- One byte written at its home. [DESIGN CHOICE, safe: log 4] -/
def State.setHomeByte (s : State) (pa : Nat) (b : Byte) : State :=
  match paKind pa with
  | .hbm =>
    { s with
      mem := Tab.set 0 s.mem pa (if s.holdsUnder pa then w1cUnder b else b)
      under := if s.holdsUnder pa && b.getLsbD 2 then s.under.erase (pa - 4) else s.under }
  | .host => { s with hostMem := Tab.set none s.hostMem pa (some b) }
  | _ => s

/-- Bytes written at their home, lowest address first. [DEDUCED, unsafe: log 87] -/
def State.homeWrite (s : State) (pa : Nat) : List Byte → State
  | [] => s
  | b :: l => (s.setHomeByte pa b).homeWrite (pa + 1) l

/-- Bytes written at their home under a mask: `none` leaves a byte alone. -/
def State.homeWriteOpt (s : State) (pa : Nat) : List (Option Byte) → State
  | [] => s
  | none :: l => s.homeWriteOpt (pa + 1) l
  | some b :: l => (s.setHomeByte pa b).homeWriteOpt (pa + 1) l

def State.homeNat (s : State) (pa n : Nat) : Nat := ofBytes (s.homeRead pa n)
def State.homeWriteNat (s : State) (pa n v : Nat) : State := s.homeWrite pa (bytesOf n v)

/-! ## The home hash (Table 11.4) -/

def xorBits (pa : Nat) (l : List Nat) : Nat := l.foldl (fun a k => (a + pa / 2 ^ k) % 2) 0
def hashBits (pa n : Nat) (l : Nat → List Nat) : Nat := packN 1 (tabulate n fun k => xorBits pa (l k))

def homeDie (pa : Nat) : Nat := hashBits pa 2 fun k => [7 + k, 19 + k, 27 + k, 35 + k]
def homeStk (pa : Nat) : Nat := xorBits pa [9, 21, 29, 37]
def homeChn (pa : Nat) : Nat := hashBits pa 6 fun k => [10 + k, 23 + k]
def homeCol (pa : Nat) : Nat := hashBits pa 3 fun k => [16 + k]
def homeBank (pa : Nat) : Nat := hashBits pa 4 fun k => [19 + k, 31 + k]
def homeRow (pa : Nat) : Nat := hashBits pa 16 fun k => [23 + k]
def homeSlice (pa : Nat) : Nat :=
  hashBits pa 5 fun k => [10 + k, 15 + k, 20 + k, 25 + k, 30 + k, 35 + k, 40 + k]
/-- Module stack 0 to 7. -/
def homeStack (pa : Nat) : Nat := 2 * homeDie pa + homeStk pa

end Sys2Proof.Machine
end

