-- ==== Sys2Proof/Machine/Slice.lean ====
section
/-! DEFINITION. Machine/Slice.lean: tree pseudo-LRU, the L2 slices' tags and the HBM requests they make
(spec/11_caches_and_bandwidth.md R331, R333, R337, R339, R495). The value of a line is what its home slice
decides (R351), so it is kept once, in `State.mem`; a slice here holds which bytes it has. -/

namespace Sys2Proof.Machine

/-! ## Tree pseudo-LRU -/

/-- The way that the tree points to among the allowed ones. `node` is a heap index, 1 the root; a node's
bit says which half was used less recently (1: the upper). -/
def plruPick (bits : Nat) (ok : Nat → Bool) : Nat → Nat → Nat → Nat
  | 0, _, lo => lo
  | n + 1, node, lo =>
    let half := 2 ^ n
    let left := (List.range half).any fun i => ok (lo + i)
    let right := (List.range half).any fun i => ok (lo + half + i)
    if right && (bitN bits (node - 1) || !left) then plruPick bits ok n (2 * node + 1) (lo + half)
    else plruPick bits ok n (2 * node) lo

/-- The tree after a use of `way` (pointing away from it), or, with `away` false, pointing to it. -/
def plruTouch (bits way : Nat) (away : Bool) : Nat → Nat → Nat
  | 0, _ => bits
  | n + 1, node =>
    let up := bitN way n
    let b := if up = away then false else true
    let k := node - 1
    let bits' := if bitN bits k then (if b then bits else bits - 2 ^ k)
      else (if b then bits + 2 ^ k else bits)
    plruTouch bits' way away n (2 * node + (if up then 1 else 0))

/-- A victim among `ways` ways (2^depth): the lowest allowed way that holds nothing, else the tree's choice
among the lines that are not KEEP, else among all allowed (R333). -/
def victim (depth bits : Nat) (ok used keep : Nat → Bool) : Nat :=
  match (List.range (2 ^ depth)).find? fun w => ok w && !used w with
  | some w => w
  | none =>
    if (List.range (2 ^ depth)).any fun w => ok w && !keep w then
      plruPick bits (fun w => ok w && !keep w) depth 1 0
    else plruPick bits ok depth 1 0

/-- Put an entry into a set of 2^depth ways: into the way of the entry that it replaces, else into the tree's choice. -/
def lruPut {α : Type} (depth bits : Nat) (l : List α) (way : α → Nat) (same : α → Bool) (mk : Nat → α) : Nat × List α :=
  let w := match l.find? same with
    | some x => way x
    | none => victim depth bits (fun _ => true) (fun w => l.any fun x => way x = w) (fun _ => false)
  (plruTouch bits w true depth 1, mk w :: l.filter fun x => way x ≠ w)

/-! ## Slices -/

/-- A mask of bytes `[off, off + n)` of a 128-byte line. -/
def lineMask (off n : Nat) : BitVec 128 := BitVec.ofNat 128 (onesN n * 2 ^ off)

/-- The class index of a region on a die (R338). -/
def State.cosOf (s : State) (r d : Nat) : Nat := nth0 (s.regionD r).cos d

/-- A request that reaches the controller of a line's stack (R339). -/
def State.hbmRequest (s : State) (region cos pa bytes : Nat) : State :=
  let k := homeStack pa
  let h := Tab.get {} s.hbm k
  let q : HbmReq := ⟨region, cos, homeDie pa, pa, bytes, s.now⟩
  { s with hbm := Tab.set {} s.hbm k { h with waiting := h.waiting ++ [q] } }

/-- A line's data is good again (R495). -/
def State.repair (s : State) (line : Nat) : State :=
  { s with badLines := s.badLines.filter fun l => l ≠ line }

def State.l2Find (s : State) (d line : Nat) : Option L2Line := (s.die d).l2.find? fun l => l.line = line

/-- The tree index of a line's set: slice × 1024 + PA[16:7]. -/
def l2Set (line : Nat) : Nat := homeSlice (line * 128) * 1024 + line % 1024

def State.l2Touch (s : State) (d line way : Nat) (away : Bool) : State :=
  s.modDie d fun x =>
    let k := l2Set line
    { x with plru := Tab.set 0 x.plru k (BitVec.ofNat 15 (plruTouch (Tab.get 0 x.plru k).toNat way away 4 1)) }

/-- A slice line is replaced or pushed out: its written bytes go to HBM, and a line that is wholly valid
stores good data (R337, R495). -/
def State.l2Evict (s : State) (d : Nat) (l : L2Line) : State :=
  let s := s.modDie d fun x => { x with l2 := x.l2.filter fun y => y.line ≠ l.line }
  if l.dirty = 0 then s
  else
    let s := s.hbmRequest l.region l.cos (l.line * 128) 128
    if l.valid = BitVec.allOnes 128 then s.repair l.line else s

/-- Whether a line holds a word of an open reduction: it is in ordered mode, and stays in its slice (R370). -/
def State.orderedLine (s : State) (line : Nat) : Bool :=
  s.reductions.any fun r => r.words.any fun w => w / 128 = line

/-- Allocate a line for a request of `region` (R337); a way mask of 0 does not allocate, nor do ways whose lines are all
in ordered mode. A line in ordered mode itself, which must be resident (R370), takes any way when its class has none.
[DEDUCED, unsafe: log 105] -/
def State.l2Alloc (s : State) (region : Nat) (hint : Hint) (line : Nat) (valid dirty : BitVec 128) :
    Option State :=
  let d := homeDie (line * 128)
  let cos := s.cosOf region d
  let mates := (s.die d).l2.filter fun l => l2Set l.line = l2Set line
  let free (m w : Nat) : Bool := bitN m w && !mates.any fun l => l.way = w && s.orderedLine l.line
  let own := (((s.die d).cos.getD cos {}).ways).toNat
  let ways := if s.orderedLine line && !(List.range 16).any (free own) then 0xFFFF else own
  let ok (w : Nat) : Bool := free ways w
  if !(List.range 16).any ok then none
  else
    let keep := hint = .keep && (mates.filter (·.keep)).length < 8
    let w := victim 4 (Tab.get 0 (s.die d).plru (l2Set line)).toNat ok
      (fun w => mates.any fun l => l.way = w) (fun w => mates.any fun l => l.way = w && l.keep)
    let s := match mates.find? fun l => l.way = w with
      | some l => s.l2Evict d l
      | none => s
    let s := s.modDie d fun x => { x with l2 := ⟨line, w, valid, dirty, cos, region, keep⟩ :: x.l2 }
    some (s.l2Touch d line w (decide (hint ≠ .stream)))

def State.l2Put (s : State) (d : Nat) (l : L2Line) : State :=
  s.modDie d fun x => { x with l2 := x.l2.map fun y => if y.line = l.line then l else y }

/-- A read of the bytes `mask` of an HBM line at its slice. What comes from an uncorrectable line is not kept, so that
each later read meets it too (R495). -/
def State.sliceRead (s : State) (region : Nat) (hint : Hint) (line : Nat) (mask : BitVec 128) : State :=
  let pa := line * 128
  if paKind pa ≠ .hbm then s
  else
    let d := homeDie pa
    match s.l2Find d line with
    | some l =>
      let s := s.l2Touch d line l.way true
      if mask &&& ~~~l.valid = 0 then s
      else
        let s := s.hbmRequest region (s.cosOf region d) pa 128
        if s.badLines.contains line then s else s.l2Put d { l with valid := BitVec.allOnes 128 }
    | none =>
      let s := s.hbmRequest region (s.cosOf region d) pa 128
      if hint = .noalloc || s.badLines.contains line then s
      else (s.l2Alloc region hint line (BitVec.allOnes 128) 0).getD s

/-- A write of the bytes `mask` of an HBM line at its slice. -/
def State.sliceWrite (s : State) (region : Nat) (hint : Hint) (line : Nat) (mask : BitVec 128) : State :=
  let pa := line * 128
  if paKind pa ≠ .hbm ∨ mask = 0 then s
  else
    let d := homeDie pa
    let direct (s : State) : State :=
      let s := s.hbmRequest region (s.cosOf region d) pa 128
      if mask = BitVec.allOnes 128 then s.repair line else s
    match s.l2Find d line with
    | some l => (s.l2Touch d line l.way true).l2Put d { l with valid := l.valid ||| mask, dirty := l.dirty ||| mask }
    | none =>
      if hint = .noalloc then direct s
      else match s.l2Alloc region hint line mask mask with
        | some s => s
        | none => direct s

/-- Whether a read of the bytes `mask` of a line meets uncorrectable data: the slice does not hold them and
the stored line is bad (R495). -/
def State.lineBad (s : State) (line : Nat) (mask : BitVec 128) : Bool :=
  s.badLines.contains line &&
    match s.l2Find (homeDie (line * 128)) line with
    | some l => mask &&& ~~~l.valid ≠ 0
    | none => true

/-- The pieces of `[pa, pa + n)` that lie in single lines: line, offset in it, length. `fuel` is a bound on
their number. -/
def linesOf : Nat → Nat → Nat → List (Nat × Nat × Nat)
  | 0, _, _ => []
  | k + 1, pa, n =>
    if n = 0 then []
    else
      let off := pa % 128
      let m := Nat.min n (128 - off)
      (pa / 128, off, m) :: linesOf k (pa + m) (n - m)

def lineParts (pa n : Nat) : List (Nat × Nat × Nat) := linesOf (n / 128 + 2) pa n

/-- A read at the home of `[pa, pa + n)`, with its slice traffic. -/
def State.readHome (s : State) (region : Nat) (hint : Hint) (pa n : Nat) : State × List Byte :=
  ((lineParts pa n).foldl (fun s p => s.sliceRead region hint p.1 (lineMask p.2.1 p.2.2)) s, s.homeRead pa n)

/-- Whether a read at the home of `[pa, pa + n)` meets uncorrectable data, and where. -/
def State.badAt (s : State) (pa n : Nat) : Option Nat :=
  ((lineParts pa n).find? fun p => s.lineBad p.1 (lineMask p.2.1 p.2.2)).map fun p => p.1 * 128 + p.2.1

/-- A write at the home of `[pa, pa + length)`, with its slice traffic. -/
def State.writeHome (s : State) (region : Nat) (hint : Hint) (pa : Nat) (l : List Byte) : State :=
  ((lineParts pa l.length).foldl (fun s p => s.sliceWrite region hint p.1 (lineMask p.2.1 p.2.2)) s).homeWrite pa l

end Sys2Proof.Machine
end

