-- ==== Sys2Proof/Machine/Events.lean ====
section
/-! DEFINITION. Machine/Events.lean: region events (spec/01_device_and_regions.md R36, R37), fault domains
(R28), and MSI-X (spec/15_firmware_host_trust.md R447). -/

namespace Sys2Proof.Machine

/-- The 512 bits of an event record (R37): kind, region, detail at [63:32], ticket or address at [127:64],
and what the kind adds from bit 128 on. -/
def eventRecord (kind r detail t extra : Nat) : Nat :=
  kind % 256 + r % 4096 * 2 ^ 8 + detail % 2 ^ 32 * 2 ^ 32 + t % 2 ^ 64 * 2 ^ 64 + extra * 2 ^ 128

/-- Post an event to a region (R36): a record and then TAIL, or, without a ring or on a full one, EVDROP. An
event to a region that does not exist is discarded (R35). -/
def State.post (s : State) (r kind detail t : Nat) (extra : Nat := 0) : State :=
  match s.region r with
  | none => s
  | some x =>
    let base := x.evqbase
    let tail := s.homeNat base 4
    let head := s.homeNat (base + 8) 4
    if base = 0 ∨ (tail + 2 ^ 32 - head) % 2 ^ 32 ≥ 2 ^ x.evqsize then
      s.setRegion r { x with evdrop := x.evdrop + 1 }
    else
      let s := (s.readHome r .normal base 16).1
      let s := s.writeHome r .normal (base + 64 + 64 * (tail % 2 ^ x.evqsize))
        (bytesOf 64 (eventRecord kind r detail t extra))
      s.writeHome r .normal base (bytesOf 4 ((tail + 1) % 2 ^ 32))

/-- The event kinds (Table 1.7 and the chapters that own the others). -/
def ev.zero : Nat := 0x01
def ev.underflow : Nat := 0x02
def ev.chain : Nat := 0x03
def ev.budgetUnsat : Nat := 0x04
def ev.domainNotice : Nat := 0x05
def ev.domainHalt : Nat := 0x06
def ev.regionEnd : Nat := 0x07
def ev.msilost : Nat := 0x08
def ev.fault : Nat := 0x10
def ev.retire : Nat := 0x11
def ev.deadpos : Nat := 0x12
def ev.qreject : Nat := 0x13
def ev.badframe : Nat := 0x14
def ev.joinunder : Nat := 0x15
def ev.rowalert : Nat := 0x20
def ev.pagereq : Nat := 0x30
def ev.leaserefused : Nat := 0x31
def ev.migfail : Nat := 0x32
def ev.remeasure : Nat := 0x40
def ev.revert : Nat := 0x41
def ev.qstop : Nat := 0x42
def ev.badrec : Nat := 0x43

/-- Post the same event to several regions. -/
def State.postAll (s : State) (rs : List Nat) (kind detail t : Nat) : State :=
  rs.foldl (fun s r => s.post r kind detail t) s

/-- The four fault registers of a record (Table 9.4): FAULTREC0 from its fields, then the rest. -/
def FaultRec.word0 (f : FaultRec) (pend double esp : Bool) (member region : Nat) : Word :=
  BitVec.ofNat 64 (f.cls % 256 + f.slot % 16 * 2 ^ 8 + f.detail % 256 * 2 ^ 16 + pend.toNat * 2 ^ 24 +
    double.toNat * 2 ^ 25 + esp.toNat * 2 ^ 26 + member % 32 * 2 ^ 27 + region % 4096 * 2 ^ 32)

/-- The FAULT event of R279; the common detail is FAULTREC0[31:0]. -/
def State.postFault (s : State) (r ticket : Nat) (w0 w1 w2 w3 frame : Word) (cont : Bool) : State :=
  let s := s.modRegion r fun x => { x with faults := x.faults + 1 }
  s.post r ev.fault (w0.toNat % 2 ^ 32) ticket
    (w0.toNat + w1.toNat * 2 ^ 64 + w2.toNat * 2 ^ 128 + w3.toNat * 2 ^ 192 + frame.toNat * 2 ^ 256 +
      cont.toNat * 2 ^ 320)

/-- What a DATA fault does to the fault domain of region `r` (R28): a notice to the other regions of the
domain, and, with DOMHALT, the halt of every region in it. `detail` is the faulting region's id. -/
def State.domainEvent (s : State) (r : Nat) : State :=
  let peers := s.domainPeers r
  let s := s.postAll peers ev.domainNotice r 0
  if s.effDomhalt r then
    let all := r :: peers
    let s := all.foldl (fun s x => s.modRegion x fun y => { y with halted := true }) s
    s.postAll all ev.domainHalt r 0
  else s

/-! ## Interrupts to the host -/

/-- What leaves for the outside, oldest first. -/
def State.emit (s : State) (o : Out) : State := { s with outbox := s.outbox ++ [o] }

def State.func (s : State) (f : Nat) : Func := Tab.get {} s.funcs f
def State.modFunc (s : State) (f : Nat) (g : Func → Func) : State :=
  { s with funcs := Tab.set {} s.funcs f (g (s.func f)) }

/-- The Nalvel function `fn`. -/
def State.nal (s : State) (fn : Nat) : Nalvel := Tab.get {} s.nalvel fn
def State.modNal (s : State) (fn : Nat) (f : Nalvel → Nalvel) : State :=
  { s with nalvel := Tab.set {} s.nalvel fn (f (s.nal fn)) }

/-- Function `fn` is being replaced, and its work waits: the stock has halted, or has not resumed (R465).
[DEDUCED, unsafe: log 72] -/
def State.fnAway (s : State) (fn : Nat) : Bool := decide ((s.nal fn).graft = .handover ∨ (s.nal fn).graft = .reverted)

/-- Waiting messages are POSTED while one of the 32 slots is FREE (R441). -/
def Nalvel.fill (n : Nalvel) : Nalvel :=
  { n with
    mail := n.mail ++ (n.waits.take (32 - n.mail.length)).map fun m => (m, false)
    waits := n.waits.drop (32 - n.mail.length) }

/-- A sender posts a message, or waits. [DEDUCED, unsafe: log 67] -/
def Nalvel.send (n : Nalvel) (m : Letter) : Nalvel := Nalvel.fill { n with waits := n.waits ++ [m] }

/-- A message is TAKEN. -/
def Nalvel.take (n : Nalvel) (m : Letter) : Nalvel :=
  { n with mail := n.mail.map fun p => if p.1 = m then (m, true) else p }

/-- A message is retired, or withdrawn: its slot becomes FREE. -/
def Nalvel.retire (n : Nalvel) (m : Letter) : Nalvel :=
  Nalvel.fill { n with mail := n.mail.eraseIdx (n.mail.findIdx fun p => p.1 = m), waits := n.waits.filter (· ≠ m) }

/-- Whether a message stands in a slot. -/
def Nalvel.has (n : Nalvel) (m : Letter) : Bool := n.mail.any fun p => p.1 = m

/-- The PCIe function of a region (R447): the one bound to its top-level ancestor, the PF (function 0) for
region 0; none when nothing is bound. -/
def State.funcOf (s : State) (r : Nat) : Option Nat :=
  let top := s.topRegion r
  if top = 0 then some 0
  else (s.funcs.find? fun p => p.2.bound && decide (p.1 ≠ 0) && decide (p.2.region = top)).map (·.1)

/-- A vector of a function is raised with its entry's address and data, or pends while it is masked (R447). -/
def State.raiseVec (s : State) (f vec : Nat) : State :=
  let x := s.func f
  if x.unmasked.contains vec then s.emit (.msix f vec (Tab.get 0 x.msi vec))
  else s.modFunc f fun x => if x.pendingVec.contains vec then x else { x with pendingVec := x.pendingVec ++ [vec] }

/-- Raise an MSI-X vector of a region's function; MSILOST without a function (R447). -/
def State.msix (s : State) (r vec : Nat) : State :=
  match s.funcOf r with
  | none => s.post r ev.msilost vec 0
  | some f => s.raiseVec f vec

end Sys2Proof.Machine
end

