-- ==== Sys2Proof/Machine/Translate.lean ====
section
/-! DEFINITION. Machine/Translate.lean: address spaces, page walks, cached translations and the lease
check (spec/13_translation_and_leases.md R378 to R385, R393 to R395), and completion nodes
(spec/01_device_and_regions.md R38 to R40), whose addresses the launch unit walks. -/

namespace Sys2Proof.Machine

/-! ## Segments (Table 13.1) -/

/-- A region attribute file entry. Bits [75:64], below ROOT's first table bit, are 0 (Table 13.1). -/
structure Seg where
  valid : Bool
  plog : Nat
  levels : Nat
  mtype : Nat
  xall : Bool
  root : Nat
  deriving DecidableEq, Repr

/-- log2 of the page size of a PSIZE code (R380); a reserved code gives 0. -/
def pageLog (code : Nat) : Nat :=
  match code with | 0 => 12 | 1 => 16 | 2 => 21 | 3 => 25 | 4 => 30 | _ => 0

def Seg.ofBits (w : BitVec 128) : Seg :=
  ⟨w.getLsbD 0, pageLog (w.extractLsb' 1 3).toNat, (w.extractLsb' 4 3).toNat, (w.extractLsb' 7 2).toNat,
   w.getLsbD 9, (w.extractLsb' 76 40).toNat * 4096⟩

def Seg.sizeCode (w : BitVec 128) : Nat := (w.extractLsb' 1 3).toNat

/-- An entry as it is kept: its reserved bits are written as 0 (R10, Table 13.1). -/
def Seg.kept (w : BitVec 128) : BitVec 128 := w &&& (BitVec.ofNat 128 (2 ^ 10 - 1) ||| (BitVec.ofNat 128 (2 ^ 40 - 1) <<< 76))

/-- Whether F3 accepts an entry (R380). -/
def Seg.ok (g : Seg) : Bool :=
  g.plog ≠ 0 && 1 ≤ g.levels && g.levels ≤ 5 && g.plog + 9 * (g.levels - 1) < 53 && g.mtype < 3

def Seg.span (g : Seg) : Nat := Nat.min 53 (g.plog + 9 * g.levels)

def State.rafEntry (s : State) (asid va : Nat) : BitVec 128 :=
  match Tab.get none s.spaces asid with
  | some x => x.raf.getD (va / 2 ^ 53 % 16) 0
  | none => 0

def State.seg (s : State) (asid va : Nat) : Seg := Seg.ofBits (s.rafEntry asid va)

/-! ## Page-table entries (Table 13.3) -/

def pteV (x : Word) : Bool := x.getLsbD 0
def pteR (x : Word) : Bool := x.getLsbD 1
def pteW (x : Word) : Bool := x.getLsbD 2
def pteX (x : Word) : Bool := x.getLsbD 3
def pteMig (x : Word) : Bool := x.getLsbD 4
/-- FRAME × 4096. -/
def pteFrame (x : Word) : Nat := (x.extractLsb' 12 40).toNat * 4096

/-- R381, for an entry at level `l` of a segment of page size 2^p; MIG is looked at apart. -/
def pteShape (x : Word) (p l : Nat) : Bool :=
  pteV x && x.extractLsb' 5 7 = 0 && x.extractLsb' 52 12 = 0 && !(pteW x && !pteR x) &&
  (if l = 0 then pteFrame x % 2 ^ p = 0 else !(pteR x || pteW x || pteX x || pteMig x))

/-- Valid as R381 says: a leaf with MIG set is not. -/
def pteValid (x : Word) (p l : Nat) : Bool := pteShape x p l && !pteMig x

/-- What a walk finds. `mig` marks a leaf that is not valid because of MIG alone. -/
inductive WalkRes where
  | unmapped
  | absent (mig : Bool)
  | leaf (x : Word)
  deriving DecidableEq, Repr

/-! ## The walk (R380) -/

/-- The index into the table at level `l`. -/
def Seg.index (g : Seg) (va l : Nat) : Nat :=
  let w := if l + 1 = g.levels then g.span - g.plog - 9 * l else 9
  va / 2 ^ (g.plog + 9 * l) % 2 ^ w

/-- The tables visited below table `t` at level `l`, and what the walk finds. The first list holds the
addresses read, the second the pointers found: level, VA prefix, table. -/
def State.walkFrom (s : State) (g : Seg) (va : Nat) : Nat → Nat → List Nat × List (Nat × Nat × Nat) × WalkRes
  | 0, t =>
    let a := t + 8 * g.index va 0
    let x := BitVec.ofNat 64 (s.homeNat a 8)
    ([a], [], if pteValid x g.plog 0 then .leaf x else .absent (pteShape x g.plog 0))
  | l + 1, t =>
    let a := t + 8 * g.index va (l + 1)
    let x := BitVec.ofNat 64 (s.homeNat a 8)
    if pteValid x g.plog (l + 1) then
      let (r, ps, w) := s.walkFrom g va l (pteFrame x)
      (a :: r, (l, va % 2 ^ 53 / 2 ^ (g.plog + 9 * (l + 1)), pteFrame x) :: ps, w)
    else ([a], [], .absent false)

def Seg.mapped (g : Seg) (va : Nat) : Bool := g.valid && va % 2 ^ 53 / 2 ^ g.span = 0

/-- The walk from ROOT. -/
def State.walkRoot (s : State) (asid va : Nat) : List Nat × List (Nat × Nat × Nat) × WalkRes :=
  let g := s.seg asid va
  if g.mapped va && 1 ≤ g.levels then s.walkFrom g va (g.levels - 1) g.root else ([], [], .unmapped)

/-- The deepest cached pointer for a VA: table and the level it leads to (R384). -/
def ptrFor (ps : List PtrEnt) (asid : Nat) (g : Seg) (va : Nat) : Option (Nat × Nat) :=
  (List.range (g.levels - 1)).findSome? fun l =>
    (ps.find? fun p => p.asid = asid && p.level = l &&
      p.idx = va / 2 ^ 53 * 2 ^ 53 + va % 2 ^ 53 / 2 ^ (g.plog + 9 * (l + 1))).map fun p => (l, p.table)

/-- The walk that may start at a cached pointer. -/
def State.walkCached (s : State) (d asid va : Nat) : List Nat × List (Nat × Nat × Nat) × WalkRes :=
  let g := s.seg asid va
  if !(g.mapped va && 1 ≤ g.levels) then ([], [], .unmapped)
  else match ptrFor (s.die d).ptrs asid g va with
    | some (l, t) => s.walkFrom g va l t
    | none => s.walkFrom g va (g.levels - 1) g.root

/-! ## Cached translations (R384, R385) -/

/-- The VA page number of a page of 2^p bytes, with its segment. -/
def vpage (va p : Nat) : Nat := va / 2 ^ p

def tlbFind (l : List TlbEnt) (asid va : Nat) : Option TlbEnt :=
  l.find? fun e => e.asid = asid && e.vpage = vpage va e.plog

/-- The set of the second-level TLB that a page belongs to: the index is the model's own.
[DESIGN CHOICE, unsafe: log 82] -/
def tlbSet (e : TlbEnt) : Nat := e.vpage % 1024

def TlbEnt.samePage (e x : TlbEnt) : Bool := x.asid = e.asid && x.vpage = e.vpage && x.plog = e.plog

/-- Cache a translation in a core's TLB of 64 entries, or mark its use. -/
def State.tlbPutCore (s : State) (k : Nat) (e : TlbEnt) : State :=
  s.modCore k fun x =>
    let (b, l) := lruPut 6 x.tlbLru.toNat x.tlb (·.way) e.samePage fun w => { e with way := w }
    { x with tlb := l, tlbLru := BitVec.ofNat 63 b }

/-- Cache a translation in a die's TLB of 1024 sets of 8 ways, or mark its use. -/
def State.tlbPutDie (s : State) (d : Nat) (e : TlbEnt) : State :=
  s.modDie d fun x =>
    let k := tlbSet e
    let (b, l) := lruPut 3 (Tab.get 0 x.tlbLru k).toNat (x.tlb.filter fun y => tlbSet y = k) (·.way) e.samePage
      fun w => { e with way := w }
    { x with tlb := l ++ x.tlb.filter fun y => tlbSet y ≠ k, tlbLru := Tab.set 0 x.tlbLru k (BitVec.ofNat 7 b) }

/-- Cache a pointer in a die's walk cache of 512 entries, taken as one set. [DESIGN CHOICE, unsafe: log 82] -/
def State.ptrPut (s : State) (d : Nat) (e : PtrEnt) : State :=
  s.modDie d fun x =>
    let (b, l) := lruPut 9 x.ptrLru.toNat x.ptrs (·.way)
      (fun y => y.asid = e.asid && y.level = e.level && y.idx = e.idx) fun w => { e with way := w }
    { x with ptrs := l, ptrLru := BitVec.ofNat 511 b }

/-- Charge a walk's reads to the region's class and remember its pointers. -/
def State.noteWalk (s : State) (d region asid va : Nat) (reads : List Nat) (ps : List (Nat × Nat × Nat)) :
    State :=
  let s := reads.foldl (fun s a => s.sliceRead region .normal (a / 128) (lineMask (a % 128) 8)) s
  ps.foldl (fun s p => s.ptrPut d { asid := asid, level := p.1, idx := va / 2 ^ 53 * 2 ^ 53 + p.2.1, table := p.2.2 }) s

/-- The requests that a walk by the launch unit, the hub or F3 makes: they carry the class of the region that it serves
(R338). -/
def State.walkReads (s : State) (region asid va : Nat) : State :=
  (s.walkRoot asid va).1.foldl (fun s a => s.sliceRead region .normal (a / 128) (lineMask (a % 128) 8)) s

/-- What a confirming walk contradicts is replaced wherever it is cached (R385): translations of the page, and pointers for
the VA, which the walk found otherwise or did not reach. [DESIGN CHOICE, unsafe: log 82] -/
def State.correct (s : State) (asid va : Nat) (ps : List (Nat × Nat × Nat)) (w : WalkRes) : State :=
  let g := s.seg asid va
  let fixLeaf (e : TlbEnt) : Option TlbEnt :=
    if e.asid = asid && e.vpage = vpage va g.plog && e.plog = g.plog then
      match w with | .leaf x => some { e with leaf := x } | _ => none
    else some e
  let fixPtr (e : PtrEnt) : Option PtrEnt :=
    if e.asid = asid && e.idx = va / 2 ^ 53 * 2 ^ 53 + va % 2 ^ 53 / 2 ^ (g.plog + 9 * (e.level + 1)) then
      (ps.find? fun p => p.1 = e.level).map fun p => { e with table := p.2.2 }
    else some e
  { s with
    cores := Tab.mapVals {} s.cores fun k => { k with tlb := k.tlb.filterMap fixLeaf }
    dies := s.dies.map fun d => { d with tlb := d.tlb.filterMap fixLeaf, ptrs := d.ptrs.filterMap fixPtr } }

/-- A translation by the walkers of die `d`, for core `k` if there is one: from the TLBs, else by a walk; an
answer that `ok` does not accept is confirmed from ROOT first (R384, R385). -/
def State.translate (s : State) (d : Nat) (k : Option Nat) (region asid va : Nat) (ok : Word → Bool) :
    State × WalkRes :=
  let g := s.seg asid va
  let ent (x : Word) : TlbEnt := { asid := asid, vpage := vpage va g.plog, plog := g.plog, leaf := x }
  let put1 (s : State) (x : Word) : State := match k with
    | some k => s.tlbPutCore k (ent x)
    | none => s
  let put2 (s : State) (x : Word) : State := put1 (s.tlbPutDie d (ent x)) x
  let confirm (s : State) : State × WalkRes :=
    let (reads, ps, w) := s.walkRoot asid va
    let s := (s.correct asid va ps w).noteWalk d region asid va reads ps
    match w with
    | .leaf x => (put2 s x, w)
    | _ => (s, w)
  let hit := match k with
    | some k => tlbFind (s.core k).tlb asid va
    | none => none
  match hit with
  | some e => if ok e.leaf then (put1 s e.leaf, .leaf e.leaf) else confirm s
  | none => match tlbFind (s.die d).tlb asid va with
    | some e => if ok e.leaf then (put2 s e.leaf, .leaf e.leaf) else confirm s
    | none =>
      let (reads, ps, w) := s.walkCached d asid va
      match w with
      | .leaf x => if ok x then (put2 (s.noteWalk d region asid va reads ps) x, .leaf x) else confirm s
      | _ => confirm s

/-- The physical address of a VA on a leaf of page size 2^p. -/
def leafPa (x : Word) (p va : Nat) : Nat := pteFrame x + va % 2 ^ p

/-- The translation as it stands, with no effect on the caches: for comparing addresses. -/
def State.peekPa (s : State) (k asid va : Nat) : Option Nat :=
  let g := s.seg asid va
  match tlbFind (s.core k).tlb asid va with
  | some e => some (leafPa e.leaf g.plog va)
  | none => match tlbFind (s.die (dieOfCore k)).tlb asid va with
    | some e => some (leafPa e.leaf g.plog va)
    | none => match (s.walkRoot asid va).2.2 with
      | .leaf x => some (leafPa x g.plog va)
      | _ => none

/-! ## The lease check (R393, R395) -/

/-- Rights an access needs. -/
structure Need where
  r : Bool := false
  w : Bool := false
  x : Bool := false
  deriving DecidableEq, Repr

def Need.read : Need := ⟨true, false, false⟩
def Need.write : Need := ⟨false, true, false⟩
def Need.both : Need := ⟨true, true, false⟩

def VaRange.grants (g : VaRange) (va n : Nat) (need : Need) : Bool :=
  g.base ≤ va && va + n ≤ g.base + g.len && (g.r || !need.r) && (g.w || !need.w) && (g.x || !need.x)

/-- Whether [va, va + n) lies in one declared range with the rights, below 2^57 (R97, R393). -/
def Task.leased (t : Task) (va n : Nat) (need : Need) : Bool :=
  va < 2 ^ 57 && t.ranges.any fun g => g.grants va n need

/-- Whether a bundle at `va` may be fetched, its page apart (R395). [DESIGN CHOICE, unsafe: log 82] -/
def State.fetchRange (s : State) (t : Task) (asid va : Nat) : Bool :=
  va < 2 ^ 57 && (t.leased va 32 ⟨false, false, true⟩ || (s.seg asid va).xall)

/-- Whether a leaf has the rights. -/
def Need.onLeaf (need : Need) (x : Word) : Bool :=
  (pteR x || !need.r) && (pteW x || !need.w) && (pteX x || !need.x)

/-! ## Completion nodes (R38 to R40) -/

/-- The home address of a completion node: a normal page with write right (R39). An address that is not a multiple of
32 is no node's (R38); the spec gives it no effect, and it is treated as a node address that does not translate.
[DEDUCED, unsafe: log 85] -/
def State.nodePa (s : State) (asid va : Nat) : Option Nat :=
  if va ≥ 2 ^ 57 ∨ va % 32 ≠ 0 ∨ (s.seg asid va).mtype ≠ 0 then none
  else match (s.walkRoot asid va).2.2 with
    | .leaf x => if pteW x then some (leafPa x (s.seg asid va).plog va) else none
    | _ => none

/-- No byte of `[pa, pa + n)` is a completion node's any more. -/
def State.forgetUnder (s : State) (pa n : Nat) : State :=
  { s with under := s.under.filter fun a => a < pa || pa + n ≤ a }

/-- The decrement of a node at `pa` whose COUNT is 0 sets UNDER: `w` is its first word with UNDER (R39). -/
def State.setUnder (s : State) (owner pa w : Nat) : State :=
  let s := (s.forgetUnder pa 32).writeHome owner .normal pa (bytesOf 8 w)
  { s with under := s.under ++ [pa] }

/-- complete(node, depth) of R39. `child` is the region of the node visited before, or the retiring task's;
`keepUnder` is the exception of R31: the decrement that it makes, and those that it propagates, never set UNDER.
[DEDUCED, unsafe: log 87] -/
def State.completeFrom (s : State) (child asid va : Nat) (keepUnder : Bool) : Nat → State
  | 0 => s.post child ev.chain 0 va
  | fuel + 1 =>
    let s := s.walkReads child asid va
    match s.nodePa asid va with
    | none => s.post child ev.chain 0 va
    | some pa =>
      let (s, b) := s.readHome child .normal pa 24
      let w0 := ofBytes (b.take 8)
      let parent := ofBytes ((b.drop 8).take 8) % 2 ^ 48
      let owner := ofBytes (b.drop 16) % 4096
      match s.region owner with
      | none => s.post child ev.chain 0 va
      | some _ =>
        if w0 % 2 ^ 32 = 0 then
          let s := if keepUnder then s else s.setUnder owner pa (if bitN w0 34 then w0 else w0 + 2 ^ 34)
          s.post owner ev.underflow 0 va
        else
          let s := s.writeHome owner .normal pa (bytesOf 4 (w0 - 1))
          if (w0 - 1) % 2 ^ 32 ≠ 0 then s
          else
            let s := if bitN w0 32 then s.post owner ev.zero 0 va else s
            let s := if bitN w0 33 then s.msix owner (w0 / 2 ^ 36 % 2048) else s
            if parent = 0 then s
            else
              let (s, up) : State × Nat := match s.nodePa (s.asidOf owner) parent with
                | some p =>
                  let (s, b) := (s.walkReads owner (s.asidOf owner) parent).readHome owner .normal (p + 16) 8
                  (s, ofBytes b % 4096)
                | none => (s, 4096)
              if (s.lineage 8 owner).contains up && (s.region up).isSome then
                s.completeFrom owner (s.asidOf owner) parent keepUnder fuel
              else s.post owner ev.chain 0 parent

/-- complete(node, 1): at most eight levels (R39). -/
def State.complete (s : State) (region : Nat) (va : Nat) (keepUnder : Bool := false) : State :=
  if va = 0 then s else s.completeFrom region (s.asidOf region) va keepUnder 8

end Sys2Proof.Machine
end

