-- ==== Sys2Proof/Machine/Cache.lean ====
section
/-! DEFINITION. Machine/Cache.lean: the L1 (spec/11_caches_and_bandwidth.md R327 to R334), the element
operations of the atomics (spec/12_ordering_and_atomics.md Table 12.5) and update-only lines (R367, R375,
R376). -/

namespace Sys2Proof.Machine

/-! ## Element operations (Table 12.5) -/

/-- Bytes of an operation's word. -/
def AtOp.bytes : AtOp → Nat
  | .fadd => 4
  | _ => 8

/-- new = f(old, v). ACAS compares with `e`; AFADD reads bits [31:0] and raises no status. -/
def AtOp.apply (op : AtOp) (old v e : Word) : Word :=
  match op with
  | .add => old + v
  | .min => if old.toInt ≤ v.toInt then old else v
  | .max => if old.toInt ≤ v.toInt then v else old
  | .minn => if old.toNat ≤ v.toNat then old else v
  | .maxn => if old.toNat ≤ v.toNat then v else old
  | .and => old &&& v
  | .or => old ||| v
  | .xor => old ^^^ v
  | .xchg => v
  | .cas => if old = e then v else old
  | .fadd => BitVec.ofNat 64 (Fmt.f32.fadd (old.toNat % 2 ^ 32) (v.toNat % 2 ^ 32)).1

/-- The identity that an element of an update-only line starts as (R367). -/
def AtOp.identity : AtOp → Word
  | .and | .minn => BitVec.allOnes 64
  | .max => 0x8000000000000000
  | .min => 0x7FFFFFFFFFFFFFFF
  | .fadd => 0x80000000
  | _ => 0

/-! ## Deferred faults -/

/-- FAULTREC0 of a record in context `c`. -/
def State.recWord0 (s : State) (c : Nat) (f : FaultRec) (pend double : Bool) : Word :=
  let t := (s.ctx c).task
  f.word0 pend double t.inEsp t.member t.region

/-- A fault that falls due later in a context (R97, R244, R376, R395). -/
def Ctx.defer (x : Ctx) (n : Nat) (f : FaultRec) : Ctx := { x with deferred := x.deferred ++ [(n, f)] }
def State.defer (s : State) (c : Nat) (f : FaultRec) : State := s.modCtx c fun x => x.defer 0 f

/-- A fault of the acting context's open region that falls due later: a rollback discards it. -/
def State.deferOpen (s : State) (f : FaultRec) : State := s.modCtx s.cur.ctx fun x => x.defer (x.seq + 1) f

/-- A fault that its task can no longer take is posted as a FAULT event (R279, R376); DATA is noted to the domain too
(R28, R244). [DESIGN CHOICE, unsafe: log 96] -/
def State.postLate (s : State) (f : FaultRec) (esp : Bool) (member region ticket : Nat) (frame : Word) : State :=
  let s := s.postFault region ticket (f.word0 false false esp member region) f.pc f.r2 f.r3 frame false
  if f.cls = 0x08 then ({ s with dataFaults := s.dataFaults + 1 } : State).domainEvent region else s

/-- A task that can still take a deferred fault: it has not issued its final EXIT (R376). -/
def Ctx.takesDeferred (x : Ctx) : Bool :=
  x.busy && match x.ending with | some .exit | some .fault => false | _ => true

/-- ORDC for an update-line merge (R376): to the task that last updated the line if it still runs on the
core, else as a FAULT event. -/
def State.ordcMerge (s : State) (k : Nat) (l : L1Line) : State :=
  let rec0 : FaultRec :=
    ⟨0x05, 8, 0x01, 0, l.ownerVa &&& ~~~0x7F, 0x8000000000000000⟩
  let mine (c : Nat) : Bool :=
    let x := s.ctx c
    x.takesDeferred && x.task.ticket = l.ownerTicket && x.task.region = l.ownerRegion && l.owner = x.task.uid
  if mine (2 * k) then s.defer (2 * k) rec0
  else if mine (2 * k + 1) then s.defer (2 * k + 1) rec0
  else s.postLate rec0 l.ownerEsp l.ownerMember l.ownerRegion l.ownerTicket l.ownerFrame

/-! ## L1 lines -/

def State.l1Find (s : State) (k line : Nat) : Option L1Line := (s.core k).l1.find? fun l => l.line = line

def State.l1Drop (s : State) (k line : Nat) : State :=
  s.modCore k fun x => { x with l1 := x.l1.filter fun l => l.line ≠ line }

def State.l1Put (s : State) (k : Nat) (l : L1Line) : State :=
  s.modCore k fun x => { x with l1 := x.l1.map fun y => if y.line = l.line then l else y }

def L1Line.byte (l : L1Line) (i : Nat) : Byte := l.data.extractLsb' (8 * i) 8
def L1Line.isU (l : L1Line) : Bool := match l.st with | .u _ => true | _ => false

/-- The bytes of a line under a mask, `none` elsewhere. -/
def L1Line.masked (l : L1Line) (mask : BitVec 128) : List (Option Byte) :=
  (List.range 128).map fun i => if mask.getLsbD i then some (l.byte i) else none

/-- Send a line's dirty bytes to its home (R329); the slice is written for an HBM line. -/
def State.l1SendDirty (s : State) (l : L1Line) : State :=
  (s.sliceWrite l.ownerRegion .normal l.line l.dirty).homeWriteOpt (l.line * 128) (l.masked l.dirty)

/-- Merge an update-only line at its home slice (R367): each touched element combined, one indivisible step;
an AFADD line of an ordered-mode line is refused (R375). A merge that misses allocates the touched bytes alone, and reads
no HBM (R337). -/
def State.l1MergeU (s : State) (k : Nat) (op : AtOp) (l : L1Line) : State :=
  if op = .fadd ∧ s.orderedLine l.line then s.ordcMerge k l
  else
    let n := op.bytes
    let s := s.sliceWrite l.ownerRegion .normal l.line l.valid
    (List.range (128 / n)).foldl (fun s i =>
      if l.valid.getLsbD (n * i) then
        let pa := l.line * 128 + n * i
        let old := BitVec.ofNat 64 (s.homeNat pa n)
        let v := (l.data.extractLsb' (8 * n * i) (8 * n)).setWidth 64
        s.homeWriteNat pa n (op.apply old v 0).toNat
      else s) s

/-- Write back or merge a line and remove it. -/
def State.l1Flush (s : State) (k : Nat) (l : L1Line) : State :=
  (match l.st with
    | .u op => s.l1MergeU k op l
    | .d => s.l1SendDirty l
    | .c => s).l1Drop k l.line

/-- Merge the line of an address if the L1 holds it in state U (R330). -/
def State.l1Unmerge (s : State) (k line : Nat) : State :=
  match s.l1Find k line with
  | some l => if l.isU then s.l1Flush k l else s
  | none => s

/-- Whether the L1 of core `k` is divided by DET (R331). -/
def State.l1Split (s : State) (k : Nat) : Bool := (s.ctx (2 * k)).busy && (s.ctx (2 * k)).task.det

/-- The replacement tree that context `c` updates; none when it may not (R331). -/
def State.l1Touch (s : State) (c line way : Nat) (away : Bool) : State :=
  let k := coreOf c
  let upd (t : Tab (BitVec 7)) : Tab (BitVec 7) :=
    Tab.set 0 t (line % 512) (BitVec.ofNat 7 (plruTouch (Tab.get 0 t (line % 512)).toNat way away 3 1))
  if s.l1Split k then
    if isBg c then (if way < 6 then s else s.modCore k fun x => { x with plruB := upd x.plruB })
    else s.modCore k fun x => { x with plruF := upd x.plruF }
  else s.modCore k fun x => { x with plruF := upd x.plruF }

/-- Make room for a line and put it in (R331, R333). -/
def State.l1Alloc (s : State) (c : Nat) (hint : Hint) (l : L1Line) : State :=
  let k := coreOf c
  let split := s.l1Split k
  let ok (w : Nat) : Bool := !split || (if isBg c then w ≥ 6 else w < 6)
  let mates := (s.core k).l1.filter fun x => x.line % 512 = l.line % 512
  let keep := hint = .keep && (mates.filter (·.keep)).length < 4
  let tree := if split && isBg c then (s.core k).plruB else (s.core k).plruF
  let w := victim 3 (Tab.get 0 tree (l.line % 512)).toNat ok
    (fun w => mates.any fun x => x.way = w) (fun w => mates.any fun x => x.way = w && x.keep)
  let s := match mates.find? fun x => x.way = w with
    | some x => s.l1Flush k x
    | none => s
  let s := s.modCore k fun x => { x with l1 := { l with way := w, keep := keep } :: x.l1 }
  s.l1Touch c l.line w (decide (hint ≠ .stream))

/-- The bits of 128 data bytes taken from a list where the mask says. -/
def fillData (old : BitVec 1024) (mask : BitVec 128) (l : List Byte) : BitVec 1024 :=
  BitVec.ofNat 1024 (packN 8 (tabulate 128 fun i =>
    if mask.getLsbD i then (l.getD i 0).toNat else eltN 8 old.toNat i))

/-- Hints that allocate in L1 for a page type (Table 11.2): KEEP is NORMAL for host pages. -/
def l1Hint (host : Bool) (h : Hint) : Hint := if host ∧ h = .keep then .normal else h

/-- A load of `n` bytes of one line by context `c` through L1 (R329, R330, R333, R357): the bytes, or `none`
when the data is uncorrectable. `home` is an acquire of scope CLUSTER or wider; a line in ordered mode is read at its
slice too (R375). [DEDUCED, safe: log 57] -/
def State.l1Load (s : State) (c region pa n : Nat) (hint : Hint) (home : Bool) : State × Option (List Byte) :=
  let k := coreOf c
  let line := pa / 128
  let off := pa % 128
  let mask := lineMask off n
  let host := paKind pa = .host
  let hint := l1Hint host hint
  let home := home || s.orderedLine line
  let s := s.l1Unmerge k line
  let fromHome (s : State) : State × Option (List Byte) :=
    if s.lineBad line mask then (s.sliceRead region hint line mask, none)
    else let (s, l) := s.readHome region (if host then .noalloc else hint) pa n; (s, some l)
  match s.l1Find k line with
  | some l =>
    if home then
      fromHome ((s.l1SendDirty l).l1Put k { l with st := .c, dirty := 0 })
    else if mask &&& ~~~l.valid = 0 then
      (s.l1Touch c line l.way true, some ((List.range n).map fun i => l.byte (off + i)))
    else if s.lineBad line (mask &&& ~~~l.valid) then (s.sliceRead region hint line mask, none)
    else if s.lineBad line (BitVec.allOnes 128) then
      let (s, b) := s.readHome region hint pa n
      (s, some ((List.range n).map fun i => if l.valid.getLsbD (off + i) then l.byte (off + i) else b.getD i 0))
    else
      let (s, b) := s.readHome region hint (line * 128) 128
      let l' := { l with valid := BitVec.allOnes 128, data := fillData l.data (~~~l.dirty) b }
      ((s.l1Put k l').l1Touch c line l.way true, some ((List.range n).map fun i => l'.byte (off + i)))
  | none =>
    if home ∨ hint = .noalloc ∨ s.lineBad line (BitVec.allOnes 128) then fromHome s
    else
      let (s, b) := s.readHome region hint (line * 128) 128
      let l : L1Line := ⟨line, 0, .c, BitVec.allOnes 128, 0, fillData 0 (BitVec.allOnes 128) b, false, 0, 0,
        region, 0, 0, 0, false⟩
      (s.l1Alloc c hint l, some ((b.drop off).take n))

/-- The mask of the bytes present in a list that starts at `off` in its line. -/
def optMask (off : Nat) (l : List (Option Byte)) : BitVec 128 :=
  BitVec.ofNat 128 (packN 1 (l.map fun b => if b.isSome then 1 else 0) * 2 ^ off)

/-- A released plain store of some bytes of one line into L1 (R329, R333). -/
def State.l1Store (s : State) (c region pa : Nat) (data : List (Option Byte)) (hint : Hint) : State :=
  let k := coreOf c
  let line := pa / 128
  let off := pa % 128
  let mask := optMask off data
  let hint := l1Hint (paKind pa = .host) hint
  let bytes := List.replicate off (0 : Byte) ++ data.map (·.getD 0)
  let s := s.l1Unmerge k line
  match s.l1Find k line with
  | some l =>
    (s.l1Put k { l with
      st := .d, valid := l.valid ||| mask, dirty := l.dirty ||| mask, ownerRegion := region,
      data := fillData l.data mask bytes }).l1Touch c line l.way true
  | none =>
    if hint = .noalloc then (s.sliceWrite region .noalloc line mask).homeWriteOpt pa data
    else if mask = 0 then s
    else s.l1Alloc c hint ⟨line, 0, .d, mask, mask, fillData 0 mask bytes, false, 0, 0, region, 0, 0, 0, false⟩

/-- A store that is written through to its home (R357); a copy of the bytes in L1 is refreshed. -/
def State.storeThrough (s : State) (c region pa : Nat) (data : List (Option Byte)) (hint : Hint) : State :=
  let k := coreOf c
  let line := pa / 128
  let off := pa % 128
  let mask := optMask off data
  let bytes := List.replicate off (0 : Byte) ++ data.map (·.getD 0)
  let s := s.l1Unmerge k line
  let s := match s.l1Find k line with
    | some l =>
      let dirty := l.dirty &&& ~~~mask
      s.l1Put k { l with
        st := if dirty = 0 then .c else .d, dirty := dirty, data := fillData l.data mask bytes,
        valid := l.valid ||| mask }
    | none => s
  (s.sliceWrite region hint line mask).homeWriteOpt pa data

/-- Write back every dirty line of a core's L1: normal lines, and host lines when `host` (Table 12.3). -/
def State.l1WriteBack (s : State) (k : Nat) (host : Bool) : State :=
  (s.core k).l1.foldl (fun s l =>
    if l.st = .d ∧ (host ∨ paKind (l.line * 128) ≠ .host) then
      (s.l1SendDirty l).l1Put k { l with st := .c, dirty := 0 }
    else s) s

/-- Merge every update-only line of a core's L1 (Table 12.3). -/
def State.l1MergeAll (s : State) (k : Nat) : State :=
  (s.core k).l1.foldl (fun s l => if l.isU then s.l1Flush k l else s) s

/-- Drop the valid bytes that are not dirty: of normal lines, and of host lines when `host` (R358). -/
def State.l1Invalidate (s : State) (k : Nat) (host : Bool) : State :=
  s.modCore k fun x => { x with
    l1 := x.l1.filterMap fun l =>
      if l.isU ∨ (paKind (l.line * 128) = .host ∧ !host) then some l
      else if l.dirty = 0 then none else some { l with valid := l.dirty } }

/-- Write back and invalidate, or merge, the line of an atomic before it goes home (R330). -/
def State.l1Yield (s : State) (k line : Nat) : State :=
  match s.l1Find k line with
  | some l => s.l1Flush k l
  | none => s

/-- A released update-form atomic (R367). -/
def State.l1Update (s : State) (c region pa : Nat) (va : Word) (op : AtOp) (v : Word) : State :=
  let k := coreOf c
  let line := pa / 128
  let off := pa % 128
  let n := op.bytes
  let t := (s.ctx c).task
  let s := match s.l1Find k line with
    | some l => if l.st = LineState.u op then s else s.l1Flush k l
    | none => s
  let s := match s.l1Find k line with
    | some _ => s
    | none =>
      let init := packN (8 * n) (List.replicate (128 / n) op.identity.toNat)
      s.l1Alloc c .normal ⟨line, 0, .u op, 0, 0, BitVec.ofNat 1024 init, false, 0, 0, region, 0, 0, 0, false⟩
  match s.l1Find k line with
  | some l =>
    let old := (l.data.extractLsb' (8 * off) (8 * n)).setWidth 64
    let new := bytesOf n (op.apply old v 0).toNat
    let mask := lineMask off n
    (s.l1Put k { l with
      valid := l.valid ||| mask, data := fillData l.data mask (List.replicate off (0 : Byte) ++ new),
      owner := t.uid, ownerTicket := t.ticket, ownerRegion := region, ownerVa := va,
      ownerFrame := t.frame, ownerMember := t.member, ownerEsp := t.inEsp }).l1Touch c line l.way true
  | none => s

end Sys2Proof.Machine
end

