-- ==== Sys2Proof/Machine/Mac.lean ====
section
/-! DEFINITION. Machine/Mac.lean: numerics profiles, a beat of the matrix array, and the conversion of a
drained row (spec/07_matrix_array.md R187 to R211). -/

namespace Sys2Proof

/-! ## Profiles -/

/-- The parameters of a profile (Table 7.6). `skip` never changes a result (R209). -/
structure Profile where
  balanced : Bool
  maxga : Bool
  w : Nat
  sticky : Bool
  perGroup : Bool
  rtz : Bool
  flush : Bool
  skip : Bool
  g4 : Nat
  g8 : Nat
  g16 : Nat
  g2 : Nat
  deriving DecidableEq, Repr

/-- The published profiles (Table 7.6); a number that the table does not list gets profile 1's row and is
refused at decode (0x05, 0x06). -/
def Profile.of (n : Nat) : Profile :=
  match n with
  | 2 => ⟨false, false, 28, false, false, true, true, true, 4, 8, 16, 2⟩
  | 3 => ⟨false, true, 32, true, false, false, false, true, 4, 8, 16, 2⟩
  | 4 => ⟨true, false, 48, true, true, false, false, true, 2, 2, 2, 2⟩
  | 5 => ⟨false, false, 25, false, true, true, false, false, 1, 1, 1, 1⟩
  | 6 => ⟨false, true, 28, true, false, false, true, true, 4, 8, 16, 2⟩
  | 7 => ⟨true, false, 32, false, true, false, false, true, 2, 4, 4, 1⟩
  | 8 => ⟨false, false, 64, true, false, false, false, false, 4, 8, 16, 2⟩
  | 9 => ⟨true, true, 27, true, true, false, false, true, 2, 4, 8, 1⟩
  | 10 => ⟨false, false, 24, false, false, true, true, false, 4, 8, 16, 2⟩
  | 11 => ⟨true, false, 36, true, true, true, false, true, 4, 4, 8, 2⟩
  | 12 => ⟨false, true, 48, false, false, false, false, true, 4, 8, 16, 2⟩
  | _ => ⟨false, false, 48, true, false, false, false, true, 4, 8, 16, 2⟩

/-- Group size for K products (Table 7.6). -/
def Profile.group (p : Profile) (k : Nat) : Nat :=
  match k with
  | 2 => p.g2 | 8 => p.g8 | 16 => p.g16 | _ => p.g4

/-! ## Elements of a piece (R188, R194) -/

/-- K of a format (Table 7.1). -/
def MFmt.k : MFmt → Nat
  | .e4m3 | .e5m2 | .int8 | .sx8 => 4
  | .sx2 => 16
  | .sx4 => 8
  | .bf16 | .f16 => 2

/-- Magnitude bits of a block format (R142); 0 for the others. -/
def MFmt.mag : MFmt → Nat
  | .sx2 => 1 | .sx4 => 3 | .sx8 => 7 | _ => 0

/-- The floating format of an element format. -/
def MFmt.fmt : MFmt → Fmt
  | .e4m3 => .e4m3f | .e5m2 => .e5m2f | .bf16 => .bf16 | _ => .f16

/-- A floating element, with subnormals read as 0 under FLUSH (R206). -/
def Fmt.read (f : Fmt) (flush : Bool) (w : Nat) : Fv :=
  match f.decode w with
  | .fin s m e => if flush && m < 2 ^ f.mb then .fin s 0 0 else .fin s m e
  | v => v

/-- Element `k` of a 32-bit piece word (R188); a block element takes scale word `sc` and its index `base +
k` in the block (R194). -/
def MFmt.elem (f : MFmt) (flush : Bool) (sc base word k : Nat) : Fv :=
  let el := eltN (32 / f.k) word k
  if f.mag ≠ 0 then blockElem f.mag sc el (base + k) else f.fmt.read flush el

/-- The values of a piece word. -/
def MFmt.elems (f : MFmt) (flush : Bool) (sc base word : Nat) : List Fv :=
  (List.range f.k).map (f.elem flush sc base word)

/-- PH as a beat uses it: reduced modulo 16/K (R194). -/
def MFmt.phase (f : MFmt) (ph : Nat) : Nat := ph % (16 / f.k)

/-- PH after a beat (R194). -/
def MFmt.nextPhase (f : MFmt) (ph : Nat) : Nat :=
  if f.mag ≠ 0 then (f.phase ph + 1) % (16 / f.k) else ph

/-! ## mac (R206) -/

/-- rnd of R206: to FP32 in the profile's mode; overflow raises MOF and gives Inf or, under RTZ, the
largest finite value; NaN (opposite Infs) raises MNV. -/
def macRnd (rtz : Bool) (v : Option Fv) : Fv × Word :=
  match v with
  | none => (.nan false, St.mnv)
  | some (.nan _) => (.nan false, 0)
  | some (.inf s) => (.inf s, 0)
  | some (.fin s m e) =>
    if m = 0 then (.fin false 0 0, 0)
    else
      let (b, st) := Fmt.f32.round (if rtz then .rtz else .rne) s m e
      if st &&& St.of ≠ 0 then
        (if rtz then Fmt.f32.decode (Fmt.f32.maxBits s) else .inf s, St.mof)
      else (Fmt.f32.decode b, 0)

/-- The sum of one group (R206), exact: every product cut to the window below the reference. -/
def macGroup (p : Profile) (base : Fv) (ps : List Fv) : Fv :=
  let nz := ps.filter fun v => !v.isZero
  if nz = [] then .fin false 0 0
  else
    let top := nz.foldl (fun a v => max a v.exponent) (-1000000)
    let ref := if p.maxga && !base.isZero then max top base.exponent else top
    let u : Int := ref - p.w + 1
    let cut : Fv → Int
      | .fin s m e =>
        let sh := (u - e).toNat
        let fl := if e ≥ u then m * 2 ^ (e - u).toNat else m / 2 ^ sh
        let rem := if e ≥ u then 0 else m % 2 ^ sh
        let x : Int := (2 * fl + (if p.sticky && rem ≠ 0 then 1 else 0) : Nat)
        if s then -x else x
      | _ => 0
    let t := nz.foldl (fun a v => a + cut v) 0
    .fin (decide (t < 0)) t.natAbs (u - 1)

/-- A list cut into pieces of `n`, at most `fuel` of them. -/
def chunks {α : Type} (n : Nat) : Nat → List α → List (List α)
  | 0, _ => []
  | k + 1, l => if l.length = 0 then [] else l.take n :: chunks n k (l.drop n)

/-- One level of the balanced tree (R206). -/
def macPairs (rtz : Bool) : List Fv → List Fv × Word
  | a :: b :: t =>
    let (x, st) := macRnd rtz (a.add b)
    let (r, st') := macPairs rtz t
    (x :: r, st ||| st')
  | l => (l, 0)

/-- The balanced tree, at most `fuel` levels. -/
def macTree (rtz : Bool) : Nat → List Fv → Fv × Word
  | 0, l => (l.headD (.fin false 0 0), 0)
  | n + 1, l =>
    if l.length ≤ 1 then (l.headD (.fin false 0 0), 0)
    else
      let (l', st) := macPairs rtz l
      let (r, st') := macTree rtz n l'
      (r, st ||| st')

/-- The linear chain under RPT = GROUP (R206). -/
def macChain (rtz : Bool) : Fv → List Fv → Fv × Word
  | t, [] => (t, 0)
  | t, s :: l =>
    if s.isZero then macChain rtz t l
    else
      let (x, st) := macRnd rtz (t.add s)
      let (r, st') := macChain rtz x l
      (r, st ||| st')

/-- The FP32 encoding of a value that FP32 holds. -/
def Fv.toF32 (v : Fv) : Nat := (Fmt.f32.deliver .rne v).1

/-- mac of R206 for floating formats: the accumulator's new bits and status. -/
def mac (p : Profile) (acc : Nat) (x y : List Fv) : Nat × Word :=
  let nan := Fmt.f32.canon
  let base := Fmt.f32.decode acc
  let ps := List.zipWith Fv.mul x y
  if x.any Fv.isNan || y.any Fv.isNan || ps.any (fun v => v.isNone) then (nan, St.mnv)
  else if base.isNan then (nan, 0)
  else
    let ps := ps.filterMap id
    let infs := (base :: ps).filter Fv.isInf
    if infs.any Fv.neg && infs.any (fun v => !v.neg) then (nan, St.mnv)
    else if infs ≠ [] then (Fmt.f32.infBits (infs.any Fv.neg), 0)
    else
      let groups := (chunks (p.group x.length) 16 ps).map (macGroup p base)
      if !p.perGroup then
        let t := groups.foldl (fun a v => (a.add v).getD a) (.fin false 0 0)
        if t.isZero then (acc, 0)
        else let (r, st) := macRnd p.rtz (base.add t); (r.toF32, st)
      else if !p.balanced then
        let (r, st) := macChain p.rtz base groups
        (if groups.all Fv.isZero then acc else r.toF32, st)
      else
        let (s, st) := macTree p.rtz 5 groups
        if s.isZero then (acc, st)
        else let (r, st') := macRnd p.rtz (base.add s); (r.toF32, st ||| st')

/-- Σ x[k] × y[k] added to the accumulator modulo 2^32 (R201, INT8). -/
def macInt (acc x y : Nat) : Nat :=
  wrapN 32 ((acc : Int) + (List.range 4).foldl (fun a k => a + sextN 8 (eltN 8 x k) * sextN 8 (eltN 8 y k)) 0)

/-! ## A beat (R201) -/

/-- What a beat does to one row: its new elements and the status raised. `ra` is the row's A word. -/
def beatRow (set : Bool) (af bf : MFmt) (p : Profile) (ra sa : Nat) (b : List (Nat × Nat)) (ph : Nat)
    (row : List Nat) : List Nat × Word :=
  let r :=
    if af = .int8 then
      List.zipWith (fun acc (w : Nat × Nat) => (macInt (if set then 0 else acc) ra w.1, (0 : Word))) row b
    else
      let xs := af.elems p.flush sa (af.phase ph * af.k) ra
      List.zipWith (fun acc (w : Nat × Nat) =>
        mac p (if set then 0 else acc) xs (bf.elems p.flush w.2 (bf.phase ph * bf.k) w.1)) row b
  (r.map (·.1), r.foldl (fun a v => a ||| v.2) 0)

/-- A beat on row `r` of a bank: A piece, B piece, scales as they stood at issue, shift of MSHIFT. -/
def beat (set : Bool) (af bf : MFmt) (profile : Nat) (a b asc bsc : Nat) (shift ph r row : Nat) :
    Nat × Word :=
  let live := decide (shift ≤ r)
  let ra := if live then eltN 32 a (r - shift) else 0
  let sa := if live then eltN 16 asc (r - shift) else 0
  let cols := tabulate 256 fun c => (eltN 32 b c, eltN 16 bsc c)
  let (row', st) := beatRow set af bf (Profile.of profile) ra sa cols ph (tabulate 256 (eltN 32 row))
  (packN 32 row', st)

/-! ## Drains (R203, R204, R211) -/

/-- The status of a drain: OF is raised as MOF and NV as MNV (R211). -/
def drainStatus (st : Word) : Word :=
  (st &&& ~~~(St.of ||| St.nv)) ||| St.when (st &&& St.of ≠ 0) St.mof |||
    St.when (st &&& St.nv ≠ 0) St.mnv

/-- Bytes per element of a drain code (Table 7.5). -/
def drainBytes (code : Nat) : Nat :=
  match code with | 0 => 4 | 1 => 2 | 2 => 2 | _ => 1

/-- One element of a drained row (Table 7.5). -/
def drainElem (code w : Nat) : Nat × Word :=
  let v := Fmt.f32.decode w
  let int8 (p : Int × Word) : Nat × Word := (wrapN 8 p.1, p.2)
  match code with
  | 0 => (w, 0)
  | 1 => Fmt.bf16.deliver .rne v
  | 2 => Fmt.f16.deliver .rne v
  | 3 => Fmt.e4m3f.deliver .rne v
  | 4 => Fmt.e5m2f.deliver .rne v
  | 5 => int8 ((Fv.ofInt (sextN 32 w)).toInt .rne (-128) 127)
  | _ => int8 (v.toInt .rne (-128) 127)

/-- The bytes and status of MDRAIN for a row. -/
def drainRow (code row : Nat) : List Byte × Word :=
  let r := (List.range 256).map fun c => drainElem code (eltN 32 row c)
  (r.flatMap fun p => bytesOf (drainBytes code) p.1, drainStatus (r.foldl (fun a p => a ||| p.2) 0))

/-- The bytes and status of MDRAINQ for a row: sixteen element planes, then sixteen scale words (R204). -/
def drainqRow (m row : Nat) : List Byte × Word :=
  let blocks := (List.range 16).map fun k =>
    quantBlock m .drain (tabulate 16 fun i => Fmt.f32.decode (eltN 32 row (16 * k + i)))
  (blocks.flatMap (fun b => bytesOf (2 * (m + 1)) (packN (m + 1) b.2.1)) ++
    blocks.flatMap (fun b => bytesOf 2 b.1),
   drainStatus (blocks.foldl (fun a b => a ||| b.2.2) 0))

end Sys2Proof
end

