-- ==== Sys2Proof/Machine/Special.lean ====
section
/-! DEFINITION. Machine/Special.lean: the special functions of spec/06_vector_lanes.md R172 and Table
6.5. A function that is never exact is computed in fixed point with 320 fraction bits and an error below
2^−280; when both ends of that interval round to the same FP32 value, that value is the correctly rounded
one. Where they do not, the rounding is the free value `Config.freeF32` (notes/assumptions). -/

namespace Sys2Proof

namespace Spf

/-- Fraction bits. -/
def P : Nat := 320
/-- 1.0. -/
def one : Nat := 2 ^ 320
/-- Half the width of the interval, in units of 2^−320. -/
def slack : Nat := 2 ^ 40

/-- Σ z^(2k+1)/(2k+1), from term `k` on, `pw` being z^(2k+1), for z = a/2^320. -/
def atanhFrom (zz : Nat) : Nat → Nat → Nat → Nat
  | 0, _, _ => 0
  | n + 1, k, pw => pw / (2 * k + 1) + atanhFrom zz n (k + 1) (pw * zz / one)

/-- atanh(a/2^320) for a/2^320 at most 1/3. -/
def atanh (a : Nat) : Nat := atanhFrom (a * a / one) 112 0 a

/-- ln 2 = 2·atanh(1/3). -/
def ln2 : Nat := 2 * atanh (one / 3)

/-- Σ f^k/k!, from term `k` on, `t` being f^k/k!. -/
def expFrom (f : Nat) : Nat → Nat → Nat → Nat
  | 0, _, _ => 0
  | n + 1, k, t => t + expFrom f n (k + 1) (t * f / one / (k + 1))

/-- e^(f/2^320) for f/2^320 in [0, 1). -/
def exp01 (f : Nat) : Nat := expFrom f 90 0 one

/-- e^(y/2^320) for y ≥ 0, scaled by 2^320. -/
def exp (y : Nat) : Nat := exp01 (y % ln2) * 2 ^ (y / ln2)

/-- The value n × 2^e, known within `slack` units of n, rounded to FP32. -/
def deliver (free : Nat) (neg : Bool) (n : Nat) (e : Int) : Nat × Word :=
  let lo := Fmt.f32.round .rne neg (n - slack) e
  let hi := Fmt.f32.round .rne neg (n + slack) e
  if lo = hi then lo else ((Config.freeF32 free).toNat, St.nx)

/-- |x| in fixed point for a finite x (exact: the least exponent of FP32 is −149). -/
def fixed (m : Nat) (e : Int) : Nat := m * 2 ^ (e + 320).toNat

/-- 1/√(m × 2^e) with a last bit that says whether anything is left. -/
def rsqSticky (m : Nat) (e : Int) : Nat × Int :=
  let m' := if e % 2 = 0 then m else 2 * m
  let e' := if e % 2 = 0 then e else e - 1
  let r := isqrt (2 ^ 320 / m')
  (2 * r + (if r * r * m' = 2 ^ 320 then 0 else 1), -160 - e' / 2 - 1)

/-- log2(m × 2^e) in fixed point, signed. -/
def log2 (m : Nat) (e : Int) : Int :=
  let j : Int := m.log2 + e
  let u := 2 ^ m.log2
  j * (one : Int) + ((2 * atanh ((m - u) * one / (m + u)) * one / ln2 : Nat) : Int)

end Spf

/-- The special functions. -/
inductive SpFn where
  | rcp | rsq | exp2 | log2 | tanh | sigm
  deriving DecidableEq, Repr

/-- The integer that a finite value is, if it is one. -/
def Fv.asInt : Fv → Option Int
  | .fin s m e =>
    let sg (x : Nat) : Int := if s then -(x : Int) else x
    if e ≥ 0 then some (sg (m * 2 ^ e.toNat))
    else if m % 2 ^ (-e).toNat = 0 then some (sg (m / 2 ^ (-e).toNat)) else none
  | _ => none

/-- A special function of a finite non-zero x (R172, Table 6.5). -/
def SpFn.finite (fn : SpFn) (free : Nat) (s : Bool) (m : Nat) (e : Int) : Nat × Word :=
  let f := Fmt.f32
  let x := Spf.fixed m e
  let one := 0x3F800000
  match fn with
  | .rcp => f.fdiv one (f.deliver .rne (.fin s m e)).1
  | .rsq =>
    if s then (f.canon, St.nv)
    else let (r, re) := Spf.rsqSticky m e; f.round .rne false r re
  | .exp2 =>
    if !s ∧ x ≥ 128 * Spf.one then (f.infBits false, St.of ||| St.nx)
    else if s ∧ x ≥ 150 * Spf.one then (0, St.uf ||| St.nx)
    else
      let y : Int := if s then -(x : Int) else x
      let k := y / (Spf.one : Int)
      let fr := (y % (Spf.one : Int)).toNat
      if fr = 0 then f.round .rne false 1 k
      else Spf.deliver free false (Spf.exp01 (fr * Spf.ln2 / Spf.one)) (k - 320)
  | .log2 =>
    if s then (f.canon, St.nv)
    else if m = 2 ^ m.log2 then f.deliver .rne (.ofInt (m.log2 + e))
    else
      let v := Spf.log2 m e
      Spf.deliver free (decide (v < 0)) v.natAbs (-320)
  | .tanh =>
    if x ≥ 10 * Spf.one then (one + f.signBit s, St.nx)
    else if x < 2 ^ 280 then f.round .rne s (m * 2 ^ 40 - 1) (e - 40)
    else
      let n := Spf.exp (2 * x)
      Spf.deliver free s ((n - Spf.one) * Spf.one / (n + Spf.one)) (-320)
  | .sigm =>
    if !s ∧ x ≥ 18 * Spf.one then (one, St.nx)
    else if s ∧ x ≥ 104 * Spf.one then (0, St.uf ||| St.nx)
    else
      let n := Spf.exp x
      Spf.deliver free false
        ((if s then Spf.one else n) * Spf.one / (n + Spf.one)) (-320)

/-- A special function of an FP32 encoding (R172, Table 6.5). [DESIGN CHOICE, safe: log 22] -/
def SpFn.eval (fn : SpFn) (free a : Nat) : Nat × Word :=
  let f := Fmt.f32
  let one := 0x3F800000
  match f.decode a with
  | .nan sig => (f.canon, St.when sig St.nv)
  | .inf s =>
    match fn with
    | .rcp => (f.signBit s, 0)
    | .rsq => if s then (f.canon, St.nv) else (0, 0)
    | .exp2 => if s then (0, 0) else (f.infBits false, 0)
    | .log2 => if s then (f.canon, St.nv) else (f.infBits false, 0)
    | .tanh => (one + f.signBit s, 0)
    | .sigm => if s then (0, 0) else (one, 0)
  | .fin s m e =>
    if m = 0 then
      match fn with
      | .rcp | .rsq => (f.infBits s, St.dz)
      | .exp2 => (one, 0)
      | .log2 => (f.infBits true, St.dz)
      | .tanh => (f.signBit s, 0)
      | .sigm => (0x3F000000, 0)
    else fn.finite free s m e

end Sys2Proof
end

