-- ==== Sys2Proof/Machine/Vec.lean ====
section
/-! DEFINITION. Machine/Vec.lean: what the V-slot operations compute on vectors given as natural numbers
(spec/06_vector_lanes.md R158 to R185). `act` is the lane mask, one bit per byte (R90); `w` the width in
bits; `k` an element size in bits. Reading operands and landing results are in Operands.lean and
Vector.lean. -/

namespace Sys2Proof

/-- What a V operation delivers below its width: the results of active elements with zero elsewhere (what
a latch takes, R159), the bits written, and the status raised. -/
structure VOut where
  val : Nat
  mask : Nat
  st : Word
  deriving DecidableEq, Repr

namespace Vec

/-- Whether element `i` of `k` bits is active: the mask bit of its lowest byte (R158). -/
def active (k act i : Nat) : Bool := bitN act (k / 8 * i)

/-- The bits of the active elements below width `w`. -/
def activeBits (k w act : Nat) : Nat :=
  packN k (tabulate (w / k) fun i => if active k act i then onesN k else 0)

/-- An element-by-element operation on the active elements (R159). -/
def ewise (k w act : Nat) (f : Nat → Nat × Word) : VOut :=
  let r := tabulate (w / k) fun i => if active k act i then f i else (0, 0)
  ⟨packN k (r.map (·.1)), activeBits k w act, r.foldl (fun a p => a ||| p.2) 0⟩

/-- A binary element operation. -/
def map2 (k w act a b : Nat) (f : Nat → Nat → Nat × Word) : VOut :=
  ewise k w act fun i => f (eltN k a i) (eltN k b i)
/-- A unary element operation. -/
def map1 (k w act a : Nat) (f : Nat → Nat × Word) : VOut := ewise k w act fun i => f (eltN k a i)

/-! ## Integer elements (Table 6.4) -/

def add (k x y : Nat) : Nat := wrapN k ((x : Int) + y)
def sub (k x y : Nat) : Nat := wrapN k ((x : Int) - y)
/-- sat to the signed range of k bits. -/
def satS (k : Nat) (v : Int) : Nat :=
  wrapN k (satI v (-((2 ^ (k - 1) : Nat) : Int)) ((2 ^ (k - 1) : Nat) - 1 : Int))
def adds (k x y : Nat) : Nat := satS k (sextN k x + sextN k y)
def subs (k x y : Nat) : Nat := satS k (sextN k x - sextN k y)
def mul (k x y : Nat) : Nat := x * y % 2 ^ k
def mulh (k x y : Nat) : Nat := wrapN k (sextN k x * sextN k y / ((2 ^ k : Nat) : Int))
def min (k x y : Nat) : Nat := if sextN k x ≤ sextN k y then x else y
def max (k x y : Nat) : Nat := if sextN k x ≤ sextN k y then y else x
def minn (x y : Nat) : Nat := if x ≤ y then x else y
def maxn (x y : Nat) : Nat := if x ≤ y then y else x
def shl (k x amt : Nat) : Nat := if amt < k then x * 2 ^ amt % 2 ^ k else 0
def shr (k x amt : Nat) : Nat := if amt < k then x / 2 ^ amt else 0
def asr (k x amt : Nat) : Nat :=
  wrapN k (sextN k x / ((2 ^ (if amt < k - 1 then amt else k - 1) : Nat) : Int))

/-! ## Compares to masks (R168, R171) -/

/-- The new mask bits below w/8 and the status of a compare. -/
def cmp (k w act a b : Nat) (f : Nat → Nat → Bool × Word) : Nat × Word :=
  let r := tabulate (w / k) fun i =>
    if active k act i then f (eltN k a i) (eltN k b i) else (false, 0)
  (packN (k / 8) (r.map fun p => if p.1 then onesN (k / 8) else 0), r.foldl (fun a p => a ||| p.2) 0)

/-! ## Selection and permutation (R167, R173, R174) -/

def sel (w act a b m : Nat) : VOut :=
  ewise 8 w act fun i => (if bitN m i then eltN 8 a i else eltN 8 b i, 0)

def perm (k w act a b : Nat) : VOut :=
  ewise k w act fun i => (eltN k a (eltN k b i % (w / k)), 0)

def rot (k w act a s : Nat) : VOut :=
  ewise k w act fun i => (eltN k a ((i + s) % (w / k)), 0)

/-- Table 6.6. -/
def shufElt (k w pat a b i : Nat) : Nat :=
  let h := w / k / 2
  match pat with
  | 0 => if i % 2 = 0 then eltN k a (i / 2) else eltN k b (i / 2)
  | 1 => if i % 2 = 0 then eltN k a (h + i / 2) else eltN k b (h + i / 2)
  | 2 => if i < h then eltN k a (2 * i) else eltN k b (2 * (i - h))
  | _ => if i < h then eltN k a (2 * i + 1) else eltN k b (2 * (i - h) + 1)

def shuf (k w act pat a b : Nat) : VOut := ewise k w act fun i => (shufElt k w pat a b i, 0)

/-! ## Reductions and scans (R175 to R177) -/

/-- The node operation of a reduction. -/
inductive RedOp where
  | sum | max | min
  deriving DecidableEq, Repr

/-- One node. -/
def node (op : RedOp) (f32 : Bool) (x y : Nat) : Nat × Word :=
  match op, f32 with
  | .sum, true => Fmt.f32.fadd x y
  | .max, true => Fmt.f32.minMax true x y
  | .min, true => Fmt.f32.minMax false x y
  | .sum, false => (add 32 x y, 0)
  | .max, false => (max 32 x y, 0)
  | .min, false => (min 32 x y, 0)

/-- What an inactive element contributes (R176). -/
def identity (op : RedOp) (f32 : Bool) : Nat :=
  match op, f32 with
  | .sum, true => 0x80000000
  | .sum, false => 0
  | _, true => 0x7FC00000
  | .max, false => 0x80000000
  | .min, false => 0x7FFFFFFF

/-- The y[i] of R176. -/
def inputs (op : RedOp) (f32 : Bool) (w act a : Nat) : List Nat :=
  tabulate (w / 32) fun i => if active 32 act i then eltN 32 a i else identity op f32

/-- Inclusive prefixes along a line: the values after each element, and the status. -/
def scanLine (g : Nat → Nat → Nat × Word) : Nat → List Nat → List Nat × Word
  | _, [] => ([], 0)
  | t, y :: l =>
    let (x, st) := g t y
    let (r, st') := scanLine g x l
    (x :: r, st ||| st')

/-- One level of a balanced tree. -/
def pairs (g : Nat → Nat → Nat × Word) : List Nat → List Nat × Word
  | a :: b :: l =>
    let (x, st) := g a b
    let (r, st') := pairs g l
    (x :: r, st ||| st')
  | l => (l, 0)

/-- A balanced tree of at most `fuel` levels. -/
def tree (g : Nat → Nat → Nat × Word) : Nat → List Nat → Nat × Word
  | 0, l => (l.headD 0, 0)
  | n + 1, l =>
    if l.length ≤ 1 then (l.headD 0, 0)
    else
      let (l', st) := pairs g l
      let (r, st') := tree g n l'
      (r, st ||| st')

/-- One step of the balanced scan: element i takes z[i−d] + z[i] (R177). -/
def scanStep (g : Nat → Nat → Nat × Word) (d : Nat) (z : List Nat) : List Nat × Word :=
  let r := (List.range z.length).map fun i =>
    if i < d then (nth0 z i, (0 : Word)) else g (nth0 z (i - d)) (nth0 z i)
  (r.map (·.1), r.foldl (fun a p => a ||| p.2) 0)

/-- The balanced scan over `fuel` doublings of the distance. -/
def scanTree (g : Nat → Nat → Nat × Word) : Nat → Nat → List Nat → List Nat × Word
  | 0, _, z => (z, 0)
  | n + 1, d, z =>
    if d < z.length then
      let (z', st) := scanStep g d z
      let (r, st') := scanTree g n (2 * d) z'
      (r, st ||| st')
    else (z, 0)

/-- A reduction; `balanced` is the tree of the bundle's profile (R175). Element 0 takes the result and
every other bit below `w` is zero, whatever the mask. -/
def reduce (op : RedOp) (f32 balanced : Bool) (w act a : Nat) : VOut :=
  let g := node op f32
  let y := inputs op f32 w act a
  let (t, st) :=
    if balanced && op = .sum then tree g 6 y
    else
      let (l, st) := scanLine g (y.headD 0) y.tail
      (l.getLast?.getD (y.headD 0), st)
  ⟨t, onesN w, st⟩

/-- VSCAN. -/
def scan (f32 balanced : Bool) (w act a : Nat) : VOut :=
  let g := node .sum f32
  let y := inputs .sum f32 w act a
  let (z, st) :=
    if balanced then scanTree g 6 1 y
    else
      let (l, st) := scanLine g (y.headD 0) y.tail
      (y.headD 0 :: l, st)
  let r := ewise 32 w act fun i => (nth0 z i, 0)
  ⟨r.val, r.mask, st⟩

/-! ## Conversions (R178) -/

/-- An end of a VCVT conversion. -/
inductive Ty where
  | fp (f : Fmt) | int (bits : Nat)
  deriving DecidableEq, Repr

def Ty.bits : Ty → Nat
  | .fp f => f.bits
  | .int n => n

def Ty.read (t : Ty) (x : Nat) : Fv :=
  match t with
  | .fp f => f.decode x
  | .int n => .ofInt (sextN n x)

def Ty.write (t : Ty) (rm : Rm) (v : Fv) : Nat × Word :=
  match t with
  | .fp f => f.deliver rm v
  | .int n =>
    let (x, st) := v.toInt rm (-((2 ^ (n - 1) : Nat) : Int)) ((2 ^ (n - 1) : Nat) - 1 : Int)
    (wrapN n x, st)

/-- How a conversion code rounds. -/
inductive CvtMode where
  | rne | rtz | sr
  deriving DecidableEq, Repr

/-- Table 6.7: source, destination, rounding. -/
def cvtOf (code : Nat) : Ty × Ty × CvtMode :=
  let f32 := Ty.fp .f32
  match code with
  | 0 => (f32, .fp .f16, .rne) | 1 => (f32, .fp .bf16, .rne) | 2 => (f32, .fp .e4m3f, .rne)
  | 3 => (f32, .fp .e5m2f, .rne) | 4 => (f32, .int 8, .rne) | 5 => (f32, .int 32, .rtz)
  | 6 => (f32, .int 32, .rne) | 7 => (.int 32, f32, .rne) | 8 => (.fp .f16, f32, .rne)
  | 9 => (.fp .bf16, f32, .rne) | 10 => (.fp .e4m3f, f32, .rne) | 11 => (.fp .e5m2f, f32, .rne)
  | 12 => (.int 8, f32, .rne) | 13 => (f32, .fp .bf16, .sr) | 14 => (f32, .fp .f16, .sr)
  | 15 => (f32, .fp .e4m3f, .sr) | 16 => (f32, .fp .e5m2f, .sr) | 17 => (f32, .int 8, .sr)
  | 18 => (.fp .bf16, .fp .e4m3f, .rne) | 19 => (.fp .bf16, .fp .e5m2f, .rne)
  | 20 => (.fp .e4m3f, .fp .bf16, .rne) | 21 => (.fp .e5m2f, .fp .bf16, .rne)
  | 22 => (.fp .bf16, .fp .e4m3f, .sr) | _ => (.fp .bf16, .fp .e5m2f, .sr)

/-- Whether a conversion code draws a random word (R152, Table 6.7). -/
def cvtDraws (code : Nat) : Bool := (cvtOf code).2.2 = .sr

/-- The shift, in elements, of the narrower side: element i of the conversion is its element pN + i. -/
def cvt (code p w act a : Nat) (word : Word) : VOut :=
  let (src, dst, mode) := cvtOf code
  let ss := src.bits
  let ds := dst.bits
  let wide := if ss < ds then ds else ss
  let n := w / wide
  let si := if ss < ds then p * n else 0
  let di := if ds < ss then p * n else 0
  let rm (i : Nat) : Rm :=
    match mode with | .rne => .rne | .rtz => .rtz | .sr => .sr (rndOf word i)
  let r := tabulate n fun i =>
    if active wide act i then dst.write (rm i) (src.read (eltN ss a (si + i))) else (0, 0)
  let on := tabulate n fun i => if active wide act i then onesN ds else 0
  ⟨packN ds (r.map (·.1)) * 2 ^ (ds * di), packN ds on * 2 ^ (ds * di),
   r.foldl (fun a p => a ||| p.2) 0⟩

/-! ## Block quantisation (R179, R180) -/

/-- The format of a VQNT or VDQ type code. -/
def blkSrc (ty : Nat) : Fmt :=
  match ty with | 0 => .f32 | 1 => .bf16 | _ => .f16

/-- Magnitude bits of a block type. -/
def blkMag : BlkTy → Nat
  | .sx2 => 1 | .sx4 => 3 | .sx8 => 7

/-- Whether B blocks from K0 fit the e register and the plane (R179, R180): the width-dependent ILLEGAL.
[DEDUCED, unsafe: log 111] -/
def blkFits (t : BlkTy) (ty w k0 : Nat) : Bool :=
  let b := w / (blkSrc ty).bits / 16
  b ≥ 1 && k0 + b ≤ 8 && 16 * (blkMag t + 1) * (k0 + b) ≤ w

/-- VQNT: the plane (value and bits written), the scale words (value and bits written), and the status. -/
def qnt (t : BlkTy) (ty w k0 act a : Nat) (sr : Bool) (word : Word) : VOut × Nat × Nat :=
  let f := blkSrc ty
  let m := blkMag t
  let n := m + 1
  let r := tabulate (w / f.bits / 16) fun k =>
    if bitN act (16 * k * f.bits / 8) then
      let q := quantBlock m (if sr then .qsr word (16 * k) else .qrn word (16 * k))
        (tabulate 16 fun i => f.decode (eltN f.bits a (16 * k + i)))
      (packN n q.2.1, onesN (16 * n), q.1, 0xFFFF, q.2.2)
    else (0, 0, 0, 0, (0 : Word))
  let up := 2 ^ (16 * n * k0)
  let ue := 2 ^ (16 * k0)
  (⟨packN (16 * n) (r.map (·.1)) * up, packN (16 * n) (r.map (·.2.1)) * up,
    r.foldl (fun a p => a ||| p.2.2.2.2) 0⟩,
   packN 16 (r.map (·.2.2.1)) * ue, packN 16 (r.map (·.2.2.2.1)) * ue)

/-- VDQ: the value of each active element (R148). -/
def dq (t : BlkTy) (ty w k0 act a e : Nat) : VOut :=
  let f := blkSrc ty
  let m := blkMag t
  ewise f.bits w act fun i =>
    let k := k0 + i / 16
    let v := blockElem m (eltN 16 e k) (eltN (m + 1) a (16 * k + i % 16)) (i % 16)
    if v.isNan then (f.canon, 0) else f.deliver .rne v

/-! ## Moves (R183 to R185) -/

def bcast (k w act x : Nat) : VOut := ewise k w act fun _ => (x % 2 ^ k, 0)

/-- VINS: one element; the rest is left alone. -/
def ins (k w x i : Nat) : VOut :=
  let j := i % (w / k)
  ⟨x % 2 ^ k * 2 ^ (k * j), onesN k * 2 ^ (k * j), 0⟩

/-- VEXT: one element to a 64-bit register. -/
def ext (k w a i : Nat) (sgn : Bool) : Word :=
  let x := eltN k a (i % (w / k))
  if sgn then BitVec.ofInt 64 (sextN k x) else BitVec.ofNat 64 x

def expand (w act m : Nat) : VOut := ewise 8 w act fun i => (if bitN m i then 0xFF else 0, 0)

/-- VMOV pack: the mask bits below w/8 that are written, and their values. -/
def pack (w act a : Nat) : Nat × Nat :=
  (packN 1 (tabulate (w / 8) fun i => if bitN act i && bitN a (8 * i + 7) then 1 else 0),
   act % 2 ^ (w / 8))

def iota (k w act m : Nat) : VOut :=
  ewise k w act fun i =>
    (((List.range i).filter fun j => bitN m (k / 8 * j)).length % 2 ^ k, 0)

/-- VANY and VALL (R90). -/
def any (w act m : Nat) : Bool := (m &&& act) % 2 ^ (w / 8) ≠ 0
def all (w act m : Nat) : Bool :=
  tabulate (w / 8) (fun i => bitN m i || !bitN act i) |>.all id

end Vec
end Sys2Proof
end

