-- ==== Sys2Proof/Machine/Operands.lean ====
section
/-! DEFINITION. Machine/Operands.lean: what a slot of the bundle in issue reads, and the faults it raises:
fault records (spec/09 R275, Table 9.5), special values and latches (spec/02 R50 to R58), registers, lane
masks (spec/03 R90), predication (spec/09 R258, R259). -/

namespace Sys2Proof.Machine

/-- A value, or the fault that the acting slot raises. -/
abbrev Res (α : Type) := Except FaultRec α

/-! ## Fault records -/

/-- Bits of a slot's field in a bundle (Table 2.1); slot 0 is the header. -/
def slotField (w : BitVec 256) (slot : Nat) : Nat :=
  match slot with
  | 0 => (w.extractLsb' 224 32).toNat
  | 1 => (w.extractLsb' 184 40).toNat
  | 2 => (w.extractLsb' 148 36).toNat
  | 3 => (w.extractLsb' 112 36).toNat
  | 4 => (w.extractLsb' 88 24).toNat
  | 5 => (w.extractLsb' 68 20).toNat
  | 6 => (w.extractLsb' 48 20).toNat
  | 7 => (w.extractLsb' 32 16).toNat
  | 8 => (w.extractLsb' 0 32).toNat
  | _ => 0

/-- The PC of the bundle in issue. -/
def State.pc (s : State) : Word := s.here.a.pc

/-- A record of the acting slot. -/
def State.faultRec (s : State) (cls detail : Nat) (r2 r3 : Word) : FaultRec :=
  ⟨cls, s.cur.slot, detail, s.pc, r2, r3⟩

def State.illegal (s : State) (detail : Nat) : FaultRec :=
  s.faultRec 0x01 detail (BitVec.ofNat 64 (slotField s.cur.bits s.cur.slot)) 0

def State.stackFault (s : State) (detail : Nat) (v lim : Word) : FaultRec := s.faultRec 0x02 detail v lim

/-- LEASE of a memory access (Table 9.5). -/
def State.leaseFault (s : State) (va n : Nat) (write : Bool) : FaultRec :=
  s.faultRec 0x03 0 (BitVec.ofNat 64 va) (BitVec.ofNat 64 (n % 2 ^ 32 + write.toNat * 2 ^ 32))

def State.alignFault (s : State) (va : Nat) (n : Nat) : FaultRec :=
  s.faultRec 0x07 0 (BitVec.ofNat 64 va) (BitVec.ofNat 64 n)

/-- `illegal` when the condition fails. -/
def State.require (s : State) (ok : Bool) (detail : Nat) : Res Unit :=
  if ok then .ok () else .error (s.illegal detail)

/-! ## Special values (Table 2.7) -/

/-- A special as a 64-bit scalar; `one` is what selector 49 reads as. [DEDUCED, unsafe: log 89] -/
def State.special (s : State) (one : Word) : Special → Word
  | .zero => 0
  | .one => one
  | .ones => BitVec.allOnes 64
  | .lane => 0
  | .member => BitVec.ofNat 64 s.here.task.member
  | .ctxid => BitVec.ofNat 64 (s.cur.ctx % 2)
  | .core => BitVec.ofNat 64 (coreOf s.cur.ctx)
  | .die => BitVec.ofNat 64 (dieOf s.cur.ctx)
  | .pc => s.pc
  | .ticket => BitVec.ofNat 64 s.here.task.ticket
  | .region => BitVec.ofNat 64 s.here.task.region
  | .dx => BitVec.ofNat 64 (s.here.task.member % s.here.task.w)
  | .dy => BitVec.ofNat 64 (s.here.task.member / s.here.task.w)

/-! ## Latches (R56 to R58) -/

/-- The number of a latch: its selector code less 32. -/
def latchNo (u : BitVec 2) (k : Bool) : Nat := 2 * u.toNat + k.toNat

/-- A latch as the bundle in issue sees it: a checkpoint bundle finds all of them empty (Table 2.8). -/
def State.latch (s : State) (u : BitVec 2) (k : Bool) : Option LatchVal :=
  if s.cur.ckpt then none else Tab.get none s.here.a.latches (latchNo u k)

/-! ## Sources -/

def State.reg (s : State) (n : Nat) : Word := Tab.get 0 s.here.a.s n
def State.vreg (s : State) (n : Nat) : Nat := (Tab.get 0 s.here.a.v n).toNat
def State.mreg (s : State) (n : Nat) : BitVec 128 := Tab.get 0 s.here.a.m n
def State.ereg (s : State) (n : Nat) : BitVec 128 := Tab.get 0 s.here.a.e n
def State.nreg (s : State) (n : Nat) : BitVec 512 := Tab.get 0 s.here.a.n n
def State.greg (s : State) (n : Nat) : Word := Tab.get 0 s.here.a.g n
def State.ireg (s : State) (n : Nat) : BitVec 32 := Tab.get 0 s.here.a.i n
def State.breg (s : State) (n : Nat) : Word := Tab.get 0 s.here.a.b n
def State.cflag (s : State) (n : Nat) : Bool := Tab.get false s.here.a.c n

/-- A selector of the s class (S and X slots, and s operands of V slots). -/
def State.srcS (s : State) (x : Src) (one : Word := 1) : Res Word :=
  match x with
  | .reg n => .ok (s.reg n.toNat)
  | .latch u k =>
    if u = 1 ∨ u = 2 then .error (s.illegal 0x0D)
    else match s.latch u k with
      | some l => .ok (l.val.setWidth 64)
      | none => .error (s.illegal 0x0E)
  | .special p => .ok (s.special one p)
  | .bad _ => .error (s.illegal 0x08)

/-- A scalar given to every element of `k` bits below width `w` (R51). -/
def broadcast (k w : Nat) (x : Word) : Nat := packN k (List.replicate (w / k) (x.toNat % 2 ^ k))

/-- A selector of class v at width `w` with elements of `k` bits (Table 6.1). -/
def State.srcV (s : State) (x : Src) (w k : Nat) (one : Word := 1) : Res Nat :=
  match x with
  | .reg n => .ok (s.vreg n.toNat % 2 ^ w)
  | .latch u j =>
    match s.latch u j with
    | none => .error (s.illegal 0x0E)
    | some l =>
      if u = 1 ∨ u = 2 then
        if l.width < w then .error (s.illegal 0x0F) else .ok (l.val.toNat % 2 ^ w)
      else .ok (broadcast k w (l.val.setWidth 64))
  | .special .lane => .ok (packN k (tabulate (w / k) fun i => i % 2 ^ k))
  | .special p => .ok (broadcast k w (s.special one p))
  | .bad _ => .error (s.illegal 0x08)

/-- The lane mask (R90): field 0 is every lane. -/
def State.act (s : State) (mask : BitVec 4) : Nat :=
  if mask = 0 then onesN 128 else (s.mreg mask.toNat).toNat

/-- 1.0 in FP32 (selector 49 in the FP operations). -/
def oneF32 : Word := 0x3F800000

/-- 1.0 in an FP element type. -/
def fpOne : FpTy → Word
  | .f32 => 0x3F800000
  | .f16 => 0x3C00
  | .bf16 => 0x3F80

/-! ## Predication (R258, R259) -/

/-- Whether an instruction is never nullified (R259). -/
def neverNull : Instr → Bool
  | .trn .. | .call .. | .loop .. | .lend | .exit => true
  | _ => false

/-- Whether the predicate map nullifies slot `slot` of the bundle in issue. -/
def State.slotNull (s : State) (slot : Nat) : Bool :=
  let nib := eltN 4 s.here.task.pred.toNat (slot - 1)
  decide (1 ≤ slot ∧ slot ≤ 8) && bitN nib 3 && !s.cflag (nib % 8)

/-- Whether an instruction in a slot of the bundle in issue is nullified. -/
def State.nullified (s : State) (slot : Nat) (i : Instr) : Bool := s.slotNull slot && !neverNull i

end Sys2Proof.Machine
end

