-- ==== Sys2Proof/Machine/Regs.lean ====
section
/-! DEFINITION. Machine/Regs.lean: which registers an instruction reads and writes, for the scoreboard and
the interlocks (spec/03 R84), destination conflicts (spec/02 R53, R54), random words (spec/05 R152) and
commit-buffer entries (spec/09 R284). -/

namespace Sys2Proof.Machine

/-- Register classes of Table 3.1 and R158; ASC and BSC are e registers 8 and 9 here. -/
inductive RegCls where
  | s | c | b | i | g | n | v | m | e
  deriving DecidableEq, Repr

/-- A register. -/
abbrev RegId := RegCls × Nat

def srcRegs (k : RegCls) : Src → List RegId
  | .reg n => [(k, n.toNat)]
  | _ => []

def dstRegs (k : RegCls) : Dst → List RegId
  | .reg n => [(k, n.toNat)]
  | _ => []

def maskReg (mask : BitVec 4) : List RegId := if mask = 0 then [] else [(.m, mask.toNat)]

/-- Whether XA's fields say update form (R363): plain with SCOPE 001. -/
def isUpdateForm (o : XaOps) : Bool := o.ord = .plain && o.scope = .core

/-- The nest record of an operand code of the M slot. -/
def codeReg (k : BitVec 4) : List RegId := if k.toNat < 8 then [(.n, k.toNat)] else []

/-! ## Reads -/

/-- Registers of classes s, v, m and n that an instruction reads. -/
def readsOf : Instr → List RegId
  | .add _ a b | .sub _ a b | .and _ a b | .or _ a b | .xor _ a b | .shl _ a b | .shr _ a b | .asr _ a b
  | .mul _ a b | .mulh _ a b | .mulhN64 _ a b | .min _ a b | .max _ a b | .cmpeq _ a b | .cmpne _ a b
  | .cmplt _ a b | .cmple _ a b | .cmpltn _ a b | .sel _ a b _ | .fadd _ a b | .fsub _ a b | .fmul _ a b
  | .fdiv _ a b | .fcmpeq _ a b | .fcmplt _ a b | .fcmple _ a b | .ld _ a b _ | .spld _ a b _
  | .lea _ a b _ | .tkt _ a b | .mwait _ a b | .mwaitNe _ a b | .qpush a b | .aaddU a b | .aminU a b
  | .amaxU a b | .aminnU a b | .amaxnU a b | .aandU a b | .aorU a b | .axorU a b | .afaddU a b
  | .aadd _ a b _ | .amin _ a b _ | .amax _ a b _ | .aminn _ a b _ | .amaxn _ a b _ | .aand _ a b _
  | .aor _ a b _ | .axor _ a b _ | .axchg _ a b _ | .afadd _ a b _ | .oclose _ a b _ =>
    srcRegs .s a ++ srcRegs .s b
  | .fma d a b | .acas d a b _ => dstRegs .s d ++ srcRegs .s a ++ srcRegs .s b
  | .st x a b _ | .spst x a b _ | .oadd x a b _ | .ofadd x a b _ | .qpushT x a b | .invl x a b =>
    srcRegs .s x ++ srcRegs .s a ++ srcRegs .s b
  | .fsqrt _ a | .fcvt _ a _ | .movg _ a | .upc a | .addi _ a _ | .andi _ a _ | .ori _ a _ | .shli _ a _
  | .shri _ a _ | .asri _ a _ | .movhi _ a _ _ | .cmpeqi _ a _ | .cmplti _ a _ | .ldi _ a _ | .spldi _ a _
  | .cwr a _ | .pbr _ a _ | .call a _ | .loop _ a _ | .leai _ a _ | .esld _ a _ | .nld _ a _
  | .oopen _ a _ | .spawn _ _ a | .invlAll a | .probe _ a | .dld a _ _ => srcRegs .s a
  | .sti x a _ | .spsti x a _ => srcRegs .s x ++ srcRegs .s a
  | .nst n a _ => (.n, n.toNat) :: srcRegs .s a
  | .agen _ a _ => [(.n, a.toNat)]
  | .vadd _ _ a b m | .vsub _ _ a b m | .vadds _ _ a b m | .vsubs _ _ a b m | .vmin _ _ a b m
  | .vmax _ _ a b m | .vminn _ _ a b m | .vmaxn _ _ a b m | .vshl _ _ a b m | .vshr _ _ a b m
  | .vasr _ _ a b m | .vcmpeq _ _ a b m | .vcmplt _ _ a b m | .vcmpltn _ _ a b m =>
    srcRegs .v a ++ srcRegs .v b ++ maskReg m
  | .vmul _ _ a b m | .vmulh _ _ a b m => srcRegs .v a ++ srcRegs .v b ++ maskReg m
  | .vfadd _ _ a b m | .vfsub _ _ a b m | .vfmul _ _ a b m | .vfmin _ _ a b m | .vfmax _ _ a b m
  | .vfcmpeq _ _ a b m | .vfcmplt _ _ a b m | .vfcmple _ _ a b m =>
    srcRegs .v a ++ srcRegs .v b ++ maskReg m
  | .vand _ a b m | .vor _ a b m | .vxor _ a b m => srcRegs .v a ++ srcRegs .v b ++ maskReg m
  | .vperm _ a b _ m => srcRegs .v a ++ srcRegs .v b ++ maskReg m
  | .vshuf _ a b _ _ m => srcRegs .v a ++ srcRegs .v b ++ maskReg m
  | .vsel _ a b c m => srcRegs .v a ++ srcRegs .v b ++ [(.m, c.toNat)] ++ maskReg m
  | .vfma _ _ a b c m => srcRegs .v a ++ srcRegs .v b ++ srcRegs .v c ++ maskReg m
  | .vnot _ a m | .vfrcp _ a m | .vfrsq _ a m | .vfexp2 _ a m | .vflog2 _ a m | .vftanh _ a m
  | .vfsigm _ a m | .vmov _ a m => srcRegs .v a ++ maskReg m
  | .vrdsum _ _ a m | .vrdmax _ _ a m | .vrdmin _ _ a m | .vscan _ _ a m => srcRegs .v a ++ maskReg m
  | .vrot _ a b _ m => srcRegs .v a ++ srcRegs .s b ++ maskReg m
  | .vbcast _ a _ m => srcRegs .s a ++ maskReg m
  | .vcvt _ a _ _ m => srcRegs .v a ++ maskReg m
  | .vqnt _ _ a _ _ _ _ m => srcRegs .v a ++ maskReg m
  | .vdq _ _ a e _ _ m => srcRegs .v a ++ [(.e, e.toNat)] ++ maskReg m
  | .vspld _ a b _ m | .vld _ a b _ m => srcRegs .s a ++ srcRegs .s b ++ maskReg m
  | .vspst x a b _ m | .vst x a b _ m => srcRegs .v x ++ srcRegs .s a ++ srcRegs .s b ++ maskReg m
  | .vins _ a b _ => srcRegs .s a ++ srcRegs .s b
  | .vext _ a b _ _ => srcRegs .v a ++ srcRegs .s b
  | .vany _ a m | .vall _ a m => (.m, a.toNat) :: maskReg m
  | .vmovExpand _ a m => (.m, a.toNat) :: maskReg m
  | .vmovPack _ a m => srcRegs .v a ++ maskReg m
  | .viota _ a _ m => (.m, a.toNat) :: maskReg m
  | .macc _ _ _ an bn | .mset _ _ _ an bn | .mpush an bn => codeReg an ++ codeReg bn
  | .mshift _ _ _ _ bn => codeReg bn
  | .mdrain _ _ _ n _ | .mdrainq _ _ _ n _ | .mload _ n _ => [(.n, n.toNat)]
  | .cpy o | .cpyt o | .cmcast o | .cgath o | .cfill o | .cpref o | .put o | .get o =>
    [(.n, o.nest.toNat)]
  | _ => []

/-! ## Writes -/

/-- The registers and flags that an instruction names as destinations with write-back enabled (R53). -/
def destsOf : Instr → List RegId
  | .pand m d _ _ | .por m d _ _ | .pxor m d _ _ | .pandn m d _ _ | .pnot m d _ =>
    [(if m then .m else .c, d.toNat)]
  | .add d _ _ | .sub d _ _ | .and d _ _ | .or d _ _ | .xor d _ _ | .shl d _ _ | .shr d _ _ | .asr d _ _
  | .mul d _ _ | .mulh d _ _ | .mulhN64 d _ _ | .min d _ _ | .max d _ _ | .fadd d _ _ | .fsub d _ _
  | .fmul d _ _ | .fma d _ _ | .fdiv d _ _ | .tkt d _ _ | .mwait d _ _ | .mwaitNe d _ _ => dstRegs .s d
  | .sel d _ _ _ | .ld d _ _ _ | .spld d _ _ _ | .lea d _ _ _ => dstRegs .s d
  | .aadd d _ _ _ | .amin d _ _ _ | .amax d _ _ _ | .aminn d _ _ _ | .amaxn d _ _ _ | .aand d _ _ _
  | .aor d _ _ _ | .axor d _ _ _ | .axchg d _ _ _ | .acas d _ _ _ | .afadd d _ _ _ | .oclose d _ _ _ =>
    dstRegs .s d
  | .oopen d _ _ => dstRegs .s d
  | .fsqrt d _ | .probe d _ => dstRegs .s d
  | .fcvt d _ _ => dstRegs .s d
  | .pkc d | .rbpop d => dstRegs .s d
  | .addi d _ _ | .andi d _ _ | .ori d _ _ | .ldi d _ _ | .spldi d _ _ => dstRegs .s d
  | .shli d _ _ | .shri d _ _ | .asri d _ _ => dstRegs .s d
  | .movi d _ => dstRegs .s d
  | .movhi d _ _ _ => dstRegs .s d
  | .crd d _ => dstRegs .s d
  | .leai d _ _ => dstRegs .s d
  | .agen d _ _ => dstRegs .s d
  | .spawn wt d _ => if wt then dstRegs .s d else []
  | .cmpeq d _ _ | .cmpne d _ _ | .cmplt d _ _ | .cmple d _ _ | .cmpltn d _ _ | .fcmpeq d _ _
  | .fcmplt d _ _ | .fcmple d _ _ => [(.c, d.toNat % 8)]
  | .cmpeqi d _ _ | .cmplti d _ _ => [(.c, d.toNat % 8)]
  | .vany d _ _ | .vall d _ _ => [(.c, d.toNat % 8)]
  | .upc _ => (List.range 8).map fun k => (.c, k)
  | .movg d _ => [(.g, d.toNat % 16)]
  | .pbr d _ _ => [(.b, d.toNat % 4)]
  | .call _ _ => [(.b, 3)]
  | .loop k _ _ => [(.i, k.toNat % 8)]
  | .nld d _ _ => [(.n, d.toNat % 8)]
  | .esld t _ _ =>
    match t.toNat with
    | 10 => [(.e, 8), (.e, 9)]
    | k => [(.e, k)]
  | .vadd _ d _ _ _ | .vsub _ d _ _ _ | .vadds _ d _ _ _ | .vsubs _ d _ _ _ | .vmin _ d _ _ _
  | .vmax _ d _ _ _ | .vminn _ d _ _ _ | .vmaxn _ d _ _ _ | .vshl _ d _ _ _ | .vshr _ d _ _ _
  | .vasr _ d _ _ _ => dstRegs .v d
  | .vmul _ d _ _ _ | .vmulh _ d _ _ _ => dstRegs .v d
  | .vfadd _ d _ _ _ | .vfsub _ d _ _ _ | .vfmul _ d _ _ _ | .vfmin _ d _ _ _ | .vfmax _ d _ _ _ =>
    dstRegs .v d
  | .vcmpeq _ d _ _ _ | .vcmplt _ d _ _ _ | .vcmpltn _ d _ _ _ => [(.m, d.toNat)]
  | .vfcmpeq _ d _ _ _ | .vfcmplt _ d _ _ _ | .vfcmple _ d _ _ _ => [(.m, d.toNat)]
  | .vand d _ _ _ | .vor d _ _ _ | .vxor d _ _ _ => dstRegs .v d
  | .vnot d _ _ | .vfrcp d _ _ | .vfrsq d _ _ | .vfexp2 d _ _ | .vflog2 d _ _ | .vftanh d _ _
  | .vfsigm d _ _ | .vmov d _ _ => dstRegs .v d
  | .vsel d _ _ _ _ => dstRegs .v d
  | .vfma _ d _ _ _ _ => dstRegs .v d
  | .vperm d _ _ _ _ => dstRegs .v d
  | .vshuf d _ _ _ _ _ => dstRegs .v d
  | .vrot d _ _ _ _ => dstRegs .v d
  | .vbcast d _ _ _ => dstRegs .v d
  | .vrdsum _ d _ _ | .vrdmax _ d _ _ | .vrdmin _ d _ _ | .vscan _ d _ _ => dstRegs .v d
  | .vcvt d _ _ _ _ => dstRegs .v d
  | .vqnt _ d _ e _ _ _ _ => dstRegs .v d ++ [(.e, e.toNat)]
  | .vdq _ d _ _ _ _ _ => dstRegs .v d
  | .vspld d _ _ _ _ | .vld d _ _ _ _ => dstRegs .v d
  | .vins d _ _ _ => dstRegs .v d
  | .vext d _ _ _ _ => dstRegs .s d
  | .vmovExpand d _ _ => dstRegs .v d
  | .vmovPack d _ _ => [(.m, d.toNat)]
  | .viota d _ _ _ => dstRegs .v d
  | _ => []

/-- The destination of an interlocked load (R84), of a returning atomic, OOPEN or OCLOSE (R365, R371), of
TKT (R301) and of PROBE (R400). -/
def lockedDest : Instr → Option RegId
  | .ld d _ _ _ | .aadd d _ _ _ | .amin d _ _ _ | .amax d _ _ _ | .aminn d _ _ _ | .amaxn d _ _ _
  | .aand d _ _ _ | .aor d _ _ _ | .axor d _ _ _ | .axchg d _ _ _ | .acas d _ _ _ | .afadd d _ _ _
  | .oclose d _ _ _ => (dstRegs .s d).head?
  | .ldi d _ _ | .oopen d _ _ | .tkt d _ _ => (dstRegs .s d).head?
  | .probe d _ => (dstRegs .s d).head?
  | .vld d _ _ _ _ => (dstRegs .v d).head?
  | .nld d _ _ => some (.n, d.toNat % 8)
  | _ => none

/-- The register that a write changes; none for what is not one of the register classes. -/
def Wr.regId : Wr → Option RegId
  | .s k _ => some (.s, k)
  | .c k _ => some (.c, k)
  | .b k _ => some (.b, k)
  | .i k _ => some (.i, k)
  | .g k _ => some (.g, k)
  | .n k _ => some (.n, k)
  | .v k _ _ => some (.v, k)
  | .m k _ _ => some (.m, k)
  | .e k _ _ => some (.e, k)
  | .asc _ => some (.e, 8)
  | .bsc _ => some (.e, 9)
  | _ => none

/-! ## Random words and commit-buffer entries -/

/-- Whether the instruction pops a random word (R152). -/
def popsWord : Instr → Bool
  | .vqnt .. | .rbpop _ => true
  | .vcvt _ _ _ code _ => Vec.cvtDraws code.toNat
  | _ => false

/-- Whether R108 forbids the instruction in a delay position, SPAWN included (R305). -/
def isControlFlow : Instr → Bool
  | .trn .. | .call .. | .loop .. | .lend | .join | .exit | .eret | .spawn .. => true
  | _ => false

/-- The Y instructions that act in step 4 of a checkpoint bundle (R283). -/
def actsFirst : Instr → Bool
  | .fwait .. | .fwaitAcq .. | .finc .. | .fclr _ | .fbar .. => true
  | _ => false

end Sys2Proof.Machine
end

