-- ==== Sys2Proof/Machine/Ops.lean ====
section
/-! DEFINITION. Machine/Ops.lean: results in flight and their landing (spec/02 R55, R56, spec/03 R83, spec/05
R156, R157), control registers (spec/03 R101, R102, R114), the M instructions' array point and drain writes
(spec/07 R197, R203), and the scratchpad (spec/08 R215 to R222). -/

namespace Sys2Proof.Machine

/-! ## Register writes -/

/-- `v` where the mask is set, `old` elsewhere. -/
def mergeBits {n : Nat} (old v mask : BitVec n) : BitVec n := (old &&& ~~~mask) ||| (v &&& mask)

/-- Status ORed into CTXSTAT (R156). -/
def Arch.raise (a : Arch) (st : Word) : Arch :=
  { a with cr := Tab.set 0 a.cr 1 (Tab.get 0 a.cr 1 ||| st) }

/-- A CWR taking effect (Tables 3.12, 4.1a, 9.4a, 12.2, 3.14): reserved bits and RO registers keep. -/
def Arch.writeCr (a : Arch) (n : Nat) (v : Word) : Arch :=
  let put (x : Word) : Arch := { a with cr := Tab.set 0 a.cr n x }
  match n with
  | 1 => put (v &&& 0x3FF)
  | 2 => put (v &&& ~~~0x7)
  | 3 => put (v &&& ~~~0x1F)
  | 4 => put v
  | 5 => put (v &&& 0xFFFF)
  | 7 => { a with loops := a.loops.drop (a.loops.length - (v &&& 0x7).toNat) }
  | 0x10 | 0x11 | 0x12 | 0x13 | 0x14 | 0x15 => { a with i := Tab.set 0 a.i (n - 0x10) (v.setWidth 32) }
  | _ => a

/-- One register write of a landing result. The reserved bits of a nest record read as zero (Table 3.15, R10). -/
def Arch.write (a : Arch) : Wr → Arch
  | .s k v => { a with s := Tab.set 0 a.s k v }
  | .c k v => { a with c := Tab.set false a.c k v }
  | .b k v => { a with b := Tab.set 0 a.b k v }
  | .i k v => { a with i := Tab.set 0 a.i k v }
  | .g k v => { a with g := Tab.set 0 a.g k v }
  | .n k v => { a with n := Tab.set 0 a.n k (v.setWidth 456 |>.setWidth 512) }
  | .v k v mask => { a with v := Tab.set 0 a.v k (mergeBits (Tab.get 0 a.v k) v mask) }
  | .m k v mask => { a with m := Tab.set 0 a.m k (mergeBits (Tab.get 0 a.m k) v mask) }
  | .e k v mask => { a with e := Tab.set 0 a.e k (mergeBits (Tab.get 0 a.e k) v mask) }
  | .cr k v => a.writeCr k v
  | .asc v => { a with asc := v }
  | .bsc v => { a with bsc := v }
  | .ph0 => { a with ph := 0 }

def Arch.writes (a : Arch) (l : List Wr) : Arch := l.foldl Arch.write a

/-- A result enters the latches of its slot: latch 1 takes latch 0 (R56). -/
def Arch.enter (a : Arch) (u : Nat) (x : LatchVal) : Arch :=
  let l0 := Tab.get none a.latches (2 * u)
  { a with latches := Tab.set none (Tab.set none a.latches (2 * u + 1) l0) (2 * u) (some x) }

/-! ## Landing (R55, R83, R157) -/

/-- One result lands, its status apart. -/
def Arch.landOne (a : Arch) (l : Land) : Arch :=
  let a := a.writes l.wr
  match l.latch with
  | some (u, x) => a.enter u x
  | none => a

/-- An issue cycle passes for the results in flight: those that fall due land in issue order, and then
their status is raised, so that a CWR landing with them does not clear it (R157). -/
def Arch.landResults (a : Arch) : Arch :=
  let aged := a.flight.map fun l => { l with left := l.left - 1 }
  let due := aged.filter fun l => l.left = 0
  let a := { a with flight := aged.filter fun l => l.left ≠ 0 }
  (due.foldl Arch.landOne a).raise (due.foldl (fun x l => x ||| l.status) 0)

/-- A result of the bundle in issue, to land `left` issue cycles from now. -/
def State.push (s : State) (left : Nat) (wr : List Wr) (latch : Option (Nat × LatchVal) := none)
    (status : Word := 0) : State :=
  s.modArch s.cur.ctx fun a => { a with flight := a.flight ++ [⟨left, wr, latch, status⟩] }

/-! ## Control registers read (R101, Tables 3.12, 3.14, 5.7, 9.2, 10.6) -/

/-- LOOPST: DEPTH and the index register of each level, outermost first; a closed level's field stays. -/
def Arch.loopst (a : Arch) : Word :=
  BitVec.ofNat 64 (a.loops.length + 64 * packN 3 ((List.range 4).map fun j =>
    ((a.loops.reverse[j]?).map (·.k)).getD (Tab.get 0 a.ix j)))

/-- The numbers that Tables 3.12, 10.6 and 14 assign. -/
def crAssigned (n : Nat) : Bool :=
  n ≤ 0xB || (0x10 ≤ n && n ≤ 0x15) || (0x20 ≤ n && n ≤ 0x22) || n = 0x30

/-- A control register as it stands; CYCLES is the core's, IDXk, LOOPST and RBQSTAT are computed.
[DEDUCED, unsafe: log 12] -/
def State.crd (s : State) (n : Nat) : Word :=
  let a := s.here.a
  match n with
  | 0 => (s.core (coreOf s.cur.ctx)).cycles
  | 6 => BitVec.ofNat 64 (a.rbq.length + a.popcnt.toNat * 2 ^ 16)
  | 7 => a.loopst
  | 0x10 | 0x11 | 0x12 | 0x13 | 0x14 | 0x15 => (Tab.get 0 a.i (n - 0x10)).setWidth 64
  | 0x30 => BitVec.ofNat 64 s.modid
  | _ => Tab.get 0 a.cr n

/-- A stored control register of the acting context. -/
def State.cr (s : State) (n : Nat) : Word := Tab.get 0 s.here.a.cr n

def Arch.setCr (a : Arch) (n : Nat) (v : Word) : Arch := { a with cr := Tab.set 0 a.cr n v }

/-! ## The scratchpad -/

/-- The group and window size of a logical offset (Table 8.1). -/
def Task.inWindow (t : Task) (lo n : Nat) : Bool :=
  lo < 0x30_0000 && lo % 0x10_0000 + n ≤ nth0 t.win (lo / 0x10_0000)

/-- The physical offset of a logical one (R216). -/
def Task.spadPa (t : Task) (lo : Nat) : Nat :=
  lo / 0x10_0000 * 0x10_0000 + nth0 t.pbase (lo / 0x10_0000) + lo % 0x10_0000

/-- The banks that `[lo, lo + n)` touches (R217). -/
def banksOf (lo n : Nat) : List Nat :=
  (List.range ((lo % 64 + n + 63) / 64)).map fun j =>
    let x := lo + 64 * j
    16 * (x / 0x10_0000 % 4) + x / 64 % 16

/-- LEASE of a scratchpad access (R218): `side` marks a command's destination. -/
def State.windowFault (s : State) (lo : Nat) (side : Bool := false) : FaultRec :=
  let w (g : Nat) : Nat := nth0 s.here.task.win g / 4096
  s.faultRec 0x03 0 (BitVec.ofNat 64 lo)
    (BitVec.ofNat 64 (w 0 + w 1 * 2 ^ 16 + w 2 * 2 ^ 32 + side.toNat * 2 ^ 63))

/-- Scratchpad bytes as they read: one that the task has not written is a free value (R220).
[DESIGN CHOICE, safe: log 5] -/
def State.reveal (s : State) (l : List (Option Byte)) : State × List Byte :=
  ({ s with free := if l.all Option.isSome then s.free else s.free + l.length },
   (List.range l.length).map fun i => (l.getD i none).getD (Config.freeByte (s.free + i)))

/-- Bytes of the scratchpad of context `c` under its task's windows. [DESIGN CHOICE, safe: log 5] -/
def State.spadRead (s : State) (c lo n : Nat) : State × List Byte :=
  let t := (s.ctx c).task
  s.reveal ((List.range n).map fun i => Tab.get none (s.core (coreOf c)).spad (t.spadPa (lo + i)))

/-- Bytes written to the scratchpad of context `c`; `none` leaves a byte alone. -/
def State.spadWrite (s : State) (c lo : Nat) : List (Option Byte) → State
  | [] => s
  | none :: l => s.spadWrite c (lo + 1) l
  | some b :: l =>
    (s.modCore (coreOf c) fun x =>
      { x with spad := Tab.set none x.spad ((s.ctx c).task.spadPa lo) (some b) }).spadWrite c (lo + 1) l

/-! ## M instructions in flight (R197, R203) -/

/-- What an M instruction does at its array point: the accumulators, the drain write it makes, if any, and
the status of a beat. -/
def Arch.arrayAct (a : Arch) (act : MAct) : Arch × Option Drain × Word :=
  let rows := List.range 128
  match act with
  | .beat bank set af bf profile x y shift asc bsc ph =>
    let r := rows.map fun r =>
      beat set af bf profile x.toNat y.toNat asc.toNat bsc.toNat shift ph r
        (Tab.get 0 a.acc (bank * 128 + r)).toNat
    let put (t : Tab (BitVec 8192)) (p : Nat × Nat × Word) : Tab (BitVec 8192) :=
      Tab.set 0 t (bank * 128 + p.1) (BitVec.ofNat 8192 p.2.1)
    ({ a with acc := (rows.zip r).foldl put a.acc }, none, r.foldl (fun st p => st ||| p.2) 0)
  | .drain bank row code clr off =>
    let (b, st) := drainRow code (Tab.get 0 a.acc (bank * 128 + row)).toNat
    (if clr then { a with acc := Tab.set 0 a.acc (bank * 128 + row) 0 } else a,
     off.map fun o => ⟨4, some o, b, st⟩, 0)
  | .drainq bank row fmt clr off =>
    let m := match fmt with | 3 => 1 | 4 => 3 | _ => 7
    let (b, st) := drainqRow m (Tab.get 0 a.acc (bank * 128 + row)).toNat
    (if clr then { a with acc := Tab.set 0 a.acc (bank * 128 + row) 0 } else a,
     off.map fun o => ⟨4, some o, b, st⟩, 0)
  | .load bank row img => ({ a with acc := Tab.set 0 a.acc (bank * 128 + row) img }, none, 0)
  | .zero bank => ({ a with acc := rows.foldl (fun t r => Tab.set 0 t (bank * 128 + r) 0) a.acc }, none, 0)

/-- An issue cycle passes for the M instructions in flight: those at their array point act, and their drain
writes are due four issue cycles later (R197). -/
def Arch.arrayPoint (a : Arch) : Arch :=
  let aged := a.mflight.map fun m => { m with left := m.left - 1 }
  let a := { a with mflight := aged.filter fun m => m.left ≠ 0 }
  (aged.filter fun m => m.left = 0).foldl (fun a m =>
    let (a, d, st) := a.arrayAct m.act
    ({ a with drains := a.drains ++ d.toList } : Arch).raise st) a

/-- One drain write lands: its bytes in the scratchpad and its status (R203, R211). -/
def State.landDrain (s : State) (c : Nat) (d : Drain) : State :=
  let s := match d.off with
    | some o => s.spadWrite c o (d.bytes.map some)
    | none => s
  s.modArch c fun a => a.raise d.status

/-- An issue cycle passes for the drain writes of context `c`. -/
def State.drainWrites (s : State) (c : Nat) : State :=
  let aged := (s.ctx c).a.drains.map fun d => { d with left := d.left - 1 }
  let s := s.modArch c fun a => { a with drains := aged.filter fun d => d.left ≠ 0 }
  (aged.filter fun d => d.left = 0).foldl (fun s d => s.landDrain c d) s

/-- The start of an issue cycle of context `c`: results land, drain writes land, and M instructions reach
their array point. -/
def State.beginCycle (s : State) (c : Nat) : State :=
  ((s.modArch c Arch.landResults).drainWrites c).modArch c Arch.arrayPoint

/-- Every M instruction in flight completes at once with its drain writes; the status becomes results in
flight that land when it would have (Table 7.3). -/
def State.finishArray (s : State) (c : Nat) : State :=
  let a := (s.ctx c).a
  let old := a.drains.map fun d => (⟨d.left, [], none, d.status⟩ : Land)
  let s := a.drains.foldl (fun s d => s.landDrain c { d with status := 0 }) s
  let s := s.modArch c fun a => { a with drains := [], mflight := [], flight := a.flight ++ old }
  a.mflight.foldl (fun s m =>
    let (x, d, st) := (s.ctx c).a.arrayAct m.act
    let s := s.modArch c fun _ => x
    let s := match d with
      | some d =>
        (s.landDrain c { d with status := 0 }).modArch c fun a =>
          { a with flight := a.flight ++ [⟨m.left + 4, [], none, d.status⟩] }
      | none => s
    if st = 0 then s else s.modArch c fun a => { a with flight := a.flight ++ [⟨m.left, [], none, st⟩] }) s

end Sys2Proof.Machine
end

