-- ==== Sys2Proof/Machine/Spad.lean ====
section
/-! DEFINITION. Machine/Spad.lean: nest records (spec/03 R115, R117, spec/07 R190), the scratchpad accesses of a
bundle, and their checks (spec/07 R191, R192, spec/08 R218, R222). -/

namespace Sys2Proof.Machine

/-! ## Nest records (Table 3.15) -/

namespace Nest
def base (r : BitVec 512) : Word := r.extractLsb' 0 64
def stride (r : BitVec 512) (k : Nat) : Int := (r.extractLsb' (64 + 64 * k) 32).toInt
def bound (r : BitVec 512) (k : Nat) : Nat := (r.extractLsb' (96 + 64 * k) 32).toNat
/-- Dimensions in use; 7 acts as 6. -/
def ndim (r : BitVec 512) : Nat := Nat.min (r.extractLsb' 448 3).toNat 6
/-- 0 VA, 1 scratchpad, 2 tensor; 3 acts as 0. -/
def kind (r : BitVec 512) : Nat := match (r.extractLsb' 451 2).toNat with | 1 => 1 | 2 => 2 | _ => 0
def elog (r : BitVec 512) : Nat := (r.extractLsb' 453 3).toNat
/-- Element size in bytes. -/
def size (r : BitVec 512) : Nat := 2 ^ elog r
end Nest

/-- The affine address of a record under the context's index registers (R117), without imm. -/
def State.nestAddr (s : State) (r : BitVec 512) : Word :=
  (if Nest.kind r = 2 then 0 else Nest.base r) +
    BitVec.ofInt 64 ((List.range (Nest.ndim r)).foldl
      (fun a k => a + ((s.ireg k).toNat : Int) * Nest.stride r k) 0)

/-- Whether an index is out of its bound (R190). -/
def State.clipped (s : State) (r : BitVec 512) : Bool :=
  (List.range (Nest.ndim r)).any fun k => decide (Nest.bound r k ≤ (s.ireg k).toNat)

/-- The piece's offset, or none when it is clipped (R190). -/
def State.piece (s : State) (r : BitVec 512) : Option Nat :=
  if s.clipped r then none else some (s.nestAddr r).toNat

/-! ## Addresses -/

def sizeBytes : Size → Nat
  | .b1 => 1 | .b2 => 2 | .b4 => 4 | _ => 8

/-- a + b. -/
def State.addrRR (s : State) (a b : Src) : Res Nat := do
  let x ← s.srcS a
  let y ← s.srcS b
  return (x + y).toNat

/-- a + sext(imm). -/
def State.addrRI {n : Nat} (s : State) (a : Src) (imm : BitVec n) : Res Nat := do
  let x ← s.srcS a
  return (x + imm.signExtend 64).toNat

/-- a + b + 32 × c (R181). -/
def State.addrV (s : State) (a b : Src) (off : BitVec 6) : Res Nat := do
  let x ← s.srcS a
  let y ← s.srcS b
  return (x + y + BitVec.ofNat 64 (32 * off.toNat)).toNat

/-- Bytes and alignment of an ESLD target (Table 7.2). -/
def esldSize (t : BitVec 6) : Nat × Nat :=
  match t.toNat with | 8 => (256, 256) | 9 => (512, 512) | 10 => (768, 256) | _ => (16, 16)

/-- The width of a V slot of the bundle in issue; `cur.width` while a slot acts. -/
def State.slotWidth (s : State) (slot : Nat) : Nat :=
  match slot with
  | 2 => widthOf (s.cur.bits.extractLsb' 245 2)
  | 3 => widthOf (s.cur.bits.extractLsb' 243 2)
  | _ => s.cur.width

/-! ## The bundle-issued accesses (R192, R221) -/

def State.codePiece (s : State) (code : BitVec 4) (n : Nat) : List (Nat × Nat) :=
  if code.toNat < 8 then ((s.piece (s.nreg code.toNat)).map fun o => (o, n)).toList else []

/-- The scratchpad accesses of an instruction: offset and length. -/
def State.accesses (s : State) (slot : Nat) (i : Instr) : List (Nat × Nat) :=
  let one (r : Res Nat) (n : Nat) : List (Nat × Nat) :=
    match r with | .ok o => [(o, n)] | .error _ => []
  match i with
  | .spld _ a b z => one (s.addrRR a b) (sizeBytes z)
  | .spst _ a b z => one (s.addrRR a b) (sizeBytes z)
  | .spldi _ a imm => one (s.addrRI a imm) 8
  | .spsti _ a imm => one (s.addrRI a imm) 8
  | .vspld _ a b o _ => one (s.addrV a b o) (s.slotWidth slot / 8)
  | .vspst _ a b o _ => one (s.addrV a b o) (s.slotWidth slot / 8)
  | .esld t a imm => one (s.addrRI a imm) (esldSize t).1
  | .macc _ _ _ an bn | .mset _ _ _ an bn | .mpush an bn => s.codePiece an 512 ++ s.codePiece bn 1024
  | .mshift _ _ _ _ bn => s.codePiece bn 1024
  | .mload _ n _ => ((s.piece (s.nreg n.toNat)).map fun o => (o, 1024)).toList
  | _ => []

/-- The accesses of the bundle's slots before `slot`, with their slots. -/
def State.earlierAccesses (s : State) (slot : Nat) : List (Nat × Nat × Nat) :=
  s.cur.todo.flatMap fun p =>
    if p.1 < slot && !s.nullified p.1 p.2 then (s.accesses p.1 p.2).map fun x => (p.1, x) else []

/-- BANKC of an access of the acting slot against the earlier slots (R222). [DEDUCED, unsafe: log 112] -/
def State.bankFault (s : State) (lo n : Nat) : Option FaultRec :=
  (s.earlierAccesses s.cur.slot).findSome? fun p =>
    ((banksOf lo n).find? fun b => (banksOf p.2.1 p.2.2).contains b).map fun b =>
      s.faultRec 0x04 1 (BitVec.ofNat 64 (b + p.1 * 2 ^ 8))
        (BitVec.ofNat 64 (p.2.1 % 2 ^ 32 + lo % 2 ^ 32 * 2 ^ 32))

/-- The checks of a scratchpad access (R222): ALIGN, BANKC, LEASE. -/
def State.checkSpad (s : State) (lo n align : Nat) : Res Unit :=
  if lo % align ≠ 0 then .error (s.alignFault lo align)
  else match s.bankFault lo n with
    | some f => .error f
    | none => if s.here.task.inWindow lo n then .ok () else .error (s.windowFault lo)

/-- The checks of an M operand piece (R191): it lies in bank group `g`. -/
def State.checkPiece (s : State) (lo n g : Nat) : Res Unit :=
  if lo % n ≠ 0 then .error (s.alignFault lo n)
  else if lo / 0x10_0000 ≠ g then
    .error (s.faultRec 0x04 2 (BitVec.ofNat 64 ((banksOf lo 1).headD 0 + 15 * 2 ^ 8)) (BitVec.ofNat 64 (lo % 2 ^ 32)))
  else match s.bankFault lo n with
    | some f => .error f
    | none => if s.here.task.inWindow lo n then .ok () else .error (s.windowFault lo)

end Sys2Proof.Machine
end

