-- ==== Sys2Proof/Machine/Memory.lean ====
section
/-! DEFINITION. Machine/Memory.lean: memory accesses of the bundle in issue: their checks (spec/03 R97, spec/13 R393,
R395), loads through L1 with the context's own held stores (R98, spec/12 R352, R354, R357), and acquires
(R358). -/

namespace Sys2Proof.Machine

/-! ## Scopes and paths -/

def scopeRank (c : Scope) : Nat := c.code.toNat

/-- Path mask bits (Table 2.4). -/
def pathUO (p : BitVec 4) : Bool := p.getLsbD 0
def pathCP (p : BitVec 4) : Bool := p.getLsbD 1
def pathFX (p : BitVec 4) : Bool := p.getLsbD 2
def pathHX (p : BitVec 4) : Bool := p.getLsbD 3

/-- Wide (R356): scope CLUSTER or wider, or a path among CP, FX and HX. -/
def isWide (c : Scope) (p : BitVec 4) : Bool := scopeRank c ≥ 2 || pathCP p || pathFX p || pathHX p

/-- Whether host-type lines take part (R356, R358). -/
def withHost (c : Scope) (p : BitVec 4) : Bool := c = .fabric || pathHX p

/-- An acquire by context `c` (R358). -/
def State.acquire (s : State) (c : Nat) (sc : Scope) (p : BitVec 4) : State :=
  if isWide sc p then s.l1Invalidate (coreOf c) (withHost sc p) else s

/-! ## Checks -/

/-- The address space of context `c`. -/
def State.asidAt (s : State) (c : Nat) : Nat := s.asidOf (s.ctx c).task.region

/-- The memory type of a VA's segment: 0 normal, 1 device, 2 host. -/
def State.mtype (s : State) (va : Nat) : Nat := (s.seg (s.asidAt s.cur.ctx) va).mtype

/-- ALIGN, then LEASE, then ALIGN for a page type that the access may not touch (R97, R334, R365). -/
def State.checkMem (s : State) (va n align : Nat) (need : Need) (noDev noHost : Bool) : Res Unit :=
  if va % align ≠ 0 then .error (s.alignFault va align)
  else if !s.here.task.leased va n need then .error (s.leaseFault va n need.w)
  else if (noDev ∧ s.mtype va = 1) ∨ (noHost ∧ s.mtype va = 2) then .error (s.alignFault va 0)
  else .ok ()

/-- The STACK check of a store through s30 or s31 (R99). -/
def State.checkStack (s : State) (a : Src) (va : Nat) : Res Unit :=
  if (a = .reg 30 ∨ a = .reg 31) ∧ va < (s.cr 2).toNat then
    .error (s.stackFault 1 (BitVec.ofNat 64 va) (s.cr 2))
  else .ok ()

/-- The STACK check of a computed write of s31 (R99). -/
def State.checkSp (s : State) (d : Dst) (v : Word) : Res Unit :=
  if d = .reg 31 ∧ v.toNat < (s.cr 2).toNat then .error (s.stackFault 2 v (s.cr 2)) else .ok ()

/-! ## Own held stores (R98) -/

/-- The stores of a list of effects. -/
def storesOf (l : List Eff) : List (Word × List (Option Byte)) :=
  l.filterMap fun e => match e with | .store va d _ _ _ _ => some (va, d) | _ => none

/-- A context's stores not yet handed on, oldest first. -/
def Ctx.heldStores (x : Ctx) : List (Word × List (Option Byte)) :=
  storesOf x.rel ++ x.past.flatMap (fun p => storesOf p.effs) ++ storesOf x.cbuf

/-- A store cut where lines end: each part with its physical address, where it has one. -/
def State.storeParts (s : State) (c va : Nat) (d : List (Option Byte)) : List (Nat × Nat × Nat) →
    List (Nat × List (Option Byte))
  | [] => []
  | p :: l =>
    ((s.peekPa (coreOf c) (s.asidAt c) va).map fun pa => (pa, d.take p.2.2)).toList ++
      s.storeParts c (va + p.2.2) (d.drop p.2.2) l

/-- The latest held value of each of the `n` bytes at `pa`, where the context holds one. -/
def State.ownHeld (s : State) (c pa n : Nat) : List (Option Byte) :=
  ((s.ctx c).heldStores.flatMap fun st =>
    s.storeParts c st.1.toNat st.2 (lineParts st.1.toNat st.2.length)).foldl (fun o q =>
      (List.range n).map fun i =>
        (if q.1 ≤ pa + i ∧ pa + i < q.1 + q.2.length then q.2.getD (pa + i - q.1) none else none).or (o.getD i none))
    (List.replicate n none)

/-- Bytes with those that are held laid over them. -/
def overlay (o : List (Option Byte)) (b : List Byte) : List Byte :=
  (List.range b.length).map fun i => (o.getD i none).getD (b.getD i 0)

/-- Bytes read at `pa` with the context's held stores laid over them. -/
def State.forward (s : State) (c pa : Nat) (b : List Byte) : List Byte := overlay (s.ownHeld c pa b.length) b

/-! ## Loads -/

/-- DATA for uncorrectable bytes that an access meets (R97). -/
def State.dataFault (s : State) (va : Nat) : FaultRec := s.faultRec 0x08 0 (BitVec.ofNat 64 va) 0

/-- LEASE of a translation that failed its confirming walk (R395). -/
def State.walkFault (s : State) (va n : Nat) (write : Bool) : FaultRec :=
  s.faultRec 0x03 0 (BitVec.ofNat 64 va) (BitVec.ofNat 64 (n % 2 ^ 32 + write.toNat * 2 ^ 32 + 2 ^ 33))

/-- The physical address of an access of the acting context, or none when its confirming walk fails. -/
def State.resolve (s : State) (va : Nat) (need : Need) : State × Option Nat :=
  let c := s.cur.ctx
  let asid := s.asidAt c
  let (s, w) := s.translate (dieOf c) (some (coreOf c)) s.here.task.region asid va need.onLeaf
  match w with
  | .leaf x => (s, if need.onLeaf x then some (leafPa x (s.seg asid va).plog va) else none)
  | _ => (s, none)

/-- A load of `n` bytes of one line through L1: the bytes, or the fault that falls due later. -/
def State.loadBytes (s : State) (va n : Nat) (hint : Hint) (acq : Option (Scope × BitVec 4)) :
    State × Res (List Byte) :=
  let (s, pa) := s.resolve va .read
  match pa with
  | none => (s, .error (s.walkFault va n false))
  | some pa =>
    let home := match acq with | some (sc, _) => decide (scopeRank sc ≥ 2) | none => false
    let (s, r) := s.l1Load s.cur.ctx s.here.task.region pa n hint home
    match r with
    | none => (s, .error (s.dataFault va))
    | some b =>
      let b := s.forward s.cur.ctx pa b
      (match acq with | some (sc, p) => s.acquire s.cur.ctx sc p | none => s, .ok b)

/-- An interlocked load joins those outstanding (R84). [DESIGN CHOICE, unsafe: log 10] -/
def State.addLoad (s : State) (o : Outst) : State :=
  s.modCtx s.cur.ctx fun x => { x with loads := x.loads ++ [o] }

/-- An interlocked load through L1: its value is taken now and written when its data returns. A device page's load goes
to the hub, or to a peer device, in its turn (R334, R449); the context's own held stores are laid over its bytes as they
stand now (R98). -/
def State.issueLoad (s : State) (va n : Nat) (hint : Hint) (acq : Option (Scope × BitVec 4))
    (wr : List Byte → Wr) : State :=
  let zeros := List.replicate n (0 : Byte)
  if s.mtype va = 1 then
    let (s, pa) := s.resolve va .read
    s.addLoad {
      wr := wr zeros, pc := s.pc, va := BitVec.ofNat 64 va, size := n, ext := true, acq := acq
      bad := match pa with | some _ => none | none => some (s.walkFault va n false)
      own := match pa with | some pa => s.ownHeld s.cur.ctx pa n | none => []
      sent := false }
  else
    let (s, r) := s.loadBytes va n hint acq
    match r with
    | .ok b => s.addLoad { wr := wr b, pc := s.pc, va := BitVec.ofNat 64 va, size := n, ext := false, bad := none }
    | .error f =>
      s.addLoad { wr := wr zeros, pc := s.pc, va := BitVec.ofNat 64 va, size := n, ext := false, bad := some f }

/-- Many lines read in turn, as DLD, QPUSH and the inline record do; the first fault met, if any. -/
def State.loadMany (s : State) (va : Nat) : List (Nat × Nat × Nat) → State × Res (List Byte)
  | [] => (s, .ok [])
  | p :: l =>
    let (s, r) := s.loadBytes va p.2.2 .normal none
    let (s, q) := s.loadMany (va + p.2.2) l
    (s, do return (← r) ++ (← q))

/-- A read of `n` bytes at `va` as one access: its fault's record names the whole access (Table 9.5).
[DEDUCED, unsafe: log 20] -/
def State.loadRange (s : State) (va n : Nat) : State × Res (List Byte) :=
  match s.loadMany va (lineParts va n) with
  | (s', .ok b) => (s', .ok b)
  | (s', .error f) => (s', .error (if f.cls = 0x08 then s.dataFault va else s.walkFault va n false))

/-! ## Holding external effects (R284) -/

/-- An effect enters the commit buffer. -/
def State.hold (s : State) (e : Eff) : State :=
  s.modCtx s.cur.ctx fun x => { x with cbuf := x.cbuf ++ [e] }

/-- An annotation's release, by the acting context as it stands (R356). -/
def State.release (s : State) (r : Option (Scope × BitVec 4)) : Option Release :=
  r.map fun p => ⟨p.1, p.2, s.here.seq⟩

/-- A plain or release store is held. -/
def State.holdStore (s : State) (va : Nat) (data : List (Option Byte)) (hint : Hint := .normal)
    (rel : Option (Scope × BitVec 4) := none) : State :=
  s.hold (.store (BitVec.ofNat 64 va) data hint (s.release rel) s.pc s.cur.slot)

end Sys2Proof.Machine
end

