-- ==== Sys2Proof/Machine/Hub.lean ====
section
/-! DEFINITION. Machine/Hub.lean: queue capabilities, tickets and the ring (spec/10_tasks_and_deques.md R298 to
R303, spec/15_firmware_host_trust.md R450 to R452, R455). -/

namespace Sys2Proof.Machine

/-! ## Seals -/

/-- The first 64 bits of SHA3-256 over a key and the low 192 bits of a token, bytes lowest first (R430,
R450). [PRESUMED, unsafe: log 23] -/
def sealOf (key : List Byte) (x : BitVec 256) : Word :=
  BitVec.ofNat 64 (ofBytes ((sha3 (key ++ bytesOf 24 x.toNat)).take 8))

/-! ## Capabilities (Table 15.6) -/

namespace Cap
def qnum (x : BitVec 256) : Nat := (x.extractLsb' 96 12).toNat
def gen (x : BitVec 256) : BitVec 16 := x.extractLsb' 108 16
def logsz (x : BitVec 256) : Nat := (x.extractLsb' 64 4).toNat
def ticketMode (x : BitVec 256) : Bool := x.getLsbD 68
def push (x : BitVec 256) : Bool := x.getLsbD 72
def wake (x : BitVec 256) : Bool := x.getLsbD 73
def ctrl (x : BitVec 256) : Bool := x.getLsbD 74
def func (x : BitVec 256) : Nat := (x.extractLsb' 128 7).toNat
def anyf (x : BitVec 256) : Bool := x.getLsbD 135
/-- Every reserved bit is 0 and SEAL matches (R452 step 1). -/
def genuine (x : BitVec 256) : Bool :=
  decide (x.extractLsb' 0 6 = 0 ∧ x.extractLsb' 57 7 = 0 ∧ x.extractLsb' 69 3 = 0 ∧ x.extractLsb' 75 5 = 0 ∧
    x.extractLsb' 92 4 = 0 ∧ x.extractLsb' 124 4 = 0 ∧ x.extractLsb' 136 56 = 0 ∧
    x.extractLsb' 192 64 = sealOf Config.queueKey x)
end Cap

def State.queue (s : State) (q : Nat) : Queue := Tab.get {} s.queues q
def State.setQueue (s : State) (q : Nat) (x : Queue) : State := { s with queues := Tab.set {} s.queues q x }
def State.modQueue (s : State) (q : Nat) (f : Queue → Queue) : State := s.setQueue q (f (s.queue q))

/-- The capability of a queue, as QUEUE-CREATE returns it (R450). -/
def Queue.cap (x : Queue) (q : Nat) : BitVec 256 :=
  let body : BitVec 256 := BitVec.ofNat 256
    (x.base + x.logsz * 2 ^ 64 + x.ticketMode.toNat * 2 ^ 68 + x.push.toNat * 2 ^ 72 + x.wake.toNat * 2 ^ 73 +
      x.ctrl.toNat * 2 ^ 74 + x.owner * 2 ^ 80 + q * 2 ^ 96 + x.gen.toNat * 2 ^ 108 + x.func * 2 ^ 128 +
      x.anyf.toNat * 2 ^ 135)
  body ||| ((sealOf Config.queueKey body).setWidth 256 <<< 192)

/-- Steps 1 and 2 of R452. -/
def State.capLive (s : State) (x : BitVec 256) : Bool :=
  Cap.genuine x && (s.queue (Cap.qnum x)).live && (s.queue (Cap.qnum x)).gen = Cap.gen x

/-- SIZE of a queue. -/
def Queue.size (x : Queue) : Nat := 2 ^ x.logsz

/-! ## The ring (R451) -/

/-- The home address of ring bytes: a normal page with read and write right in the owner's address space. -/
def State.ringPa (s : State) (owner va : Nat) : Option Nat :=
  let asid := s.asidOf owner
  if (s.seg asid va).mtype ≠ 0 ∨ va ≥ 2 ^ 57 then none
  else match (s.walkRoot asid va).2.2 with
    | .leaf x => if pteR x && pteW x then some (leafPa x (s.seg asid va).plog va) else none
    | _ => none

/-- The VA of ticket t's record. -/
def Queue.slotVa (x : Queue) (t : Nat) : Nat := x.base + 64 + 64 * (t % x.size)

/-- A record is filled for ticket t: TICKET is t and CHK is its complement (R451). -/
def recordFilled (r : BitVec 512) (t : BitVec 32) : Bool :=
  r.extractLsb' 32 32 = t && r.extractLsb' 16 16 = ~~~(t.setWidth 16)

/-- A ring page is not resident: PAGEREQ, once, and FETCH-WAIT for an ACTIVE queue whose page it is that DISPT's record or a
header write needs (R451, Table 15.8). -/
def State.ringMissing (s : State) (q va : Nat) (own : Bool) : State :=
  let x := s.queue q
  let s := if own && x.st = .active then s.modQueue q fun x => { x with st := .fetchWait } else s
  if s.pageReqs.any fun p => p.queue = some q && p.va = va then s
  else
    let asid := s.asidOf x.owner
    let s := { s with pageReqs := s.pageReqs ++ [(⟨asid, va, none, some q⟩ : PageReq)] }
    (s.modNal 3 fun n => n.send (.page q va)).post x.owner ev.pagereq 0 0 (va + asid * 2 ^ 64)

/-- F3 has answered a page request: a queue's leaves its mailbox (R441). -/
def State.answerPage (s : State) (p : PageReq) : State :=
  match p.queue with
  | some q => s.modNal 3 fun n => n.retire (.page q p.va)
  | none => s

/-- The header copies of DISPT and, in TICKET mode, NEXTT; without its page the write is still to be made. -/
def State.ringHeader (s : State) (q : Nat) : State :=
  let x := s.queue q
  match s.ringPa x.owner x.base with
  | some pa =>
    ((s.walkReads x.owner (s.asidOf x.owner) x.base).modQueue q fun x => { x with headerDue := false }).writeHome x.owner .normal pa
      (if x.ticketMode then bytesOf 4 x.dispt.toNat ++ bytesOf 4 x.nextt.toNat else bytesOf 4 x.dispt.toNat)
  | none => (s.modQueue q fun x => { x with headerDue := true }).ringMissing q x.base true

/-! ## Tickets and pushes (R301, R303) -/

/-- TKT at the hub: n consecutive tickets, or all ones. -/
def State.takeTickets (s : State) (cap : BitVec 256) (n : Nat) : State × Word :=
  let q := Cap.qnum cap
  let x := s.queue q
  if !s.capLive cap || !x.push || !x.ticketMode || n = 0 ||
      (x.nextt - x.dispt).toNat + n > x.size then (s, BitVec.allOnes 64)
  else (s.setQueue q { x with nextt := x.nextt + BitVec.ofNat 32 n }, x.nextt.setWidth 64)

/-- A refused push (R303): reason 1 not taken, 2 filled or dispatched, 3 unseal, 4 no right.
[DEDUCED, unsafe: log 53] -/
def State.qreject (s : State) (region reason ticket : Nat) : State := s.post region ev.qreject reason ticket

/-- Ticket t of queue q is filled with a record: the hub writes TICKET and CHK. None when its ring page is
not resident: the push waits. -/
def State.fillTicket (s : State) (q : Nat) (t : BitVec 32) (r : BitVec 512) : Option State :=
  let x := s.queue q
  match s.ringPa x.owner (x.slotVa t.toNat) with
  | none => none
  | some pa =>
    let r' : BitVec 512 := r.extractLsb' 64 448 ++ t ++ ~~~(t.setWidth 16) ++ r.extractLsb' 0 16
    let s := (s.walkReads x.owner (s.asidOf x.owner) (x.slotVa t.toNat)).modQueue q fun x =>
      { x with
        filled := x.filled ++ [t.toNat]
        st := if x.st = .empty ∧ t = x.dispt then .active else x.st }
    some (s.writeHome x.owner .normal pa (bytesOf 64 r'.toNat))

/-- A released push reaches the hub (R303): the new state, or none when it waits. `tk` is the ticket of
QPUSH.T. [DEDUCED, unsafe: log 53] -/
def State.hubPush (s : State) (region : Nat) (cap : BitVec 256) (r : BitVec 512) (tk : Option Nat) :
    Option State :=
  let q := Cap.qnum cap
  let x := s.queue q
  if !s.capLive cap then some (s.qreject region 3 (tk.getD 0))
  else if !x.push || !x.ticketMode then some (s.qreject region 4 (tk.getD 0))
  else match tk with
    | none =>
      if (x.nextt - x.dispt).toNat ≥ x.size then none
      else (s.fillTicket q x.nextt r).map fun s => s.modQueue q fun x => { x with nextt := x.nextt + 1 }
    | some t =>
      let t' := BitVec.ofNat 32 t
      let k := (x.nextt - t').toNat
      if 1 ≤ k ∧ k ≤ (x.nextt - x.dispt).toNat then
        if x.filled.contains t'.toNat then some (s.qreject region 2 t) else s.fillTicket q t' r
      else if 1 ≤ (x.dispt - t').toNat ∧ (x.dispt - t').toNat < 2 ^ 31 then some (s.qreject region 2 t)
      else some (s.qreject region 1 t)

/-- The queue whose ring page a waiting push needs, when that is why it waits. [DEDUCED, unsafe: log 53] -/
def State.pushMissing (s : State) (cap : BitVec 256) (tk : Option Nat) : State :=
  let q := Cap.qnum cap
  let x := s.queue q
  let t := match tk with | some t => BitVec.ofNat 32 t | none => x.nextt
  let page (va : Nat) : Nat := va / 2 ^ (s.seg (s.asidOf x.owner) va).plog
  match s.ringPa x.owner (x.slotVa t.toNat) with
  | some _ => s
  | none => s.ringMissing q (x.slotVa t.toNat) (page (x.slotVa t.toNat) = page (x.slotVa x.dispt.toNat))

end Sys2Proof.Machine
end

