-- ==== Sys2Proof/Machine/Device.lean ====
section
/-! DEFINITION. Machine/Device.lean: the device apertures: controller, port and sensor blocks, the wake catcher and
peer windows (spec/11 R335, R349, spec/14 R420, spec/15 R449, R456, spec/19 R494). -/

namespace Sys2Proof.Machine

def State.hbmAt (s : State) (k : Nat) : Hbm := Tab.get {} s.hbm k
def State.setHbm (s : State) (k : Nat) (x : Hbm) : State := { s with hbm := Tab.set {} s.hbm k x }
def State.port (s : State) (p : Nat) : Port := Tab.get {} s.ports p
def State.setPort (s : State) (p : Nat) (x : Port) : State := { s with ports := Tab.set {} s.ports p x }
def State.modPort (s : State) (p : Nat) (f : Port → Port) : State := s.setPort p (f (s.port p))

/-! ## Register blocks -/

/-- The key of a row counter: (channel × 16 + bank) × 65536 + row. -/
def rowKey (chn bank row : Nat) : Nat := (chn * 16 + bank) * 65536 + row

/-- Back-off lasts 240 ns up to the time noted (R346). -/
def HbmBank.backing (b : HbmBank) (now : Nat) : Bool :=
  match b.backoff with | some e => decide (e ≤ now + 240 ∧ now < e) | none => false

/-- The bank of a request, and the ns that it has waited by time `now` on a back-off that ends at `e`. -/
def HbmReq.bankKey (q : HbmReq) : Nat := homeChn q.pa * 16 + homeBank q.pa
def HbmReq.waited (q : HbmReq) (e now : Nat) : Nat := Nat.min e now - Nat.max (e - 240) q.arrived

/-- BOWAIT of port `j` at time `now`. -/
def Hbm.waits (h : Hbm) (now j : Nat) : Nat :=
  (Tab.get 0 h.bowait j).toNat + ((h.admitted.filter fun q => homeSlice q.pa = j).map fun q =>
    ((Tab.get {} h.banks q.bankKey).backoff.elim 0 fun e => q.waited e now)).sum

/-- Table 11.8, as a number of 32768 bits. -/
def Hbm.block (h : Hbm) (now : Nat) : Nat :=
  let sel := h.selchn.toNat + h.selbank.toNat * 2 ^ 6 + h.selrow.toNat * 2 ^ 10
  let cnt := (Tab.get 0 h.cnt (rowKey h.selchn.toNat h.selbank.toNat h.selrow.toNat)).toNat
  let waits := packN 64 (tabulate 32 fun j => h.waits now j % 2 ^ 64)
  let busy := packN 1 (tabulate 1024 fun b => ((Tab.get {} h.banks b).backing now).toNat)
  h.actcnt.toNat + h.alerts.toNat * 2 ^ 64 + h.rfmcnt.toNat * 2 ^ 128 + sel * 2 ^ 192 + cnt * 2 ^ 256 +
    waits * 2 ^ 2048 + busy * 2 ^ 4096

/-- STATE codes of Table 14.6. -/
def PortSt.code : PortSt → Nat
  | .down => 0 | .training => 1 | .up => 2 | .retrain => 3

/-- Table 14.6. -/
def Port.block (p : Port) (epoch : Bool) : Nat :=
  PortSt.code p.st + p.tx.map.toNat * 2 ^ 3 + p.rx.map.toNat * 2 ^ 11 + p.tx.keys.kg.toNat * 2 ^ 19 +
    p.prot.toNat * 2 ^ 20 + epoch.toNat * 2 ^ 21 + p.peer % 2 ^ 15 * 2 ^ 32 + p.peerport % 64 * 2 ^ 48 +
    p.retries % 2 ^ 32 * 2 ^ 64 + p.rsfail % 2 ^ 16 * 2 ^ 96 + p.tagfail % 2 ^ 16 * 2 ^ 112 +
    p.drops % 256 * 2 ^ 128

/-- The sensor block (Table 19.4): the sensors as last refreshed, with STAGE and CAP in force. -/
def Power.block (p : Power) : Nat :=
  p.sensor.toNat % 2 ^ 168 + p.stage % 8 * 2 ^ 168 + p.cap % 4096 * 2 ^ 171

/-- The block that a device address lies in, and the offset within it. -/
def State.deviceBlock (s : State) (pa : Nat) : Option (Nat × Nat) :=
  if 0x8_0000_0000_0000 ≤ pa ∧ pa < 0x8_0000_0000_8000 then
    some ((s.hbmAt ((pa - 0x8_0000_0000_0000) / 0x1000)).block s.now, pa % 0x1000)
  else if 0x8_0001_0000_0000 ≤ pa ∧ pa < 0x8_0001_0000_3000 ∧ pa % 0x100 < 32 then
    some ((s.port ((pa - 0x8_0001_0000_0000) / 0x100)).block s.epoch, pa % 0x100)
  else if 0x8_0003_0000_0000 ≤ pa ∧ pa < 0x8_0003_0000_0020 then
    some (s.power.block, pa % 0x20)
  else none

/-- A device read of `n` bytes; ones where no block stands (R335). -/
def State.deviceRead (s : State) (pa n : Nat) : List Byte :=
  match s.deviceBlock pa with
  | some (w, off) => bytesOf n (w / 2 ^ (8 * off))
  | none => List.replicate n 0xFF

/-! ## Register writes (R8, R10) -/

/-- A write of `n` bytes to a device register: ROWSEL of a controller takes them; every other register is RO
and ignores the write (R349, R420, R494). -/
def State.registerStore (s : State) (pa n : Nat) (v : Word) : State :=
  if 0x8_0000_0000_0000 ≤ pa ∧ pa < 0x8_0000_0000_8000 then
    let k := (pa - 0x8_0000_0000_0000) / 0x1000
    let off := pa % 0x1000
    let h := s.hbmAt k
    if 24 ≤ off ∧ off < 32 then
      let old := h.selchn.toNat + h.selbank.toNat * 2 ^ 6 + h.selrow.toNat * 2 ^ 10
      let b := (bytesOf 8 old).take (off - 24) ++ bytesOf n v.toNat ++ (bytesOf 8 old).drop (off - 24 + n)
      let x := ofBytes (b.take 8)
      s.setHbm k { h with
        selchn := BitVec.ofNat 6 x, selbank := BitVec.ofNat 4 (x / 2 ^ 6), selrow := BitVec.ofNat 16 (x / 2 ^ 10) }
    else s
  else s

/-! ## The wake catcher (R456) -/

/-- A wake: unsealed, it sets the queue's pending bit. `func` is the arrival function, none for device code;
a failed one counts in that function's WAKEREJ (R452). [DEDUCED, unsafe: log 54] -/
def State.catchWake (s : State) (func : Option Nat) (cap : BitVec 256) : State :=
  let q := Cap.qnum cap
  let x := s.queue q
  let ok := s.capLive cap && x.wake &&
    (match func with | some f => x.func = f || x.anyf | none => x.anyf)
  if ok then { s with wakes := if s.wakes.contains q then s.wakes else s.wakes ++ [q] }
  else match func with
    | some f => s.modFunc f fun y => { y with wakerej := y.wakerej + 1 }
    | none => s

/-- A wake enters the staging buffer; while that is full, its credits are withheld and it stays on the link (R456). -/
def State.stageWake (s : State) (func : Option Nat) (cap : BitVec 256) : State :=
  if s.staged.length < 16 then { s with staged := s.staged ++ [(func, cap)] }
  else { s with withheld := s.withheld ++ [(func, cap)] }

/-- The catcher unseals the wakes of its buffer, oldest first, and takes those whose credits it withheld. -/
def State.unsealWakes (s : State) : State :=
  s.staged.foldl (fun (s : State) p => s.catchWake p.1 p.2)
    { s with staged := s.withheld.take 16, withheld := s.withheld.drop 16 }

/-- A device-code store of `n` bytes at offset `off` of the wake aperture, by context `c`.
[DEDUCED, unsafe: log 54] -/
def State.wakeStore (s : State) (c off n : Nat) (v : Word) : State :=
  let slot := off / 32
  let k := off % 32 / 8
  let drop (s : State) : State := s.modCtx c fun x => { x with wake := none }
  if n ≠ 8 ∨ off % 8 ≠ 0 then drop s
  else if k = 0 then s.modCtx c fun x => { x with wake := some ⟨slot, 1, v.setWidth 256⟩ }
  else match (s.ctx c).wake with
    | some g =>
      if g.slot = slot ∧ g.next = k then
        let b := g.bytes ||| (v.setWidth 256 <<< (64 * k))
        if k = 3 then (drop s).stageWake none b
        else s.modCtx c fun x => { x with wake := some ⟨slot, k + 1, b⟩ }
      else drop s
    | none => drop s

/-- A device-page store of a context, at its address (R334, R449, R456). -/
def State.deviceStore (s : State) (c pa : Nat) (b : List Byte) : State :=
  let v := BitVec.ofNat 64 (ofBytes b)
  if 0x8_0002_0000_0000 ≤ pa ∧ pa < 0x8_0002_0001_0000 then
    s.wakeStore c (pa - 0x8_0002_0000_0000) b.length v
  else match s.peerAt pa with
    | some (_, bus) => s.emit (.tlpWrite bus b)
    | none => s.registerStore pa b.length v

end Sys2Proof.Machine
end

