-- ==== Sys2Proof/Machine/Commit.lean ====
section
/-! DEFINITION. Machine/Commit.lean: releases (spec/12_ordering_and_atomics.md Table 12.3) and the performing of
released effects in their order (spec/09_contexts_and_espaliers.md R283, R284, spec/10 R303, R306, spec/12 R356,
R357, R367, spec/13 R399). -/

namespace Sys2Proof.Machine

/-! ## A task's context, wherever it stands -/

/-- A context that holds a task, or still has commands or released effects of one that ended (Table 8.2). -/
def Ctx.live (x : Ctx) : Bool := x.busy || !x.q0.isEmpty || !x.q1.isEmpty || !x.rel.isEmpty || !x.retry.isEmpty

/-- Change the context that holds member `m` of task `uid`: on its core, or saved (R269, R271). -/
def State.modTask (s : State) (uid m : Nat) (f : Ctx → Ctx) : State :=
  match s.ctxs.find? fun p => p.2.live && p.2.task.uid = uid && p.2.task.member = m with
  | some p => s.modCtx p.1 f
  | none =>
    let g (x : Ctx) : Ctx := if x.task.uid = uid ∧ x.task.member = m then f x else x
    { s with saved := s.saved.map fun k => { k with members := k.members.map g } }

/-- Whether member `m` of task `uid` still runs or is saved. -/
def State.hasTask (s : State) (uid m : Nat) : Bool :=
  (s.ctxs.any fun p => p.2.busy && p.2.task.uid = uid && p.2.task.member = m) ||
    s.saved.any fun k => k.members.any fun x => x.busy && x.task.uid = uid && x.task.member = m

/-! ## Frames in memory -/

/-- The home address of bytes of a task's address space, as it stands. -/
def State.vaPa (s : State) (asid va : Nat) : Option Nat :=
  if va ≥ 2 ^ 57 then none
  else match (s.walkRoot asid va).2.2 with
    | .leaf x => some (leafPa x (s.seg asid va).plog va)
    | _ => none

/-- The JOIN word of a frame (Table 10.1, bits [511:448]), cut into fields. -/
def joinPa (pa : Nat) : Nat := pa + 56

/-- An atomic on a word of `n` bytes at its home slice, which reads it and writes it (R337). -/
def State.homeUpdate (s : State) (region pa n : Nat) (f : Nat → Nat) : State :=
  let (s, b) := s.readHome region .normal pa n
  s.writeHome region .normal pa (bytesOf n (f (ofBytes b)))

/-- An atomic by core `k` on a 64-bit word at its home slice; its own L1 copy goes home first (R330). -/
def State.atomic64 (s : State) (k region pa : Nat) (f : Nat → Nat) : State :=
  (s.l1Yield k (pa / 128)).homeUpdate region pa 8 f

/-! ## The command word (Table 8.4) -/

namespace Cw
def drec (w : Word) : Nat := (w.extractLsb' 0 3).toNat
def rel (w : Word) : Bool := w.getLsbD 3
def scope (w : Word) : Scope := Scope.ofCode (w.extractLsb' 4 3)
def paths (w : Word) : BitVec 4 := w.extractLsb' 7 4
def hint (w : Word) : Hint := Hint.ofCode (w.extractLsb' 11 3)
def rflag (w : Word) : Nat := (w.extractLsb' 14 4).toNat
def lpost (w : Word) : Bool := w.getLsbD 18
def rpost (w : Word) : Bool := w.getLsbD 19
def member (w : Word) : Nat := (w.extractLsb' 20 5).toNat
def tdir (w : Word) : Bool := w.getLsbD 25
end Cw

def Cmd.cw (m : Cmd) : Word := m.words.headD 0

/-! ## Release steps (Table 12.3) -/

/-- Whether a command is a fabric command. -/
def Cmd.fabric (m : Cmd) : Bool := m.op ≥ 7

/-- Commands of a context on either engine, oldest first per engine. -/
def Ctx.cmds (x : Ctx) : List Cmd := x.q0 ++ x.q1

/-- Steps 1 and 2: dirty lines are written back, and update-only lines merged. -/
def State.releaseWrites (s : State) (c : Nat) (sc : Scope) (p : BitVec 4) : State :=
  let s := if isWide sc p then s.l1WriteBack (coreOf c) (withHost sc p) else s
  if isWide sc p && pathUO p then s.l1MergeAll (coreOf c) else s

/-- Whether a member has an ordered atomic that its slice has not taken (R373). [DEDUCED, unsafe: log 100] -/
def State.ordPending (s : State) (x : Ctx) : Bool :=
  !x.retry.isEmpty || s.ordNet.any fun o => o.uid = x.task.uid && o.member = x.task.member

/-- Whether steps 3 to 6 wait; commands from issue number `seq` on are not earlier ones. Accesses to device pages are
complete when their region is confirmed, but for those of a bundle that ends the task. -/
def State.releaseWaits (s : State) (c : Nat) (p : BitVec 4) (seq : Nat) : Bool :=
  let x := s.ctx c
  let cp := pathCP p && x.cmds.any fun m => !m.fabric && m.seq < seq
  let fx := pathFX p && (x.cmds.any (fun m => m.fabric && m.seq < seq) ||
    s.frags.any fun g => g.uid = x.task.uid && g.member = x.task.member && g.seq < seq)
  let hx := pathHX p && x.ending.isSome && x.loads.any fun l => l.ext && l.bad.isNone
  cp || fx || hx || s.ordPending x

/-- The release steps of scope `sc` and paths `p` by context `c`, in their order, and whether they are all done. -/
def State.releaseSteps (s : State) (c : Nat) (sc : Scope) (p : BitVec 4) (seq : Nat) : State × Bool :=
  let s := s.releaseWrites c sc p
  (s, !s.releaseWaits c p seq)

/-- The release steps of an effect that may be a release. -/
def State.releaseFor (s : State) (c : Nat) : Option Release → State × Bool
  | some r => s.releaseSteps c r.scope r.paths r.seq
  | none => (s, true)

def Ctx.queued (x : Ctx) (eng : Nat) : List Cmd := if eng = 0 then x.q0 else x.q1

/-! ## Performing one effect -/

/-- A released effect that fails its confirming walk when it is performed (R395). -/
def State.deferStore (s : State) (c slot : Nat) (pc : Word) (va n : Nat) : State :=
  s.defer c ⟨0x03, slot, 0, pc, BitVec.ofNat 64 va, BitVec.ofNat 64 (n + 2 ^ 32 + 2 ^ 33)⟩

/-- A translation of context `c`; none when its confirming walk fails. -/
def State.effPa (s : State) (c va : Nat) (need : Need) : State × Option Nat :=
  let asid := s.asidAt c
  let (s, w) := s.translate (dieOf c) (some (coreOf c)) (s.ctx c).task.region asid va need.onLeaf
  match w with
  | .leaf y => (s, if need.onLeaf y then some (leafPa y (s.seg asid va).plog va) else none)
  | _ => (s, none)

/-- The physical addresses of the parts of a store; none when one of them fails its confirming walk. -/
def State.partPas (s : State) (c : Nat) (need : Need) (va : Nat) : List (Nat × Nat × Nat) → State × Option (List Nat)
  | [] => (s, some [])
  | p :: l =>
    let (s, pa) := s.effPa c va need
    let (s, pas) := s.partPas c need (va + p.2.2) l
    (s, do return (← pa) :: (← pas))

/-- Bytes of an ordered atomic's word (R372). -/
def ordBytes (fp : Bool) : Nat := if fp then 4 else 8

/-- The access that a held effect makes itself: slot, PC, address, bytes and rights. -/
def Eff.access : Eff → Option (Nat × Word × Nat × Nat × Need)
  | .store va d _ _ pc slot => some (slot, pc, va.toNat, d.length, .write)
  | .upd op va _ pc => some (8, pc, va.toNat, op.bytes, .both)
  | .ordered fp va _ _ _ pc => some (8, pc, va.toNat, ordBytes fp, .both)
  | _ => none

/-- Whether a held effect of context `c` passes its confirming walk. -/
def State.passesWalk (s : State) (c : Nat) (e : Eff) : Bool :=
  match e.access with
  | some (_, _, va, n, need) => (s.partPas c need va (lineParts va n)).2.isSome
  | none => true

/-- A held effect that fails its confirming walk has no effect, and its fault is deferred (R395). -/
def State.refuseEff (s : State) (c : Nat) (e : Eff) : State :=
  match e.access with
  | some (slot, pc, va, n, need) => (s.partPas c need va (lineParts va n)).1.deferStore c slot pc va n
  | none => s

/-- The held effects of the open region that fail their confirming walks are refused before the region is released
(R283, R395). -/
def State.refuseHeld (s : State) (c : Nat) : State :=
  let l := (s.ctx c).cbuf
  if l.all (s.passesWalk c) then s
  else ((l.filter fun e => !s.passesWalk c e).foldl (fun (s : State) e => s.refuseEff c e) s).modCtx c fun x =>
    { x with cbuf := l.filter (s.passesWalk c) }

/-- A part of a store is performed at its address. -/
def State.storePart (s : State) (c : Nat) (hint : Hint) (through : Bool) (pa : Nat) (piece : List (Option Byte)) :
    State :=
  if paKind pa = PaKind.device then s.deviceStore c pa (piece.map fun b => b.getD 0)
  else if through then s.storeThrough c (s.ctx c).task.region pa piece hint
  else s.l1Store c (s.ctx c).task.region pa piece hint

/-- The parts of a store, one for each line that it touches. -/
def State.storeAt (s : State) (c : Nat) (hint : Hint) (through : Bool) (data : List (Option Byte)) :
    List (Nat × Nat × Nat) → List Nat → State
  | p :: l, pa :: pas =>
    (s.storePart c hint through pa (data.take p.2.2)).storeAt c hint through (data.drop p.2.2) l pas
  | _, _ => s

/-- A released store is performed, or, refused at one of its pages, has no effect (R395). -/
def State.performStore (s : State) (c slot : Nat) (pc : Word) (hint : Hint) (through : Bool)
    (data : List (Option Byte)) (va : Nat) : State :=
  let parts := lineParts va data.length
  match s.partPas c .write va parts with
  | (s, some pas) => s.storeAt c hint through data parts pas
  | (s, none) => s.deferStore c slot pc va data.length

/-- An update-form atomic is performed in the core's L1 (R367). -/
def State.performUpdate (s : State) (c : Nat) (op : AtOp) (va v pc : Word) : State :=
  match s.effPa c va.toNat .both with
  | (s, some pa) => s.l1Update c (s.ctx c).task.region pa va op v
  | (s, none) => s.deferStore c 8 pc va.toNat op.bytes

/-- An ordered atomic leaves for its home slice (R372); its core's L1 copy goes home first (R330). -/
def State.sendOrdered (s : State) (c : Nat) (fp : Bool) (va v : Word) (t : Nat) (pc : Word) : State :=
  let x := (s.ctx c).task
  match s.effPa c va.toNat .both with
  | (s, some pa) =>
    let s := s.l1Yield (coreOf c) (pa / 128)
    { s with ordNet := s.ordNet ++ [⟨x.uid, x.member, fp, pa, va, v, t, pc, x.ticket, x.region, x.frame, x.inEsp, coreOf c⟩] }
  | (s, none) => s.deferStore c 8 pc va.toNat (ordBytes fp)

/-- Whether the retry store of a context has room for one more ordered atomic, those under way counted (R373). -/
def State.ordRoom (s : State) (x : Ctx) : Bool :=
  decide (x.retry.length + (s.ordNet.countP fun o => o.uid = x.task.uid && o.member = x.task.member) < 32)

/-- Whether INVL removes the translation of page `vpage` of 2^plog bytes of an address space (R399). -/
def State.invlHits (s : State) (asid : Nat) (all : Bool) (va n : Nat) (e : Nat) (vpage plog : Nat) : Bool :=
  let g := s.seg asid va
  let hi := Nat.min (va + n * 2 ^ g.plog) ((va / 2 ^ 53 + 1) * 2 ^ 53)
  decide (e = asid) && (all || (g.valid && decide (va < hi ∧ vpage * 2 ^ plog < hi ∧ va < (vpage + 1) * 2 ^ plog)))

/-- Lines whose writes are still to be performed are written back or merged, wherever they stand, when they lie in one of
these pages: base and size. [DEDUCED, unsafe: log 100] -/
def State.flushPages (s : State) (l : List (Nat × Nat)) : State :=
  s.cores.foldl (fun (s : State) p =>
    (s.core p.1).l1.foldl (fun (s : State) y =>
      if (y.isU || decide (y.st = .d)) && l.any (fun g => decide (g.1 ≤ y.line * 128 ∧ y.line * 128 < g.1 + g.2)) then
        s.l1Flush p.1 y
      else s) s) s

/-- The translations of `asid` that INVL names leave every TLB of the module, with every walk pointer of the
ASID, and the writes made through them are performed (R399). [DEDUCED, unsafe: log 100] -/
def State.performInvl (s : State) (asid : Nat) (all : Bool) (va n : Nat) : State :=
  let gone (e : TlbEnt) : Bool := s.invlHits asid all va n e.asid e.vpage e.plog
  let held := (s.dies.flatMap (·.tlb) ++ s.cores.flatMap fun p => p.2.tlb).filter gone
  let s := s.flushPages (held.map fun e => (pteFrame e.leaf, 2 ^ e.plog))
  { s with
    dies := s.dies.map fun d =>
      { d with tlb := d.tlb.filter fun e => !gone e, ptrs := d.ptrs.filter fun e => e.asid ≠ asid }
    cores := Tab.mapVals {} s.cores fun k => { k with tlb := k.tlb.filter fun e => !gone e } }

/-- Whether an access that used a translation that INVL removes is still to be performed: an ordered atomic on its way
to its slice, or to be sent again, or a load of a device page. [DEDUCED, unsafe: log 100] -/
def State.invlBusy (s : State) (asid : Nat) (all : Bool) (va n : Nat) : Bool :=
  let hits (region : Nat) (w : Word) : Bool :=
    let e := s.asidOf region
    let p := (s.seg e w.toNat).plog
    s.invlHits asid all va n e (vpage w.toNat p) p
  (s.ordNet ++ s.ctxs.flatMap fun y => y.2.retry).any (fun o => hits o.region o.va) ||
    s.ctxs.any fun y => y.2.loads.any fun o => o.ext && o.bad.isNone && hits y.2.task.region o.va

/-- A remote counting-flag post of core `k` (R246). -/
def State.sendPost (s : State) (k uid member flag : Nat) : State :=
  { s with posts := s.posts ++ [⟨k, uid, member, flag⟩] }

/-- Room for another command in a context's queue on an engine (R225). -/
def Ctx.queueLen (x : Ctx) (eng : Nat) : Nat := if eng = 0 then x.q0.length else x.q1.length

def Ctx.enqueue (x : Ctx) (eng : Nat) (m : Cmd) : Ctx :=
  if eng = 0 then { x with q0 := x.q0 ++ [m] } else { x with q1 := x.q1 ++ [m] }

/-- Change a lease. -/
def State.modLease (s : State) (id : Nat) (f : Lease → Lease) : State :=
  { s with leases := s.leases.map fun l => if l.id = id then f l else l }

/-- A released SPAWN (R306): JCOUNT of the spawner's frame rises, and the entry goes to the bottom. -/
def State.performSpawn (s : State) (c : Nat) (f : Word) (t : Nat) (parent : Word) : State :=
  let x := s.ctx c
  let s : State := match s.vaPa (s.asidAt c) parent.toNat with
    | some pa =>
      (s.walkReads x.task.region (s.asidAt c) parent.toNat).atomic64 (coreOf c) x.task.region (joinPa pa) fun w => w / 2 ^ 32 * 2 ^ 32 + (w % 2 ^ 32 + 1) % 2 ^ 32
    | none => s
  let e : DqEnt := ⟨f, t, x.task.region, x.task.lease, x.task.ranges, x.task.tensors, none⟩
  (s.modLease x.task.lease fun l => { l with holders := l.holders + 1 }).modCtx c fun x =>
    { x with deque := x.deque ++ [e] }

/-- Paths UO and CP. -/
def pathsUoCp : BitVec 4 := 3

/-- Perform the oldest released effect of context `c`, which has left its list, as far as it can be; and whether it is
done (R356, R373). A full retry store holds back every effect. -/
def State.perform (s : State) (c : Nat) (e : Eff) : State × Bool :=
  if 32 ≤ (s.ctx c).retry.length then (s, false)
  else match e with
  | .store va data hint rel pc slot =>
    match s.releaseFor c rel with
    | (s, true) =>
      (s.performStore c slot pc hint (rel.any fun r => decide (scopeRank r.scope ≥ 2)) data va.toNat, true)
    | w => w
  | .upd op va v pc => (s.performUpdate c op va v pc, true)
  | .ordered fp va v t rel pc =>
    match s.releaseFor c rel with
    | (s, true) =>
      if !s.ordRoom (s.ctx c) then (s, false)
      else
        let s := s.sendOrdered c fp va v t pc
        if rel.any fun r => decide (scopeRank r.scope ≥ 2) then
          (s.modCtx c fun x => { x with rel := .ordWait :: x.rel }, true)
        else (s, true)
    | w => w
  | .ordWait => (s, !s.ordPending (s.ctx c))
  | .copy eng m =>
    let rel : Option Release := if Cw.rel m.cw then
        some ⟨Cw.scope m.cw, Cw.paths m.cw ||| (if m.fabric then 4 else 2), m.seq⟩
      else none
    match s.releaseFor c rel with
    | (s, true) =>
      if (s.ctx c).queueLen eng ≥ 8 then (s, false) else (s.modCtx c fun x => x.enqueue eng m, true)
    | w => w
  | .qpush cap r tk n =>
    match s.releaseSteps c .fabric pathsUoCp n with
    | (s, true) => match s.hubPush (s.ctx c).task.region cap r tk with
      | some s => (s, true)
      | none => ((s.pushMissing cap tk).modCtx c fun x => { x with rel := .pushWait cap r tk :: x.rel }, true)
    | w => w
  | .pushWait cap r tk =>
    if !s.capLive cap then (s, true)
    else match s.hubPush (s.ctx c).task.region cap r tk with
      | some s => (s, true)
      | none => (s.pushMissing cap tk, false)
  | .spawn f t parent n =>
    match s.releaseSteps c .module pathsUoCp n with
    | (s, true) => (s.performSpawn c f t parent, true)
    | w => w
  | .invl asid all va n q =>
    match s.releaseSteps c .module 1 q with
    | (s, true) =>
      ((s.performInvl asid all va.toNat n.toNat).modCtx c fun x => { x with rel := .invlWait asid all va n :: x.rel },
        true)
    | w => w
  | .invlWait asid all va n => (s, !s.invlBusy asid all va.toNat n.toNat)
  | .fpost flag member n =>
    match s.releaseSteps c .cluster 1 n with
    | (s, true) => (s.sendPost (coreOf c) (s.ctx c).task.uid member flag, true)
    | w => w

/-- Hand on released effects in order until one waits. `fuel` is more than their number. -/
def State.drainFrom (s : State) (c : Nat) : Nat → State
  | 0 => s
  | n + 1 =>
    match (s.ctx c).rel with
    | [] => s
    | e :: l =>
      match (s.modCtx c fun x => { x with rel := l }).perform c e with
      | (s, true) => s.drainFrom c n
      | (s, false) => s.modCtx c fun x => { x with rel := e :: x.rel }

def State.drainReleased (s : State) (c : Nat) : State := s.drainFrom c (2 * (s.ctx c).rel.length + 1)

/-- Release the held effects of the region that a context closes (R283 step 1). -/
def State.releaseHeld (s : State) (c : Nat) : State :=
  (s.modCtx c fun x => { x with
    rel := x.rel ++ x.cbuf, cbuf := [], task := { x.task with released := x.task.released || !x.cbuf.isEmpty } }).drainReleased c

end Sys2Proof.Machine
end

