-- ==== Sys2Proof/Machine/Tasks.lean ====
section
/-! DEFINITION. Machine/Tasks.lean: task frames and their checks (spec/10_tasks_and_deques.md R292 to R297,
R315 to R318), range tables and tensor descriptors (spec/13 R386, R387, R391), the stack (spec/04 R119 to
R121), scratchpad windows (spec/08 R216, R219), and how a context starts and leaves a task (R308). -/

namespace Sys2Proof.Machine

/-! ## The frame (Table 10.1) -/

namespace Frame
def fld (f : BitVec 2048) (hi lo : Nat) : Nat := (f.extractLsb' lo (hi - lo + 1)).toNat
def entry (f : BitVec 2048) : Word := f.extractLsb' 0 64
def w (f : BitVec 2048) : Nat := fld f 66 64 + 1
def h (f : BitVec 2048) : Nat := fld f 68 67 + 1
def ex0 (f : BitVec 2048) : Nat := fld f 71 69
def ey0 (f : BitVec 2048) : Nat := fld f 73 72
def ew (f : BitVec 2048) : Nat := fld f 76 74
def eh (f : BitVec 2048) : Nat := fld f 79 77
def nrange (f : BitVec 2048) : Nat := fld f 82 80
def stkidx (f : BitVec 2048) : Nat := fld f 85 83
def ninit (f : BitVec 2048) : Nat := fld f 89 86
/-- Window of group `g` in 4 KiB units. -/
def sp (f : BitVec 2048) (g : Nat) : Nat := fld f (136 + 16 * g) (128 + 16 * g)
/-- RSV in bytes. -/
def rsv (f : BitVec 2048) : Nat := 16 * fld f 191 176
def trapvec (f : BitVec 2048) : Word := f.extractLsb' 192 64
def predmap (f : BitVec 2048) : BitVec 32 := f.extractLsb' 256 32
def seed (f : BitVec 2048) : Word := f.extractLsb' 320 64
def stream (f : BitVec 2048) : BitVec 32 := f.extractLsb' 384 32
def resume (f : BitVec 2048) : Bool := f.getLsbD 481
def parent (f : BitVec 2048) : Word := f.extractLsb' 512 64
def cnode (f : BitVec 2048) : Word := f.extractLsb' 576 64
def contblk (f : BitVec 2048) : Word := f.extractLsb' 640 64
def dict (f : BitVec 2048) : Nat := fld f 767 704
def dictn (f : BitVec 2048) : Nat := fld f 777 768
def savearea (f : BitVec 2048) : Word := f.extractLsb' 832 64
/-- WAITkA and WAITkV. -/
def waitA (f : BitVec 2048) (k : Nat) : Nat := fld f (959 + 128 * k) (896 + 128 * k)
def waitV (f : BitVec 2048) (k : Nat) : Nat := fld f (1023 + 128 * k) (960 + 128 * k)
def sinit (f : BitVec 2048) (k : Nat) : Word := f.extractLsb' (1088 + 64 * k) 64
def rangetab (f : BitVec 2048) : Nat := fld f 1727 1664
/-- A reserved field is not zero. -/
def reservedSet (f : BitVec 2048) : Bool :=
  [(127, 90), (143, 137), (159, 153), (175, 169), (319, 288), (447, 416), (495, 494), (831, 778),
    (2047, 1728)].any fun p => fld f p.1 p.2 ≠ 0
def sizes (f : BitVec 2048) : List Nat := [4096 * sp f 0, 4096 * sp f 1, 4096 * sp f 2]
def members (f : BitVec 2048) : Nat := w f * h f
/-- Bytes of one member's save (R272). -/
def saveSize (f : BitVec 2048) : Nat := 0x6_0000 + (sizes f).sum
end Frame

/-! ## Range entries (Tables 13.4, 13.5) -/

/-- A range entry, with its tensor descriptor's bytes when it names one that is readable. -/
structure RangeEnt where
  bits : BitVec 256
  desc : Option (BitVec 1024)
  deriving DecidableEq, Repr

namespace RangeEnt
def kind (e : RangeEnt) : Nat := (e.bits.extractLsb' 0 2).toNat
def r (e : RangeEnt) : Bool := e.bits.getLsbD 2
def w (e : RangeEnt) : Bool := e.bits.getLsbD 3
def x (e : RangeEnt) : Bool := e.bits.getLsbD 4
def base (e : RangeEnt) : Nat := (e.bits.extractLsb' 64 64).toNat
def len (e : RangeEnt) : Nat := (e.bits.extractLsb' 128 64).toNat
end RangeEnt

namespace Desc
def tid (d : BitVec 1024) : Nat := (d.extractLsb' 0 16).toNat
def ndim (d : BitVec 1024) : Nat := (d.extractLsb' 16 3).toNat
def elog (d : BitVec 1024) : Nat := (d.extractLsb' 19 3).toNat
def layout (d : BitVec 1024) : Nat := (d.extractLsb' 22 2).toNat
def dbase (d : BitVec 1024) : Nat := (d.extractLsb' 64 64).toNat
def extent (d : BitVec 1024) (k : Nat) : Nat := (d.extractLsb' (128 + 32 * k) 32).toNat
def tlog (d : BitVec 1024) (k : Nat) : Nat := (d.extractLsb' (320 + 4 * k) 4).toNat
/-- log2 of TBYTES. -/
def tbLog (d : BitVec 1024) : Nat := elog d + ((List.range (ndim d)).map (tlog d)).sum
def tiles (d : BitVec 1024) : Nat :=
  (List.range (ndim d)).foldl (fun a k => a * ((extent d k + 2 ^ tlog d k - 1) / 2 ^ tlog d k)) 1
/-- Bytes of the whole data. -/
def bytes (d : BitVec 1024) : Nat := tiles d * 2 ^ tbLog d
end Desc

/-- Whether a descriptor keeps R387; a page size is known only for a valid segment. Its reserved fields are ignored
(R10). -/
def State.descOk (s : State) (asid : Nat) (d : BitVec 1024) : Bool :=
  let g := s.seg asid (Desc.dbase d)
  let n := Desc.ndim d
  1 ≤ n && n ≤ 6 && Desc.elog d ≤ 3 && Desc.layout d < 2 &&
  ((List.range 6).all fun k =>
    if k < n then 1 ≤ Desc.extent d k && Desc.extent d k ≤ 2 ^ 31
    else Desc.extent d k = 0 && Desc.tlog d k = 0) &&
  7 ≤ Desc.tbLog d && (!g.valid || Desc.tbLog d ≤ g.plog) &&
  Desc.dbase d % 2 ^ Desc.tbLog d = 0 && Desc.dbase d < 2 ^ 57 &&
  Desc.dbase d / 2 ^ 53 = (Desc.dbase d + Desc.bytes d - 1) / 2 ^ 53

/-- Whether a range entry is well formed (Table 13.4, R386, R387). Its reserved fields are ignored (R10). -/
def State.rangeOk (s : State) (asid : Nat) (e : RangeEnt) : Bool :=
  !(e.w && !e.r) &&
  match e.kind with
  | 1 => 1 ≤ e.len && e.len ≤ 2 ^ 53 && e.base < 2 ^ 57 && e.base / 2 ^ 53 = (e.base + e.len - 1) / 2 ^ 53
  | 2 => e.base % 128 = 0 && e.len = 0 && (match e.desc with | some d => s.descOk asid d | none => false)
  | _ => false

/-- The VA range of entry `k` (from 1), if it is one. -/
def RangeEnt.vaRange (e : RangeEnt) (k : Nat) : Option VaRange :=
  if e.kind = 1 then some ⟨k, e.base, e.len, e.r, e.w, e.x⟩ else none

/-- Numbers entries from 1. -/
def numbered {α : Type} (l : List α) : List (Nat × α) := (List.range l.length).map (· + 1) |>.zip l

def vaRanges (l : List RangeEnt) : List VaRange := (numbered l).filterMap fun p => p.2.vaRange p.1

/-- Whether an entry lies within a range of the spawner, or names a tensor of the lease with rights no wider (R391). -/
def RangeEnt.inherits (e : RangeEnt) (rs : List VaRange) (ts : List Tensor) : Bool :=
  if e.kind = 1 then rs.any fun g => g.grants e.base e.len ⟨e.r, e.w, e.x⟩
  else ts.any fun t => t.desc = e.base && (match e.desc with | some d => Desc.tid d = t.tid | none => false) &&
    (t.r || !e.r) && (t.w || !e.w)

/-- The tensors of the lease that a child's entries name, with the child's rights. -/
def childTensors (l : List RangeEnt) (ts : List Tensor) : List Tensor :=
  (numbered l).filterMap fun p =>
    if p.2.kind = 2 then (ts.find? fun t => t.desc = p.2.base).map fun t =>
      { t with idx := p.1, r := p.2.r, w := p.2.w }
    else none

/-! ## Reading at launch -/

/-- What a read of bytes within one page finds. -/
inductive Got where
  | bytes (b : List Byte)
  | bad
  | unreadable
  deriving DecidableEq, Repr

/-- A read at the home by the walkers of die `d` in a region's address space (R295, R384). -/
def State.launchRead (s : State) (d region va n : Nat) : State × Got :=
  if va ≥ 2 ^ 57 then (s, .unreadable)
  else
    let asid := s.asidOf region
    let (s, w) := s.translate d none region asid va Need.read.onLeaf
    match w with
    | .leaf x =>
      let g := s.seg asid va
      if !Need.read.onLeaf x ∨ g.mtype = 1 then (s, .unreadable)
      else
        let pa := leafPa x g.plog va
        match s.badAt pa n with
        | some _ => (s, .bad)
        | none =>
          let (s, b) := s.readHome region .normal pa n
          (s, .bytes b)
    | _ => (s, .unreadable)

/-- The same read by the context whose bundle is in issue, through its own L1 and its held stores (R98,
R307). -/
def State.ownRead (s : State) (va n : Nat) : State × Got :=
  if va ≥ 2 ^ 57 ∨ s.mtype va = 1 then (s, .unreadable)
  else
    let (s, r) := s.loadRange va n
    match r with
    | .ok b => (s, .bytes b)
    | .error f => (s, if f.cls = 8 then .bad else .unreadable)

/-- A read by a launch, or by a context's own bundle. -/
def State.frameRead (s : State) (own : Bool) (d region va n : Nat) : State × Got :=
  if own then s.ownRead va n else s.launchRead d region va n

/-- Range entries in turn; none once one is unreadable. -/
def State.readEntries (s : State) (own : Bool) (d region va : Nat) : Nat → State × Option (List RangeEnt)
  | 0 => (s, some [])
  | n + 1 =>
    let (s, g) := s.frameRead own d region va 32
    match g with
    | .bytes b =>
      let bits := BitVec.ofNat 256 (ofBytes b)
      let e : RangeEnt := ⟨bits, none⟩
      let (s, e) : State × RangeEnt :=
        if e.kind = 2 && e.base % 128 = 0 then
          let (s, g) := s.frameRead own d region e.base 128
          match g with
          | .bytes b => (s, ⟨bits, some (BitVec.ofNat 1024 (ofBytes b))⟩)
          | _ => (s, e)
        else (s, e)
      let (s, l) := s.readEntries own d region (va + 32) n
      (s, l.map (e :: ·))
    | _ => (s, none)

/-- The dictionary image of `n` entries (R70); none when it is unreadable. -/
def State.readImage (s : State) (own : Bool) (d region va : Nat) : Nat → State × Option (List (BitVec 256))
  | 0 => (s, some [])
  | n + 1 =>
    let (s, g) := s.frameRead own d region va 32
    match g with
    | .bytes b =>
      let (s, l) := s.readImage own d region (va + 32) n
      (s, l.map (BitVec.ofNat 256 (ofBytes b) :: ·))
    | _ => (s, none)

/-- A frame with what its checks need: its range table, and its dictionary image (none: unreadable). -/
structure FrameView where
  addr : Nat
  bits : BitVec 2048
  table : Option (List RangeEnt)
  image : Option (List (BitVec 256))
  deriving DecidableEq, Repr

/-- The pages of `[va, va + n)` in pages of 2^p. -/
def pagesOf (va n p : Nat) : List Nat :=
  if n = 0 then [] else (List.range ((va + n - 1) / 2 ^ p - va / 2 ^ p + 1)).map fun k => (va / 2 ^ p + k) * 2 ^ p

/-- Whether a save area is mapped, of normal type and with write right; a page that is not present is left to the grant
(R272, R388). -/
def State.saveAreaOk (s : State) (asid : Nat) (f : BitVec 2048) : Bool :=
  let va := (Frame.savearea f).toNat
  let g := s.seg asid va
  va = 0 || (va % 4096 = 0 && va + Frame.saveSize f * Frame.members f ≤ 2 ^ 57 && g.mtype = 0 && g.plog ≠ 0 &&
    va / 2 ^ 53 = (va + Frame.saveSize f * Frame.members f - 1) / 2 ^ 53 &&
    (pagesOf va (Frame.saveSize f * Frame.members f) g.plog).all fun p =>
      match (s.walkRoot asid p).2.2 with | .leaf x => pteW x | .absent _ => true | .unmapped => false)

/-- A frame read, with its range table and image; or why it cannot be. -/
inductive Seen where
  | view (v : FrameView)
  | bad
  | unreadable
  deriving DecidableEq, Repr

def State.readFrame (s : State) (own : Bool) (d region va : Nat) : State × Seen :=
  if va % 256 ≠ 0 ∨ va ≥ 2 ^ 56 then (s, .unreadable)
  else
    let (s, g) := s.frameRead own d region va 256
    match g with
    | .bad => (s, .bad)
    | .unreadable => (s, .unreadable)
    | .bytes b =>
      let f := BitVec.ofNat 2048 (ofBytes b)
      let (s, table) : State × Option (List RangeEnt) :=
        if Frame.nrange f = 0 ∨ Frame.nrange f > 6 then (s, some [])
        else if Frame.rangetab f % 32 ≠ 0 then (s, none)
        else s.readEntries own d region (Frame.rangetab f) (Frame.nrange f)
      let (s, image) : State × Option (List (BitVec 256)) :=
        if Frame.dictn f > 512 ∨ (Frame.dictn f ≠ 0 ∧ Frame.dict f % 32 ≠ 0) then (s, none)
        else s.readImage own d region (Frame.dict f) (Frame.dictn f)
      (s, .view ⟨va, f, table, image⟩)

/-! ## The checks of Table 10.2 -/

/-- The stack part of a member (R119 to R121): SBASE and STOP. -/
def stackPart (f : BitVec 2048) (g : VaRange) (member : Nat) : Nat × Nat :=
  let n := Frame.members f
  if n = 1 then (g.base, g.base + g.len)
  else
    let part := g.len / n / 64 * 64
    (g.base + member * part, g.base + (member + 1) * part)

/-- R119's conditions on a stack [lo, hi). -/
def stackSpanOk (f : BitVec 2048) (lo hi : Nat) : Bool :=
  hi % 16 = 0 && (lo + Frame.rsv f) % 16 = 0 && lo + Frame.rsv f < hi

/-- R119's conditions, on the range that the frame names and on the part that each member gets of it (R121). -/
def stackOk (f : BitVec 2048) (l : List RangeEnt) : Bool :=
  if Frame.stkidx f = 0 ∨ Frame.stkidx f > l.length then true
  else match (vaRanges l).find? fun g => g.idx = Frame.stkidx f with
    | none => false
    | some g =>
      let (lo, hi) := stackPart f g 0
      stackSpanOk f g.base (g.base + g.len) && stackSpanOk f lo hi

/-- What a frame inherits when it is spawned: its spawner's ranges, and the tensors of the lease (R391). -/
abbrev Inherited := Option (List VaRange × List Tensor)

/-- The tensors of lease `id`. -/
def State.leaseTensors (s : State) (id : Nat) : List Tensor :=
  (s.leases.find? fun l => l.id = id).elim [] (·.tensors)

/-- The lowest detail of Table 10.2 that a frame breaks. `inh` is what a spawned frame inherits; a dispatched
frame's range entries are judged at its grant (R388). [DEDUCED, unsafe: log 18] -/
def State.frameDetail (s : State) (asid : Nat) (inh : Inherited) (v : FrameView) : Option Nat :=
  let f := v.bits
  let w := Frame.w f
  let h := Frame.h f
  let l := v.table.getD []
  let spawned := inh.isSome
  if Frame.entry f % 32 ≠ 0 then some 1
  else if w > 6 ∨ (Frame.ew f = 0 ∧ Frame.eh f ≠ 0) ∨ (Frame.eh f = 0 ∧ Frame.ew f ≠ 0) ∨ Frame.ew f > 4 ∨
      Frame.eh f > 4 ∨ (Frame.ew f ≠ 0 ∧ (Frame.ex0 f + Frame.ew f > w ∨ Frame.ey0 f + Frame.eh f > h)) ∨
      (spawned ∧ w * h > 1) then some 2
  else if Frame.sp f 0 > 256 ∨ Frame.sp f 1 > 256 ∨ Frame.sp f 2 > 256 ∨ !stackOk f l then some 3
  else if Frame.nrange f > 6 ∨ Frame.stkidx f > Frame.nrange f ∨ Frame.ninit f > 8 ∨ Frame.reservedSet f then
    some 4
  else if (match inh with
      | some (rs, ts) => l.any fun e => s.rangeOk asid e && !e.inherits rs ts
      | none => false) then some 5
  else if v.image.isNone ∨ !s.saveAreaOk asid f then some 6
  else if Frame.contblk f % 64 ≠ 0 ∨ Frame.waitA f 0 % 8 ≠ 0 ∨ Frame.waitA f 1 % 8 ≠ 0 then some 7
  else if v.table.isNone ∨ (spawned ∧ !(l.all (s.rangeOk asid))) then some 8
  else none

/-! ## Scratchpad windows (R216, R219) -/

/-- The window sets on core `k` (R216, R271): task regions with sizes and bases, of the contexts' tasks,
their full banks and the parked sets. -/
def State.occupants (s : State) (k : Nat) : List (Nat × List Nat × List Nat) :=
  let own (c : Nat) : List (Nat × List Nat × List Nat) :=
    let x := s.ctx c
    let cur := if x.live then [(x.task.region, x.task.win, x.task.pbase)] else []
    let next := match x.bank with
      | some (.start t _) => [(t.region, t.win, t.pbase)]
      | some (.saved id m) => match s.saved.find? fun v => v.id = id with
        | some v => match v.members[m]? with
          | some y => if v.homes.getD m 0 = k ∧ (v.windows.getD m none).isNone then []
            else [(y.task.region, y.task.win, y.task.pbase)]
          | none => []
        | none => []
      | none => []
    cur ++ next
  let parked := s.saved.flatMap fun v =>
    ((v.members.zip v.windows).zip v.homes).filterMap fun p =>
      if p.1.1.busy ∧ p.2 = k ∧ p.1.2.isNone then some (p.1.1.task.region, p.1.1.task.win, p.1.1.task.pbase) else none
  own (2 * k) ++ own (2 * k + 1) ++ parked

/-- The lowest base at which `n` bytes fit in a group among windows already placed. -/
def fitGroup (taken : List (Nat × Nat)) (n : Nat) : Option Nat :=
  if n = 0 then some 0
  else
    let free (b : Nat) : Bool := b + n ≤ 0x10_0000 && taken.all fun p => p.2 = 0 || b + n ≤ p.1 || p.1 + p.2 ≤ b
    ((0 :: taken.map fun p => p.1 + p.2).mergeSort).find? free

/-- Bases for windows of the given sizes on core `k`, or none when they do not fit. [DEDUCED, unsafe: log 42] -/
def State.placeWindows (s : State) (k : Nat) (sizes : List Nat) : Option (List Nat) :=
  (List.range 3).mapM fun g =>
    fitGroup ((s.occupants k).map fun o => (nth0 o.2.2 g, nth0 o.2.1 g)) (nth0 sizes g)

/-- The launches whose reservations want core `k`, with the reservation; one that has failed holds nothing. -/
def State.reserving (s : State) (k : Nat) : List (Launch × Reservation) :=
  s.reservations.filterMap fun r =>
    if r.waiting || !r.coresWanted.contains k then none
    else (s.launches.find? fun l => l.die = r.die && l.ticket = r.ticket).map fun l => (l, r)

/-- Whether the ceilings SPADA, SPADB and SPADC of a region and its ancestors leave room on core `k`, beside what launches
that the core has committed will place there (R34). -/
def State.spadRoom (s : State) (k region : Nat) (sizes : List Nat) : Bool :=
  let soon := ((s.reserving k).filter fun p => p.2.committed ≠ []).map fun p => (p.1.region, Frame.sizes p.1.frameBits)
  let all := ((s.occupants k).map fun o => (o.1, o.2.1)) ++ soon
  (s.lineage 8 region).all fun a => (List.range 3).all fun g =>
    ((all.filter fun o => s.within a o.1).map fun o => nth0 o.2 g).sum + nth0 sizes g ≤ 1024 * s.effSpad a g

/-- The bytes of newly placed windows are unknown again (Table 8.2). -/
def State.clearWindows (s : State) (k : Nat) (sizes bases : List Nat) : State :=
  let inside (a : Nat) : Bool := (List.range 3).any fun g =>
    0x10_0000 * g + nth0 bases g ≤ a && a < 0x10_0000 * g + nth0 bases g + nth0 sizes g
  s.modCore k fun x => { x with spad := x.spad.filter fun p => !inside p.1 }

/-! ## Cores held (R25, R30) -/

/-- The task that stands in a full bank, to start or to resume. -/
def State.bankTask (s : State) (c : Nat) : Option Task :=
  match (s.ctx c).bank with
  | some (.start t _) => some t
  | some (.saved k m) => (s.saved.find? fun v => v.id = k).map fun v => (v.members.getD m {}).task
  | none => none

/-- The cores on which a task of the subtree of `a` runs, stands in a bank or is being placed.
[DESIGN CHOICE, unsafe: log 106] -/
def State.coresOf (s : State) (a : Nat) : List Nat :=
  (List.range Config.cores).filter fun k =>
    ([2 * k, 2 * k + 1].any fun c =>
      let x := s.ctx c
      (x.busy && s.within a x.task.region) || (s.bankTask c).any fun t => s.within a t.region) ||
    (s.reserving k).any fun p => s.within a p.1.region

/-- Whether the region and its ancestors may hold the cores `ks` too. [DEDUCED, unsafe: log 39] -/
def State.coresRoom (s : State) (region : Nat) (ks : List Nat) : Bool :=
  (s.lineage 8 region).all fun a =>
    let held := s.coresOf a
    held.length + (ks.filter fun k => !held.contains k).length ≤ s.effCores a

/-- CORESHELD, LEASESHELD and SPILLHELD of every region, counted anew (Table 1.6).
[DESIGN CHOICE, unsafe: log 106] -/
def State.recount (s : State) : State :=
  s.liveRegions.foldl (fun s r =>
    let cores := ((List.range Config.cores).filter fun k =>
      [2 * k, 2 * k + 1].any fun c => (s.ctx c).busy && (s.ctx c).task.region = r).length
    let all := s.ctxs.map (·.2) ++ s.saved.flatMap (·.members)
    let spills := (all.flatMap fun x => x.spill.filter fun e => e.region = r).length
    s.modRegion r fun x => { x with
      coresheld := BitVec.ofNat 16 cores
      leasesheld := BitVec.ofNat 16 (s.leases.filter fun l => l.region = r).length
      spillheld := BitVec.ofNat 13 spills }) s

/-! ## Leases come back (R33, R392) -/

/-- One holder less; the last one of a lease that no record holds returns it with its pins. -/
def State.dropLease (s : State) (id : Nat) : State :=
  match s.leases.find? fun l => l.id = id with
  | none => s
  | some l =>
    if l.holders ≤ 1 ∧ l.record = none then
      ({ s with
        leases := s.leases.filter fun x => x.id ≠ id
        pins := l.pages.foldl (fun t p =>
          let key := p.1 * 2 ^ 57 + p.2.1
          Tab.set 0 t key (Tab.get 0 t key - 1)) s.pins } : State).recount
    else s.modLease id fun x => { x with holders := x.holders - 1 }

/-! ## A first start (R297) -/

/-- The architectural state of member `m` at launch. -/
def freshArch (f : BitVec 2048) (frame : Nat) (ranges : List VaRange) (image : List (BitVec 256)) (m : Nat) :
    Arch :=
  let sp : Nat × Nat := match ranges.find? fun g => g.idx = Frame.stkidx f with
    | some g => if Frame.stkidx f = 0 then (0, 0) else
      let (lo, hi) := stackPart f g m
      (hi, lo + Frame.rsv f)
    | none => (0, 0)
  let s0 : Tab Word := (List.range (Frame.ninit f)).foldl (fun t k => Tab.set 0 t (k + 1) (Frame.sinit f (k + 1))) []
  let top := BitVec.ofNat 64 sp.1
  { s := Tab.set 0 (Tab.set 0 s0 30 top) 31 top
    cr := Tab.set 0 (Tab.set 0 (Tab.set 0 [] 2 (BitVec.ofNat 64 (sp.2 / 8 * 8))) 3 (Frame.trapvec f &&& ~~~0x1F))
      0x20 (BitVec.ofNat 64 frame)
    pc := Frame.entry f
    dict := (List.range image.length).foldl (fun t k => Tab.set none t k image[k]?) []
    seed := Frame.seed f
    stream := Frame.stream f
    lane := BitVec.ofNat 32 m }

/-- The task that a frame describes, before it has a place. -/
def frameTask (f : BitVec 2048) (frame uid ticket region lease : Nat) (det : Bool) (ranges : List VaRange)
    (tensors : List Tensor) : Task :=
  { uid := uid, frame := BitVec.ofNat 64 frame, ticket := ticket, region := region, det := det
    pred := Frame.predmap f, win := Frame.sizes f, w := Frame.w f, h := Frame.h f
    ex0 := Frame.ex0 f, ey0 := Frame.ey0 f, ew := Frame.ew f, eh := Frame.eh f
    cnode := Frame.cnode f, parent := Frame.parent f, contblk := Frame.contblk f
    saveArea := Frame.savearea f, lease := lease, ranges := ranges, tensors := tensors }

/-- A context begins a task, whose windows have been placed: an implicit checkpoint, with nothing in flight (R255,
R282). -/
def State.beginTask (s : State) (c : Nat) (t : Task) (a : Arch) : State :=
  (s.modCtx c fun x =>
    ({ st := .run, task := t, a := a, cap := a, regionPc := a.pc, deque := x.deque, spill := x.spill,
       bank := x.bank } : Ctx)).recount

/-! ## Continuations (R316, R318) -/

/-- The state that a continuation block restores, beside what R134 gives (Table 10.4). -/
def contArch (f : BitVec 2048) (frame : Nat) (b : BitVec 1536) (image : List (BitVec 256)) : Arch :=
  let w (lo : Nat) : Word := b.extractLsb' lo 64
  let pop := b.extractLsb' 1472 48
  let cr : Tab Word :=
    [(2, w 1152 &&& ~~~0x7), (3, w 1216 &&& ~~~0x1F), (5, w 1280 &&& 0xFFFF),
      (0x20, BitVec.ofNat 64 frame), (0x21, w 1344), (0x22, (b.extractLsb' 1424 16).setWidth 64)].foldl (fun t p => Tab.set 0 t p.1 p.2) []
  { s := (List.range 16).foldl (fun t k => Tab.set 0 t (16 + k) (w (64 * k))) []
    c := (List.range 4).foldl (fun t k => Tab.set false t (4 + k) (b.getLsbD (1408 + k))) []
    b := Tab.set 0 [] 3 (w 1088)
    cr := cr
    pc := w 1024
    dict := (List.range image.length).foldl (fun t k => Tab.set none t k image[k]?) []
    seed := Frame.seed f
    stream := Frame.stream f
    lane := b.extractLsb' 1440 32
    popcnt := pop
    nextBlock := BitVec.ofNat 64 (pop.toNat / 2)
    skipWord := pop.toNat % 2 = 1 }

/-! ## Completion of a task (R317, R320, R39) -/

/-- An entry goes onto a region's overflow queue (R314). -/
def State.pushOverflow (s : State) (e : DqEnt) : State :=
  { s with overflow := Tab.set [] s.overflow e.region (Tab.get [] s.overflow e.region ++ [e]) }

/-- The decrement of PARENT's join counter (R317) by context `c`, or by the launch unit. -/
def State.decParent (s : State) (c : Option Nat) (region : Nat) (parent : Word) : State :=
  let asid := s.asidOf region
  if parent = 0 then s
  else match s.vaPa asid (joinPa parent.toNat) with
    | none => s
    | some pa =>
      let s := s.walkReads region asid (joinPa parent.toNat)
      let s := match c with | some c => s.l1Yield (coreOf c) (pa / 128) | none => s
      let (s, b) := s.readHome region .normal pa 8
      let w := ofBytes b
      if w % 2 ^ 32 = 0 then s.post region ev.joinunder 0 parent.toNat
      else
        let w := w - 1
        if w % 2 ^ 32 = 0 ∧ bitN w 32 then
          let s := s.writeHome region .normal pa (bytesOf 8 (w - 2 ^ 32 + (if bitN w 33 then 0 else 2 ^ 33)))
          let e : DqEnt := match s.suspended.find? fun u => u.asid = asid && u.frame = parent with
            | some u => ⟨parent, w / 2 ^ 48, w / 2 ^ 34 % 4096, u.lease, u.ranges, u.tensors, some u.det⟩
            | none => ⟨parent, w / 2 ^ 48, w / 2 ^ 34 % 4096, 0, [], [], none⟩
          let s := { s with suspended := s.suspended.filter fun u => !(u.asid = asid && u.frame = parent) }
          match c with
          | some c => s.modCtx c fun x => { x with deque := x.deque ++ [e] }
          | none => s.pushOverflow e
        else s.writeHome region .normal pa (bytesOf 8 w)

def State.taskDone (s : State) (region : Nat) : State :=
  s.modRegion region fun x => { x with tasksdone := x.tasksdone + 1 }

/-- A task retires without having been launched (R31, R296, R389). `keepUnder` is R31's exception. -/
def State.retireUnlaunched (s : State) (region : Nat) (parent cnode : Word) (keepUnder : Bool) : State :=
  ((s.decParent none region parent).complete region cnode.toNat keepUnder).taskDone region

/-- BADFRAME (R296). -/
def State.badFrame (s : State) (region detail ticket frame : Nat) : State :=
  s.post region ev.badframe detail ticket frame

/-- A frame whose bytes are uncorrectable (R296). -/
def State.frameData (s : State) (region ticket frame : Nat) : State :=
  let r : FaultRec := ⟨0x08, 15, 0, 0, BitVec.ofNat 64 frame, 0⟩
  (s.postFault region ticket (r.word0 false false false 0 region) r.pc r.r2 r.r3 (BitVec.ofNat 64 frame)
    false).domainEvent region |>.taskDone region

/-! ## Starting a deque entry (R308, R312, R318) -/

/-- How the start of an entry ends: it runs, it is gone (retired or discarded), or it waits for windows or cores (Table
1.5). -/
inductive Start where
  | started | gone | waits
  deriving DecidableEq, Repr

/-- A 192-byte continuation block. -/
def State.readCont (s : State) (d region va : Nat) : State × Option (BitVec 1536) :=
  let (s, a) := s.launchRead d region va 64
  let (s, b) := s.launchRead d region (va + 64) 64
  let (s, c) := s.launchRead d region (va + 128) 64
  match a, b, c with
  | .bytes a, .bytes b, .bytes c => (s, some (BitVec.ofNat 1536 (ofBytes (a ++ b ++ c))))
  | _, _, _ => (s, none)

/-- A popped or stolen entry starts in context `c`. One that a ceiling keeps out waits in its deque, however low the ceiling
is. [DESIGN CHOICE, unsafe: log 107] -/
def State.startEntry (s : State) (c : Nat) (e : DqEnt) : State × Start :=
  let d := dieOf c
  let k := coreOf c
  let asid := s.asidOf e.region
  let va := e.frame.toNat
  if (s.region e.region).isNone then (s.dropLease e.lease, .gone)
  else
    let (s, seen) := s.readFrame false d e.region va
    match seen with
    | .bad => ((s.frameData e.region e.ticket va).dropLease e.lease, .gone)
    | .unreadable => (((s.badFrame e.region 1 e.ticket va).taskDone e.region).dropLease e.lease, .gone)
    | .view v =>
      let f := v.bits
      match s.frameDetail asid (some (e.ranges, s.leaseTensors e.lease)) v with
      | some x =>
        (((s.badFrame e.region x e.ticket va).retireUnlaunched e.region (Frame.parent f) (Frame.cnode f)
          false).dropLease e.lease, .gone)
      | none =>
        match s.placeWindows k (Frame.sizes f) with
        | none => (s, .waits)
        | some bases =>
          if !s.spadRoom k e.region (Frame.sizes f) || !s.coresRoom e.region [k] then (s, .waits)
          else
            let l := v.table.getD []
            let own := Frame.nrange f ≠ 0
            let t := frameTask f va s.nextTask e.ticket e.region e.lease (e.det.getD (s.effDet e.region))
              (if own then vaRanges l else e.ranges) (if own then childTensors l (s.leaseTensors e.lease) else e.tensors)
            let t := { t with pbase := bases, die := d, ox := colOf k, oy := rowOf k }
            let image := v.image.getD []
            let (s, a) : State × Option Arch :=
              if Frame.resume f then
                let s := match s.vaPa asid (joinPa va) with
                  | some pa => (s.walkReads e.region asid va).homeUpdate e.region pa 8 fun w => if bitN w 33 then w - 2 ^ 33 else w
                  | none => s
                let (s, b) := s.readCont d e.region (Frame.contblk f).toNat
                (s, b.map fun b => contArch f va b image)
              else (s, some (freshArch f va t.ranges image 0))
            match a with
            | none => ((s.frameData e.region e.ticket va).dropLease e.lease, .gone)
            | some a =>
              let s := { s with nextTask := s.nextTask + 1 }
              (((s.acquire c .module pathsUoCp).clearWindows k t.win t.pbase).beginTask c t a, .started)

/-- The ring's newest entries move back into an empty hardware deque (R308). -/
def Ctx.refill (x : Ctx) : Ctx :=
  if x.deque.isEmpty then
    let n := x.spill.length - Nat.min 16 x.spill.length
    { x with deque := x.spill.drop n, spill := x.spill.take n }
  else x

/-- A context's deque unit reads or writes 16 entries of its spill ring, for the region that it serves (R304, R338).
[DESIGN CHOICE, safe: log 97] -/
def State.ringTraffic (s : State) (c : Nat) (write : Bool) : State :=
  match (s.ctx c).spill.getLast? with
  | none => s
  | some e =>
    let pa := Config.spillRing c % 2 ^ 24 * 0x8000 + ((s.ctx c).spill.length - 1) / 16 % 256 * 128
    if write then s.sliceWrite e.region .normal (pa / 128) (BitVec.allOnes 128)
    else s.sliceRead e.region .normal (pa / 128) (BitVec.allOnes 128)

/-- The refill of an empty hardware deque. -/
def State.refillDeque (s : State) (c : Nat) : State :=
  (if (s.ctx c).deque.isEmpty then s.ringTraffic c false else s).modCtx c Ctx.refill

/-- Pop entries from the bottom until one starts or waits. `fuel` is their number. -/
def State.popEntries (s : State) (c : Nat) : Nat → State
  | 0 => s
  | n + 1 =>
    let s := s.refillDeque c
    match (s.ctx c).deque.getLast? with
    | none => s
    | some e =>
      let (s, r) := (s.modCtx c fun x => { x with deque := x.deque.dropLast }).startEntry c e
      match r with
      | .started => s
      | .gone => s.popEntries c n
      | .waits => s.modCtx c fun x => { x with deque := x.deque ++ [e] }

/-! ## Swap-in (R255, R273, R297) -/

/-- The context of a saved member comes back at its own place, with its windows' bytes (R271, R273); one whose stolen frame
went back to its deque has only that (R312). -/
def State.restoreSaved (s : State) (c k m : Nat) : State :=
  match s.saved.find? fun v => v.id = k with
  | none => s
  | some v =>
    match v.members[m]? with
    | none => s
    | some y =>
      let core := coreOf c
      let t := { y.task with
        die := dieOf c
        ox := colOf core - m % y.task.w, oy := rowOf core - m / y.task.w }
      let s := s.modCtx c fun x =>
        if y.taken.isSome then { st := .idle, deque := y.deque, spill := y.spill, bank := x.bank }
        else { y with task := t, bank := x.bank, preempt := false, st := if y.a.trap.isSome then .trap else .run }
      let s := match v.windows.getD m none with
        | some l =>
          let s := s.clearWindows core t.win t.pbase
          (List.range 3).foldl (fun (s : State) g => s.spadWrite c (0x10_0000 * g) (l.getD g [])) s
        | none => s
      let members := v.members.set m {}
      let v := { v with members := members }
      let all := members.all fun x => !x.busy
      ({ s with
        saved := if all then s.saved.filter fun (x : Saved) => x.id ≠ k
          else s.saved.map fun (x : Saved) => if x.id = k then v else x } : State).recount

/-- A full bank swaps in. A resumption is an acquire too: the context reads what it would have read (R273).
[DEDUCED, unsafe: log 33] -/
def State.swapIn (s : State) (c : Nat) : State :=
  match (s.ctx c).bank with
  | none => s
  | some b =>
    let s := s.modCtx c fun x => { x with bank := none }
    match b with
    | .start t a => (s.acquire c .fabric pathsUoCp).beginTask c t a
    | .saved k m => (s.acquire c .fabric pathsUoCp).restoreSaved c k m

/-- The other context of the core of `c`. -/
def partner (c : Nat) : Nat := if c % 2 = 0 then c + 1 else c - 1

/-- A rerun on its core, or the core's retirement, keeps context `c` from issuing (R287, R289). -/
def State.frozen (s : State) (c : Nat) : Bool := (s.ctx (partner c)).rerun.isSome || (s.core (coreOf c)).stopped

/-- The other context of a core leaves HELD (R287). -/
def State.unhold (s : State) (c : Nat) : State :=
  s.modCtx c fun x => match x.st with
    | .held inTrap => { x with st := if inTrap then .trap else .run }
    | _ => x

/-- The closing checkpoint of reruns that have agreed issues: the rerun is over, and the other context leaves HELD
(R287). -/
def State.endRerun (s : State) (c : Nat) : State :=
  if (s.ctx c).rerun.any fun r => r.phase = 3 then
    (s.modCtx c fun x => { x with rerun := none }).unhold (partner c)
  else s

/-- What an IDLE context with nothing left of its last task does next (R308): its own deque and ring, then
its bank. -/
def State.startNext (s : State) (c : Nat) : State :=
  let x := s.ctx c
  if x.live || s.frozen c then s
  else
    let s := if x.deque.isEmpty ∧ x.spill.isEmpty then s
      else (s.popEntries c (x.deque.length + x.spill.length)).recount
    let x := s.ctx c
    if x.live ∨ !x.deque.isEmpty ∨ !x.spill.isEmpty then s else s.swapIn c

/-- A context leaves its task: it becomes IDLE and keeps its deque, its bank, and what was released or handed
to an engine (Table 8.2). [DEDUCED, unsafe: log 43] -/
def State.leaveTask (s : State) (c : Nat) : State :=
  (s.modCtx c fun x =>
    ({ st := .idle, task := x.task, deque := x.deque, spill := x.spill, bank := x.bank, q0 := x.q0, q1 := x.q1,
       rel := x.rel, seq := x.seq, retry := x.retry } : Ctx)).recount

end Sys2Proof.Machine
end

