-- ==== Sys2Proof/Machine/Flags.lean ====
section
/-! DEFINITION. Machine/Flags.lean: the counting flags (spec/08_scratchpad_and_copy.md R246 to R252) and the
packed condition flags (spec/03 R91). The status flags of arithmetic are Float.lean's `St`. -/

namespace Sys2Proof.Machine

/-! ## Counting flags -/

def Arch.flag (a : Arch) (k : Nat) : BitVec 16 := Tab.get 0 a.f k
def Arch.setFlag (a : Arch) (k : Nat) (v : BitVec 16) : Arch := { a with f := Tab.set 0 a.f k v }

/-- A local change (R246). -/
def State.addFlag (s : State) (k n : Nat) : State :=
  s.modArch s.cur.ctx fun a => a.setFlag k (a.flag k + BitVec.ofNat 16 n)

def State.subFlag (s : State) (k n : Nat) : State :=
  s.modArch s.cur.ctx fun a => a.setFlag k (a.flag k - BitVec.ofNat 16 n)

/-- An arrival (R247): it also counts toward a rollback (Table 8.6). -/
def Ctx.arrive (x : Ctx) (k : Nat) : Ctx :=
  { x with
    a := x.a.setFlag k (x.a.flag k + 1)
    arrived := Tab.set 0 x.arrived k (Tab.get 0 x.arrived k + 1) }

/-- Whether FWAIT's or FBAR's condition holds. -/
def State.flagMet (s : State) (k n : Nat) : Bool := n ≤ (s.here.a.flag k).toNat

/-- The member that FPOST names (R251), if the cluster has it: absolute, or relative to the issuer. -/
def Task.postMember (t : Task) (m : Nat) : Option Nat := if m < t.w * t.h then some m else none

def Task.postRel (t : Task) (dx dy : BitVec 3) : Option Nat :=
  let x := (t.member % t.w : Nat) + dx.toInt
  let y := (t.member / t.w : Nat) + dy.toInt
  if 0 ≤ x ∧ x < t.w ∧ 0 ≤ y ∧ y < t.h then some (y.toNat * t.w + x.toNat) else none

/-! ## Condition flags in one word (R91) -/

/-- c7 to c0 in bits 7 to 0. -/
def Arch.packFlags (a : Arch) : Word := BitVec.ofNat 64 (packN 1 ((List.range 8).map fun k => (Tab.get false a.c k).toNat))

end Sys2Proof.Machine
end

