-- ==== Sys2Proof/Machine/Trap.lean ====
section
/-! DEFINITION. Machine/Trap.lean: taking an exception and returning from one, the end of a task by a fault,
checkpoint captures and rollback (spec/09_contexts_and_espaliers.md R274 to R288). -/

namespace Sys2Proof.Machine

/-! ## Captures (R282, R283) -/

/-- Step 5 of R283: the capture, with the region that it opens. -/
def Ctx.capture (x : Ctx) (mid : Bool) : Ctx :=
  { x with
    cap := x.a, capMid := mid, arrived := [], capSeq := x.seq, regionPc := x.a.pc, regionCount := mid.toNat
    regionNo := x.regionNo + 1 }

/-- A task's window bytes on its core, by group × 1 MiB and logical offset. -/
def State.windowBytes (s : State) (c : Nat) : Tab (Option Byte) :=
  let t := (s.ctx c).task
  (s.core (coreOf c)).spad.filterMap fun p =>
    let g := p.1 / 0x10_0000
    let off := p.1 % 0x10_0000
    let b := nth0 t.pbase g
    if b ≤ off ∧ off < b + nth0 t.win g then some (0x10_0000 * g + (off - b), p.2) else none

/-- Context `c` as `f` leaves it is captured (R283 step 5), with its windows' contents (Table 8.2). -/
def State.capture (s : State) (c : Nat) (f : Ctx → Ctx) (mid : Bool) : State :=
  let w := s.windowBytes c
  s.modCtx c fun x =>
    let y := (f x).capture mid
    { y with cap := { y.cap with spad := w } }

/-! ## Taking an exception (R275 to R277) -/

/-- The fault record registers (Table 9.4, Table 3.12 numbers 8 to 11). -/
def Arch.putRecord (a : Arch) (w0 : Word) (f : FaultRec) : Arch :=
  { a with cr := Tab.set 0 (Tab.set 0 (Tab.set 0 (Tab.set 0 a.cr 8 w0) 9 f.pc) 10 f.r2) 11 f.r3 }

/-- Whether context `c` takes a fault under a handler (R266, R276, R280). -/
def State.hasHandler (s : State) (c : Nat) : Bool :=
  let x := s.ctx c
  decide (x.st = .run) && !x.task.inEsp && decide ((Tab.get 0 x.a.cr 3) >>> 5 ≠ 0)

/-- Trap entry of context `c` with record `f`, to resume at `epc`. A checkpoint bundle that had performed steps 1 and 2 has
released its region, so that nothing before the handler may be performed again: the handler's start is captured, as a
checkpoint would be (R283, R287). [DEDUCED, unsafe: log 104] -/
def State.enterTrap (s : State) (c : Nat) (f : FaultRec) (epc : Word) : State :=
  let w0 := s.recWord0 c f (s.ctx c).a.pending.isSome false
  let s := s.finishArray c
  let opened := (s.ctx c).released
  let enter (x : Ctx) : Ctx :=
    let a := x.a.putRecord w0 f
    { x with
      st := .trap
      fresh := true
      released := false
      reply := if opened then none else x.reply
      a := { a with
        cr := Tab.set 0 a.cr 4 epc
        trap := some ⟨a.pending, a.delay, a.loops, a.latches, a.flight, if opened then some a.pc else none⟩
        pending := none
        delay := 0
        loops := []
        latches := []
        flight := []
        pc := (Tab.get 0 a.cr 3) &&& ~~~0x1F } }
  let s := if opened then s.capture c enter false else s.modCtx c enter
  if f.cls = 0x08 then
    let t := (s.ctx c).task
    (({ s with dataFaults := s.dataFaults + 1 } : State).postFault t.region t.ticket w0 f.pc f.r2 f.r3 t.frame
      true).domainEvent t.region
  else s

/-- A member whose task a fault ends: it stops, and what is held is discarded with what it still waited for. -/
def Ctx.stopByFault (x : Ctx) : Ctx :=
  { x with
    ending := some .fault, exited := false, cbuf := [], past := [], loads := [], asked := none, deferred := [], feed := []
    rerun := none, preempt := false }

/-- Members that stand in a bank never start: their task has ended. -/
def State.dropShadows (s : State) (uid : Nat) : State :=
  let gone := (s.saved.filter fun v => v.members.any fun x => x.busy && x.task.uid = uid).map (·.id)
  { s with
    saved := s.saved.filter fun v => !gone.contains v.id
    ctxs := Tab.mapVals {} s.ctxs fun x => match x.bank with
      | some (.start t _) => if t.uid = uid then { x with bank := none } else x
      | some (.saved k _) => if gone.contains k then { x with bank := none } else x
      | none => x }

/-- The task of context `c` ends by a fault: every member stops, held effects are discarded, and the record is posted
(R266, R276, R279, R280). What the members had released is performed before the task retires (R39, R219).
[DEDUCED, unsafe: log 14] -/
def State.endByFault (s : State) (c : Nat) (f : FaultRec) : State :=
  let x := s.ctx c
  let t := x.task
  let w0 := s.recWord0 c f x.a.pending.isSome (decide (x.st = .trap))
  let s := (s.holders t.uid).foldl (fun (s : State) m =>
    (if (s.ctx m).rerun.isSome then s.unhold (partner m) else s).modCtx m Ctx.stopByFault) (s.dropShadows t.uid)
  let s := if f.cls = 0x08 then { s with dataFaults := s.dataFaults + 1 } else s
  let s := s.postFault t.region t.ticket w0 f.pc f.r2 f.r3 t.frame false
  if f.cls = 0x08 then s.domainEvent t.region else s

/-- A fault of context `c`, to resume at its PC: that of the suppressed bundle (R276), or for TRAP the one that
follows it (R277). [DEDUCED, unsafe: log 13; DEDUCED, unsafe: log 14] -/
def State.takeFault (s : State) (c : Nat) (f : FaultRec) : State :=
  if s.hasHandler c then s.enterTrap c f (s.ctx c).a.pc else s.endByFault c f

/-! ## Returning (R278) -/

/-- Whether results of the handler are still in flight. -/
def Ctx.handlerBusy (x : Ctx) : Bool := !x.a.flight.isEmpty || !x.a.mflight.isEmpty || !x.a.drains.isEmpty

/-- What ERET restores; the bundle after it issues at EPC. -/
def Arch.eret (a : Arch) : Arch :=
  match a.trap with
  | none => a
  | some t =>
    { a with
      pending := t.pending, delay := t.delay, loops := t.loops, latches := t.latches, flight := t.flight, trap := none }

/-- The handler's first bundle has not issued. -/
def Ctx.firstOfHandler (x : Ctx) : Bool := x.fresh && decide (x.st = .trap)

/-! ## Captures and rollback (R282 to R288) -/

/-- A capture with the flags' arrivals since laid over it (Table 8.6). -/
def withArrivals (cap : Arch) (arrived : Tab (BitVec 16)) : Arch :=
  { cap with f := arrived.foldl (fun t p => Tab.set 0 t p.1 (Tab.get 0 t p.1 + p.2)) cap.f }

/-- Arrivals of two regions together. -/
def addArrivals (a b : Tab (BitVec 16)) : Tab (BitVec 16) :=
  b.foldl (fun t p => Tab.set 0 t p.1 (Tab.get 0 t p.1 + p.2)) a

/-- The registers that a rollback leaves: the fault record (Table 3.2). -/
def Arch.keepRecord (a now : Arch) : Arch :=
  { a with cr := [8, 9, 10, 11].foldl (fun t n => Tab.set 0 t n (Tab.get 0 now.cr n)) a.cr }

/-- The region is confirmed, and the context stands at its closing checkpoint or at its end: where it stands is its last
good checkpoint, and nothing of the region is performed again (R283). -/
def Ctx.closed (x : Ctx) : Bool := x.past.isEmpty && (x.released || x.ending.isSome || x.exited)

/-- The context goes back to its last good checkpoint (R287): the oldest region that not every member of its
espalier has confirmed, or the open one. [DEDUCED, unsafe: log 15; DEDUCED, unsafe: log 29] -/
def Ctx.rollback (x : Ctx) : Ctx :=
  if x.closed then { x with st := if x.a.trap.isSome then .trap else .run, step := 0, feed := [] }
  else
  let (cap, arrived, capSeq, reply) : Arch × Tab (BitVec 16) × Nat × Option Reply :=
    match x.past with
    | p :: ps => (p.cap, (ps.map (·.arrived) ++ [x.arrived]).foldl addArrivals p.arrived, p.capSeq, p.reply)
    | [] => (x.cap, x.arrived, x.capSeq, x.reply)
  { x with
    st := if cap.trap.isSome then .trap else .run
    a := (withArrivals cap arrived).keepRecord x.a
    cap := cap
    arrived := arrived
    capSeq := capSeq
    seq := capSeq
    reply := reply
    regionPc := cap.pc
    regionNo := if x.past.isEmpty then x.regionNo else x.regionNo + x.released.toNat - x.past.length
    loads := []
    cbuf := []
    past := []
    asked := none
    deferred := x.deferred.filter fun f => f.1 ≤ capSeq
    q0 := x.q0.filter fun m => m.seq < capSeq
    q1 := x.q1.filter fun m => m.seq < capSeq
    released := false
    replay := x.capMid || !x.past.isEmpty
    fresh := false
    ending := none
    exited := false
    step := 0
    feed := []
    wake := none
    regionCount := 0 }

/-- The registers of the signature's second input (R288), bytes lowest first. -/
def Arch.signed (a : Arch) : List Byte :=
  (List.range 32).flatMap (fun k => bytesOf 8 (Tab.get 0 a.s k).toNat) ++
  bytesOf 1 a.packFlags.toNat ++
  (List.range 4).flatMap (fun k => bytesOf 8 (Tab.get 0 a.b k).toNat) ++
  (List.range 6).flatMap (fun k => bytesOf 4 (Tab.get 0 a.i k).toNat) ++
  (List.range 16).flatMap (fun k => bytesOf 2 (a.flag k).toNat) ++
  bytesOf 8 (Tab.get 0 a.cr 1).toNat

/-- A commit-buffer entry as numbers, for its internal form. -/
def Eff.numbers : Eff → List Nat
  | .store va d _ _ _ _ => 1 :: va.toNat :: d.map fun b => match b with | some x => x.toNat | none => 256
  | .upd op va v _ => [2, op.ctorIdx, va.toNat, v.toNat]
  | .ordered fp va v t _ _ => [3, fp.toNat, va.toNat, v.toNat, t]
  | .copy eng m => [4, eng, m.op, m.src.toNat, m.drec.toNat, m.flag, m.pri.toNat, m.xord.toNat] ++ m.words.map (·.toNat)
  | .qpush cap r tk _ => [5, cap.toNat, r.toNat] ++ tk.toList
  | .spawn f t parent _ => [6, f.toNat, t, parent.toNat]
  | .invl asid all va n _ => [7, asid, all.toNat, va.toNat, n.toNat]
  | .fpost flag m _ => [8, flag, m]
  | .ordWait | .invlWait .. | .pushWait .. => []

/-- The signature of a run at its closing checkpoint (R288). [DEDUCED, unsafe: log 35] -/
def Ctx.signature (x : Ctx) : BitVec 32 :=
  crc32c (x.cbuf.flatMap (fun e => Config.internalForm e.numbers) ++ x.a.signed)

end Sys2Proof.Machine
end

