-- ==== Sys2Proof/Machine/Act.lean ====
section
/-! DEFINITION. Machine/Act.lean: how a slot acts: nullified, with its effect, or with the fault that it raises
(spec/09_contexts_and_espaliers.md R258, R259, R276); what results it delivers (spec/02 R52, R55, R56); bundle
fetch (spec/02 R43, spec/13 R395); and control transfer (spec/03 R107 to R113). -/

namespace Sys2Proof.Machine

/-- The three outcomes of a step of this machine. -/
abbrev Outcome := Host.Outcome State Fault Refusal

/-! ## Random words (R150 to R153) -/

/-- A word leaves the RBQ. -/
def Arch.popWord (a : Arch) : Arch := { a with rbq := a.rbq.tail, popcnt := a.popcnt + 1 }

def State.popWord (s : State) : State := s.modArch s.cur.ctx Arch.popWord

/-- The word that an instruction of the bundle pops next. -/
def State.randWord (s : State) : Word := s.here.a.rbq.headD 0

/-! ## A slot's outcome -/

/-- A slot acts. A nullified one pops the word that it would have popped and does nothing else (R259). A fault is
taken, and noted for the bundle (R276). -/
def State.slot (s : State) (i : Instr) (r : Res State) : Outcome :=
  if s.nullified s.cur.slot i then .next (if popsWord i then s.popWord else s)
  else match r with
    | .ok t => .next t
    | .error f =>
      let t := s.takeFault s.cur.ctx f
      .next { t with cur := { t.cur with raised := some f } }

/-- Two results, or the fault of the one with the lower detail, whatever its class; of equals the first's (R54).
[DEDUCED, unsafe: log 103] -/
def Res.both {α β : Type} (x : Res α) (y : Res β) : Res (α × β) :=
  match x, y with
  | .ok a, .ok b => .ok (a, b)
  | .error f, .error g => .error (if g.detail < f.detail then g else f)
  | .error f, .ok _ => .error f
  | .ok _, .error g => .error g

/-- Checks of a slot that may fail together: of those that do, the one with the lowest detail, the first of equals (R54).
[DEDUCED, unsafe: log 103] -/
def Res.lowest : List (Res Unit) → Res Unit
  | [] => .ok ()
  | x :: l => match Res.both x (Res.lowest l) with
    | .ok _ => .ok ()
    | .error f => .error f

/-! ## Results -/

/-- The write of an s register by a destination field; a suppressed one writes none (R52). -/
def Dst.wr (d : Dst) (v : Word) : List Wr :=
  match d with
  | .reg n => [.s n.toNat v]
  | _ => []

/-- A result of slot `u` (0 S, 3 X) bound for an s register that also enters the slot's latch (R56). -/
def State.putS (s : State) (u : Nat) (d : Dst) (left : Nat) (v : Word) (status : Word := 0) : State :=
  s.push left (Dst.wr d v) (some (u, ⟨64, v.setWidth 1024⟩)) status

/-- A result bound for an s register that enters no latch. -/
def State.putQuiet (s : State) (d : Dst) (left : Nat) (v : Word) : State := s.push left (Dst.wr d v)

/-- A flag result (R83). -/
def State.putFlag (s : State) (d : BitVec 6) (v : Bool) (status : Word := 0) : State :=
  s.push 1 [.c (d.toNat % 8) v] none status

/-- The register that an interlocked result is written to. -/
def Dst.num : Dst → Nat
  | .reg n => n.toNat
  | _ => 32

/-! ## Bundle fetch (R43, R395) -/

/-- The 256 bits at a PC as they stand, with no effect on the caches. -/
def State.peekBundle (s : State) (c : Nat) (pc : Word) : Option (BitVec 256) :=
  let va := pc.toNat / 32 * 32
  if va ≥ 2 ^ 57 then none
  else (s.peekPa (coreOf c) (s.asidAt c) va).map fun pa => BitVec.ofNat 256 (s.homeNat pa 32)

/-- The sequential successor of a PC whose 256 bits are known. -/
def succIn (w : BitVec 256) (pc : Word) : Word :=
  if isPacket w ∧ pc.toNat % 32 + 1 < tokenCount w then pc + 1 else (pc &&& ~~~0x1F) + 32

/-- The sequential successor of a PC (R43); unreadable bits are taken as a full bundle's. -/
def State.succOf (s : State) (pc : Word) : Word :=
  match s.peekBundle s.cur.ctx pc with
  | some w => succIn w pc
  | none => (pc &&& ~~~0x1F) + 32

/-! ## Control transfer -/

/-- R108: a control-flow instruction in a delay position is ILLEGAL 0x11, after lower details of its slot (R54, R131).
[DEDUCED, unsafe: log 103] -/
def State.control (s : State) (r : Res State) : Res State :=
  if s.here.a.delay = 0 then r
  else match r with
    | .error f => if f.detail < 0x11 then r else .error (s.illegal 0x11)
    | .ok _ => .error (s.illegal 0x11)

def State.modCur (s : State) (f : Cur → Cur) : State := { s with cur := f s.cur }

/-- R107: the PC and the transfer state after a bundle whose sequential successor, loop branch and transfer are
those of the bundle in issue. -/
def Arch.advance (a : Arch) (k : Cur) : Arch :=
  let next := k.jump.getD k.succ
  let due : Bool := match a.pending with | some p => decide (p.left = 1) | none => false
  { a with
    pc := if due then (match a.pending with | some p => p.target | none => next) else next
    pending := match k.transfer with
      | some t => some ⟨t, 2⟩
      | none => if due then none else a.pending.map fun p => { p with left := p.left - 1 }
    delay := if k.control then 2 else a.delay - 1 }

/-- The PC of the bundle in issue advances now; its end does not move it again. -/
def State.advance (s : State) : State :=
  (s.modArch s.cur.ctx fun a => a.advance s.cur).modCur fun k => { k with moved := true }

/-- Every result in flight lands at once, in the order in which it would have (R278, Table 3.2). -/
def Arch.landAll (a : Arch) : Arch :=
  let l := a.flight.mergeSort fun x y => x.left ≤ y.left
  (l.foldl Arch.landOne { a with flight := [] }).raise (l.foldl (fun x l => x ||| l.status) 0)

/-- What steers fetch: the instruction's own values, or for an espalier member the lead's (R111). -/
def State.steered (s : State) (own : Steer) : Steer :=
  if s.here.task.inEsp && !s.here.task.isLead then s.cur.steer else own

end Sys2Proof.Machine
end

