-- ==== Sys2Proof/Machine/Scalar.lean ====
section
/-! DEFINITION. Machine/Scalar.lean: the S-slot instructions that compute, compare, move and branch
(spec/03_scalar_and_control.md R83 to R95, R101 to R114). -/

namespace Sys2Proof.Machine

/-! ## Shapes -/

/-- A register-form integer operation (R85) with latency `left`. -/
def State.intRR (s : State) (d : Dst) (a b : Src) (left : Nat) (f : Word → Word → Word) : Res State := do
  let x ← s.srcS a
  let y ← s.srcS b
  s.checkSp d (f x y)
  return s.putS 0 d left (f x y)

/-- An immediate-form operation (R86). -/
def State.intRI (s : State) (d : Dst) (a : Src) (f : Word → Word) : Res State := do
  let x ← s.srcS a
  s.checkSp d (f x)
  return s.putS 0 d 1 (f x)

/-- A compare into a flag (R88). -/
def State.cmpRR (s : State) (d : BitVec 6) (a b : Src) (f : Word → Word → Bool) : Res State := do
  let x ← s.srcS a
  let y ← s.srcS b
  return s.putFlag d (f x y)

def State.cmpRI (s : State) (d : BitVec 6) (a : Src) (f : Word → Bool) : Res State := do
  let x ← s.srcS a
  return s.putFlag d (f x)

/-- An FP32 value in bits [31:0] (R92). -/
def lo32 (x : Word) : Nat := x.toNat % 2 ^ 32

/-- A scalar FP operation of two sources (R93). -/
def State.fpRR (s : State) (d : Dst) (a b : Src) (left : Nat) (f : Nat → Nat → Nat × Word) : Res State := do
  let x ← s.srcS a oneF32
  let y ← s.srcS b oneF32
  let r := f (lo32 x) (lo32 y)
  return s.putS 0 d left (BitVec.ofNat 64 r.1) r.2

/-- A scalar FP compare (R94). -/
def State.fpCmp (s : State) (d : BitVec 6) (a b : Src) (r : Rel) : Res State := do
  let x ← s.srcS a oneF32
  let y ← s.srcS b oneF32
  let (v, st) := Fmt.f32.compare r (lo32 x) (lo32 y)
  return s.putFlag d v st

/-! ## Integer arithmetic (Tables 3.4, 3.5) -/

def execSnop (s : State) : Outcome := s.slot .snop (.ok s)

def execAdd (d : Dst) (a b : Src) (s : State) : Outcome := s.slot (.add d a b) (s.intRR d a b 1 (· + ·))
def execSub (d : Dst) (a b : Src) (s : State) : Outcome := s.slot (.sub d a b) (s.intRR d a b 1 (· - ·))
def execAnd (d : Dst) (a b : Src) (s : State) : Outcome := s.slot (.and d a b) (s.intRR d a b 1 (· &&& ·))
def execOr (d : Dst) (a b : Src) (s : State) : Outcome := s.slot (.or d a b) (s.intRR d a b 1 (· ||| ·))
def execXor (d : Dst) (a b : Src) (s : State) : Outcome := s.slot (.xor d a b) (s.intRR d a b 1 (· ^^^ ·))
def execShl (d : Dst) (a b : Src) (s : State) : Outcome :=
  s.slot (.shl d a b) (s.intRR d a b 1 fun x y => x <<< (y.toNat % 64))
def execShr (d : Dst) (a b : Src) (s : State) : Outcome :=
  s.slot (.shr d a b) (s.intRR d a b 1 fun x y => x >>> (y.toNat % 64))
def execAsr (d : Dst) (a b : Src) (s : State) : Outcome :=
  s.slot (.asr d a b) (s.intRR d a b 1 fun x y => x.sshiftRight (y.toNat % 64))
def execMul (d : Dst) (a b : Src) (s : State) : Outcome := s.slot (.mul d a b) (s.intRR d a b 3 (· * ·))
/-- The high half of the signed product. -/
def execMulh (d : Dst) (a b : Src) (s : State) : Outcome :=
  s.slot (.mulh d a b) (s.intRR d a b 3 fun x y => BitVec.ofInt 64 (x.toInt * y.toInt / 2 ^ 64))
/-- The high half of the unsigned product. -/
def execMulhN64 (d : Dst) (a b : Src) (s : State) : Outcome :=
  s.slot (.mulhN64 d a b) (s.intRR d a b 3 fun x y => BitVec.ofNat 64 (x.toNat * y.toNat / 2 ^ 64))
def execMin (d : Dst) (a b : Src) (s : State) : Outcome :=
  s.slot (.min d a b) (s.intRR d a b 1 fun x y => if x.toInt ≤ y.toInt then x else y)
def execMax (d : Dst) (a b : Src) (s : State) : Outcome :=
  s.slot (.max d a b) (s.intRR d a b 1 fun x y => if x.toInt ≤ y.toInt then y else x)
def execAddi (d : Dst) (a : Src) (imm : BitVec 21) (s : State) : Outcome :=
  s.slot (.addi d a imm) (s.intRI d a (· + imm.signExtend 64))
def execAndi (d : Dst) (a : Src) (imm : BitVec 21) (s : State) : Outcome :=
  s.slot (.andi d a imm) (s.intRI d a (· &&& imm.signExtend 64))
def execOri (d : Dst) (a : Src) (imm : BitVec 21) (s : State) : Outcome :=
  s.slot (.ori d a imm) (s.intRI d a (· ||| imm.setWidth 64))
def execShli (d : Dst) (a : Src) (k : BitVec 6) (s : State) : Outcome :=
  s.slot (.shli d a k) (s.intRI d a (· <<< k.toNat))
def execShri (d : Dst) (a : Src) (k : BitVec 6) (s : State) : Outcome :=
  s.slot (.shri d a k) (s.intRI d a (· >>> k.toNat))
def execAsri (d : Dst) (a : Src) (k : BitVec 6) (s : State) : Outcome :=
  s.slot (.asri d a k) (s.intRI d a fun x => x.sshiftRight k.toNat)
def execMovi (d : Dst) (imm : BitVec 21) (s : State) : Outcome :=
  s.slot (.movi d imm) (s.intRI d (.special .zero) fun _ => imm.signExtend 64)
/-- Bits [16k+15:16k] of a replaced. -/
def execMovhi (d : Dst) (a : Src) (h : BitVec 16) (k : BitVec 2) (s : State) : Outcome :=
  s.slot (.movhi d a h k) (s.intRI d a fun x =>
    mergeBits x (h.setWidth 64 <<< (16 * k.toNat)) (0xFFFF <<< (16 * k.toNat)))
/-- R87. -/
def execSel (d : Dst) (a b : Src) (cf : BitVec 3) (s : State) : Outcome :=
  s.slot (.sel d a b cf) (s.intRR d a b 1 fun x y => if s.cflag cf.toNat then x else y)

/-! ## Compares (Table 3.6) -/

def execCmpeq (d : BitVec 6) (a b : Src) (s : State) : Outcome :=
  s.slot (.cmpeq d a b) (s.cmpRR d a b fun x y => decide (x = y))
def execCmpne (d : BitVec 6) (a b : Src) (s : State) : Outcome :=
  s.slot (.cmpne d a b) (s.cmpRR d a b fun x y => decide (x ≠ y))
def execCmplt (d : BitVec 6) (a b : Src) (s : State) : Outcome :=
  s.slot (.cmplt d a b) (s.cmpRR d a b fun x y => decide (x.toInt < y.toInt))
def execCmple (d : BitVec 6) (a b : Src) (s : State) : Outcome :=
  s.slot (.cmple d a b) (s.cmpRR d a b fun x y => decide (x.toInt ≤ y.toInt))
def execCmpltn (d : BitVec 6) (a b : Src) (s : State) : Outcome :=
  s.slot (.cmpltn d a b) (s.cmpRR d a b fun x y => decide (x.toNat < y.toNat))
def execCmpeqi (d : BitVec 6) (a : Src) (imm : BitVec 21) (s : State) : Outcome :=
  s.slot (.cmpeqi d a imm) (s.cmpRI d a fun x => decide (x = imm.signExtend 64))
def execCmplti (d : BitVec 6) (a : Src) (imm : BitVec 21) (s : State) : Outcome :=
  s.slot (.cmplti d a imm) (s.cmpRI d a fun x => decide (x.toInt < imm.toInt))

/-! ## PLOG (R89) -/

/-- A PLOG operation on flags, or bit by bit on masks. -/
def State.plog (s : State) (m : Bool) (d a b : BitVec 4) (f : BitVec 128 → BitVec 128 → BitVec 128) : State :=
  if m then s.push 1 [.m d.toNat (f (s.mreg a.toNat) (s.mreg b.toNat)) (BitVec.allOnes 128)]
  else
    let bit (k : BitVec 4) : BitVec 128 := if s.cflag k.toNat then 1 else 0
    s.push 1 [.c d.toNat ((f (bit a) (bit b)).getLsbD 0)]

def execPand (m : Bool) (d a b : BitVec 4) (s : State) : Outcome :=
  s.slot (.pand m d a b) (.ok (s.plog m d a b (· &&& ·)))
def execPor (m : Bool) (d a b : BitVec 4) (s : State) : Outcome :=
  s.slot (.por m d a b) (.ok (s.plog m d a b (· ||| ·)))
def execPxor (m : Bool) (d a b : BitVec 4) (s : State) : Outcome :=
  s.slot (.pxor m d a b) (.ok (s.plog m d a b (· ^^^ ·)))
def execPandn (m : Bool) (d a b : BitVec 4) (s : State) : Outcome :=
  s.slot (.pandn m d a b) (.ok (s.plog m d a b fun x y => x &&& ~~~y))
def execPnot (m : Bool) (d a : BitVec 4) (s : State) : Outcome :=
  s.slot (.pnot m d a) (.ok (s.plog m d a a fun x _ => ~~~x))

/-! ## Scalar floating point (R92 to R95) -/

def execFadd (d : Dst) (a b : Src) (s : State) : Outcome := s.slot (.fadd d a b) (s.fpRR d a b 4 Fmt.f32.fadd)
def execFsub (d : Dst) (a b : Src) (s : State) : Outcome := s.slot (.fsub d a b) (s.fpRR d a b 4 Fmt.f32.fsub)
def execFmul (d : Dst) (a b : Src) (s : State) : Outcome := s.slot (.fmul d a b) (s.fpRR d a b 4 Fmt.f32.fmul)
def execFdiv (d : Dst) (a b : Src) (s : State) : Outcome := s.slot (.fdiv d a b) (s.fpRR d a b 12 Fmt.f32.fdiv)
/-- The addend is the destination register as it stands. -/
def execFma (d : Dst) (a b : Src) (s : State) : Outcome :=
  s.slot (.fma d a b) (s.fpRR d a b 4 fun x y => Fmt.f32.ffma x y (lo32 (s.reg (Dst.num d))))
def execFsqrt (d : Dst) (a : Src) (s : State) : Outcome :=
  s.slot (.fsqrt d a) (s.fpRR d a (.special .zero) 12 fun x _ => Fmt.f32.fsqrt x)
def execFcmpeq (d : BitVec 6) (a b : Src) (s : State) : Outcome := s.slot (.fcmpeq d a b) (s.fpCmp d a b .eq)
def execFcmplt (d : BitVec 6) (a b : Src) (s : State) : Outcome := s.slot (.fcmplt d a b) (s.fpCmp d a b .lt)
def execFcmple (d : BitVec 6) (a b : Src) (s : State) : Outcome := s.slot (.fcmple d a b) (s.fpCmp d a b .le)
/-- Selector 49 reads as 1.0 in a conversion's source format, and as 1 where that is an integer. -/
def fcvtOne (code : Nat) : Word :=
  match code with | 3 | 4 => 1 | 6 => 0x3C00 | 8 => 0x3F80 | _ => oneF32
def execFcvt (d : Dst) (a : Src) (code : BitVec 4) (s : State) : Outcome :=
  s.slot (.fcvt d a code) (do
    let x ← s.srcS a (fcvtOne code.toNat)
    let r := fcvt code.toNat x
    return s.putS 0 d 3 r.1 r.2)

/-! ## Control registers, staging, flag packing (R101 to R104) -/

def execCrd (d : Dst) (n : BitVec 12) (s : State) : Outcome :=
  s.slot (.crd d n) (.ok (s.putS 0 d 1 (s.crd n.toNat)))
def execCwr (a : Src) (n : BitVec 12) (s : State) : Outcome :=
  s.slot (.cwr a n) (do
    let x ← s.srcS a
    return s.push 1 [.cr n.toNat x])
def execMovg (d : BitVec 6) (a : Src) (s : State) : Outcome :=
  s.slot (.movg d a) (do
    let x ← s.srcS a
    return s.push 1 [.g (d.toNat % 16) x])
def execPkc (d : Dst) (s : State) : Outcome := s.slot (.pkc d) (.ok (s.putS 0 d 1 s.here.a.packFlags))
def execUpc (a : Src) (s : State) : Outcome :=
  s.slot (.upc a) (do
    let x ← s.srcS a
    return s.push 1 ((List.range 8).map fun k => .c k (x.getLsbD k)))

/-! ## Control transfer (R105 to R113) -/

def execPbr (d : BitVec 6) (a : Src) (imm : BitVec 21) (s : State) : Outcome :=
  s.slot (.pbr d a imm) (do
    let x ← s.srcS a
    return s.push 1 [.b (d.toNat % 4) (x + imm.signExtend 64)])

/-- The bundle holds a TRN or CALL; when it is taken, its transfer becomes pending after the bundle. -/
def State.transfer (s : State) (st : Steer) : State :=
  s.modCur fun k => { k with
    control := true, steer := st, transfer := if st.taken then some st.target else k.transfer }

def execTrn (flag : BitVec 3) (neg alw : Bool) (a : BitVec 6) (s : State) : Outcome :=
  s.slot (.trn flag neg alw a) (s.control (.ok
    (s.transfer (s.steered ⟨0, alw || (s.cflag flag.toNat != neg), s.breg a.toNat⟩))))

def execCall (a : Src) (imm : BitVec 21) (s : State) : Outcome :=
  s.slot (.call a imm) (s.control (do
    let x ← s.srcS a
    let link := s.succOf (s.succOf s.cur.succ)
    return (s.push 1 [.b 3 link]).transfer (s.steered ⟨0, true, x + imm.signExtend 64⟩)))

/-- R112. -/
def execLoop (k : BitVec 6) (a : Src) (imm : BitVec 21) (s : State) : Outcome :=
  s.slot (.loop k a imm) (s.control (do
    let x ← s.srcS a
    let st := s.steered ⟨lo32 x, false, s.pc + imm.signExtend 64⟩
    let s' := s.modCur fun q => { q with steer := st }
    if st.count = 0 then return s'.modCur fun q => { q with jump := some st.target }
    else
      s.require (s.here.a.loops.length < 4 && !s.here.a.loops.any fun l => l.k = k.toNat) 0x12
      return (s'.modArch s.cur.ctx fun a => { a with
        loops := ⟨k.toNat, st.count, s.cur.succ⟩ :: a.loops, ix := Tab.set 0 a.ix a.loops.length k.toNat }).push 1
        [.i k.toNat 0]))

/-- R113. -/
def execLend (s : State) : Outcome :=
  s.slot .lend (s.control (match s.here.a.loops with
    | [] => .error (s.illegal 0x12)
    | l :: rest =>
      let v := s.ireg l.k + 1
      let st := s.steered ⟨l.count, decide (v.toNat < l.count), l.start⟩
      let s' := (s.modCur fun q => { q with steer := st }).push 1 [.i l.k v]
      .ok (if st.taken then s'.modCur fun q => { q with jump := some st.target }
        else s'.modArch s.cur.ctx fun a => { a with loops := rest })))

end Sys2Proof.Machine
end

