-- ==== Sys2Proof/Machine/LoadStore.lean ====
section
/-! DEFINITION. Machine/LoadStore.lean: loads and stores of memory and scratchpad by the S, V and X slots
(spec/03_scalar_and_control.md R96 to R100, R116, spec/06 R181, R182, spec/07 R195, spec/02 R71), and address
generation (R117). -/

namespace Sys2Proof.Machine

/-! ## V results -/

/-- The unit number of the V slot that acts. -/
def State.vUnit (s : State) : Nat := if s.cur.slot = 3 then 2 else 1

def Dst.wrV (d : Dst) (v mask : Nat) : List Wr :=
  match d with
  | .reg n => [.v n.toNat (BitVec.ofNat 1024 v) (BitVec.ofNat 1024 mask)]
  | _ => []

/-- A result of a V slot: its bits to the register, and the active elements with zero elsewhere to the latch
(R56, R159). -/
def State.putV (s : State) (d : Dst) (left : Nat) (o : VOut) : State :=
  s.push left (Dst.wrV d o.val o.mask) (some (s.vUnit, ⟨s.cur.width, BitVec.ofNat 1024 o.val⟩)) o.st

/-- Bytes of a V access of the bundle in issue. -/
def State.vBytes (s : State) : Nat := s.cur.width / 8

/-- Bytes where the lane mask is set, `none` elsewhere. -/
def maskedBytes (n act v : Nat) : List (Option Byte) :=
  (List.range n).map fun j => if bitN act j then some (BitVec.ofNat 8 (eltN 8 v j)) else none

/-! ## Memory, S slot (R96, R97) -/

/-- A load of `n` bytes at `va` into an s register. -/
def State.loadS (s : State) (d : Dst) (va n : Nat) (hint : Hint) (acq : Option (Scope × BitVec 4)) : Res State := do
  s.checkMem va n n .read false false
  return s.issueLoad va n hint acq fun b => .s (Dst.num d) (BitVec.ofNat 64 (ofBytes b))

/-- The checks of a store of `n` bytes at `va`, addressed through `a`: ALIGN, STACK, LEASE (R97). -/
def State.checkStore (s : State) (a : Src) (va n : Nat) : Res Unit := do
  if va % n ≠ 0 then .error (s.alignFault va n) else pure ()
  s.checkStack a va
  s.checkMem va n n .write false false

/-- A store of `n` bytes of `x` at `va`, addressed through `a`; a fault of the access goes before one of its data with a
higher detail (R54, R131). [DEDUCED, unsafe: log 103] -/
def State.storeS (s : State) (x a : Src) (va n : Nat) (hint : Hint) (rel : Option (Scope × BitVec 4)) :
    Res State := do
  let (v, _) ← Res.both (s.srcS x) (s.checkStore a va n)
  return s.holdStore va ((bytesOf n v.toNat).map some) hint rel

/-- What a modifier annotates. -/
def annot (m : Mod) : Option (Scope × BitVec 4) := if m.ord = .plain then none else some (m.scope, m.paths)

def execLd (d : Dst) (a b : Src) (m : Mod) (s : State) : Outcome :=
  s.slot (.ld d a b m) (do
    let va ← s.addrRR a b
    s.loadS d va (sizeBytes m.size) m.hint (annot m))
def execSt (x a b : Src) (m : Mod) (s : State) : Outcome :=
  s.slot (.st x a b m) (do
    let va ← s.addrRR a b
    s.storeS x a va (sizeBytes m.size) m.hint (annot m))
def execLdi (d : Dst) (a : Src) (imm : BitVec 21) (s : State) : Outcome :=
  s.slot (.ldi d a imm) (do
    let va ← s.addrRI a imm
    s.loadS d va 8 .normal none)
def execSti (x a : Src) (imm : BitVec 21) (s : State) : Outcome :=
  s.slot (.sti x a imm) (do
    let va ← s.addrRI a imm
    s.storeS x a va 8 .normal none)

/-! ## Scratchpad, S slot (R100) -/

/-- A scratchpad load of `n` bytes into an s register. -/
def State.spadLoadS (s : State) (d : Dst) (lo n : Nat) : Res State := do
  s.checkSpad lo n n
  let (s', b) := s.spadRead s.cur.ctx lo n
  return s'.putS 0 d 4 (BitVec.ofNat 64 (ofBytes b))

def State.spadStoreS (s : State) (x : Src) (lo n : Nat) : Res State := do
  let (v, _) ← Res.both (s.srcS x) (s.checkSpad lo n n)
  return s.spadWrite s.cur.ctx lo ((bytesOf n v.toNat).map some)

def execSpld (d : Dst) (a b : Src) (sz : Size) (s : State) : Outcome :=
  s.slot (.spld d a b sz) (do
    let lo ← s.addrRR a b
    s.spadLoadS d lo (sizeBytes sz))
def execSpst (x a b : Src) (sz : Size) (s : State) : Outcome :=
  s.slot (.spst x a b sz) (do
    let lo ← s.addrRR a b
    s.spadStoreS x lo (sizeBytes sz))
def execSpldi (d : Dst) (a : Src) (imm : BitVec 21) (s : State) : Outcome :=
  s.slot (.spldi d a imm) (do
    let lo ← s.addrRI a imm
    s.spadLoadS d lo 8)
def execSpsti (x a : Src) (imm : BitVec 21) (s : State) : Outcome :=
  s.slot (.spsti x a imm) (do
    let lo ← s.addrRI a imm
    s.spadStoreS x lo 8)

/-! ## V slot (R181, R182) -/

def execVspld (d : Dst) (a b : Src) (off : BitVec 6) (mask : BitVec 4) (s : State) : Outcome :=
  s.slot (.vspld d a b off mask) (do
    let lo ← s.addrV a b off
    s.checkSpad lo s.vBytes s.vBytes
    let (s', l) := s.spadRead s.cur.ctx lo s.vBytes
    let v := ofBytes l
    return s'.putV d 4 (Vec.ewise 8 s.cur.width (s.act mask) fun i => (eltN 8 v i, 0)))
def execVspst (x a b : Src) (off : BitVec 6) (mask : BitVec 4) (s : State) : Outcome :=
  s.slot (.vspst x a b off mask) (do
    let (v, lo) ← Res.both (s.srcV x s.cur.width 8) (do
      let lo ← s.addrV a b off
      s.checkSpad lo s.vBytes s.vBytes
      return lo)
    return s.spadWrite s.cur.ctx lo (maskedBytes s.vBytes (s.act mask) v))
def execVld (d : Dst) (a b : Src) (off : BitVec 6) (mask : BitVec 4) (s : State) : Outcome :=
  s.slot (.vld d a b off mask) (do
    let va ← s.addrV a b off
    s.checkMem va s.vBytes s.vBytes .read true false
    let on := BitVec.ofNat 1024 (Vec.activeBits 8 s.cur.width (s.act mask))
    return s.issueLoad va s.vBytes .normal none fun l => .v (Dst.num d) (BitVec.ofNat 1024 (ofBytes l)) on)
def execVst (x a b : Src) (off : BitVec 6) (mask : BitVec 4) (s : State) : Outcome :=
  s.slot (.vst x a b off mask) (do
    let (v, va) ← Res.both (s.srcV x s.cur.width 8) (do
      let va ← s.addrV a b off
      s.checkMem va s.vBytes s.vBytes .write true false
      return va)
    return s.holdStore va (maskedBytes s.vBytes (s.act mask) v))

/-! ## Nest records and address generation (R116, R117) -/

def execNld (d : BitVec 6) (a : Src) (imm : BitVec 13) (s : State) : Outcome :=
  s.slot (.nld d a imm) (do
    let va ← s.addrRI a imm
    s.checkMem va 64 64 .read true false
    return s.issueLoad va 64 .normal none fun b => .n (d.toNat % 8) (BitVec.ofNat 512 (ofBytes b)))
def execNst (n : BitVec 6) (a : Src) (imm : BitVec 13) (s : State) : Outcome :=
  s.slot (.nst n a imm) (do
    let va ← s.addrRI a imm
    s.checkMem va 64 64 .write true false
    return s.holdStore va ((bytesOf 64 (s.nreg n.toNat).toNat).map some))

/-- An address result: checked when it goes to s31, and latched (R56, R99). -/
def State.putAddr (s : State) (d : Dst) (left : Nat) (v : Word) : Res State := do
  s.checkSp d v
  return s.putS 3 d left v

def execLea (d : Dst) (a b : Src) (sh : BitVec 3) (s : State) : Outcome :=
  s.slot (.lea d a b sh) (do
    let x ← s.srcS a
    let y ← s.srcS b
    s.putAddr d 1 (x + y <<< sh.toNat))
def execLeai (d : Dst) (a : Src) (imm : BitVec 13) (s : State) : Outcome :=
  s.slot (.leai d a imm) (do
    let x ← s.srcS a
    s.putAddr d 1 (x + imm.signExtend 64))
def execAgen (d : Dst) (a : BitVec 6) (imm : BitVec 13) (s : State) : Outcome :=
  s.slot (.agen d a imm) (s.putAddr d 2 (s.nestAddr (s.nreg a.toNat) + imm.signExtend 64))

/-! ## Random words, scale files, dictionary (R152, R195, R71) -/

/-- It waits while the RBQ is empty; it enters no latch. -/
def execRbpop (d : Dst) (s : State) : Outcome :=
  if s.here.a.rbq.isEmpty then .next s
  else s.slot (.rbpop d) (.ok (s.popWord.putQuiet d 1 s.randWord))

/-- What an ESLD target takes from its bytes (Table 7.2). -/
def esldWr (t : Nat) (b : List Byte) : List Wr :=
  match t with
  | 8 => [.asc (BitVec.ofNat 2048 (ofBytes b)), .ph0]
  | 9 => [.bsc (BitVec.ofNat 4096 (ofBytes b)), .ph0]
  | 10 => [.asc (BitVec.ofNat 2048 (ofBytes (b.take 256))), .bsc (BitVec.ofNat 4096 (ofBytes (b.drop 256))), .ph0]
  | _ => [.e t (BitVec.ofNat 128 (ofBytes b)) (BitVec.allOnes 128)]

def execEsld (t : BitVec 6) (a : Src) (imm : BitVec 13) (s : State) : Outcome :=
  s.slot (.esld t a imm) (do
    let lo ← s.addrRI a imm
    let (n, align) := esldSize t
    s.checkSpad lo n align
    let (s', b) := s.spadRead s.cur.ctx lo n
    return s'.push 3 (esldWr t.toNat b))

/-- The dictionary entries that DLD writes. -/
def Arch.loadDict (a : Arch) (entry : Nat) : List Byte → Nat → Arch
  | _, 0 => a
  | b, n + 1 =>
    ({ a with dict := Tab.set none a.dict entry (some (BitVec.ofNat 256 (ofBytes (b.take 32)))) } : Arch).loadDict
      (entry + 1) (b.drop 32) n

/-- A byte range that meets no data changes no entry, and its fault falls due later (R97, R395). -/
def execDld (a : Src) (entry cnt : BitVec 9) (s : State) : Outcome :=
  s.slot (.dld a entry cnt) (do
    let x ← s.srcS a
    let n := cnt.toNat + 1
    s.checkMem x.toNat (32 * n) 32 .read true false
    let (s', r) := s.loadRange x.toNat (32 * n)
    match r with
    | .ok b => return s'.modArch s.cur.ctx fun q => q.loadDict entry.toNat b n
    | .error f => return s'.deferOpen f)

end Sys2Proof.Machine
end

