-- ==== Sys2Proof/Machine/Matrix.lean ====
section
/-! DEFINITION. Machine/Matrix.lean: the M-slot instructions (spec/07_matrix_array.md R189 to R205). Each reads
its operands at its issue and acts on the accumulators at its array point, twelve issue cycles later
(Machine/Ops.lean `Arch.arrayPoint`). -/

namespace Sys2Proof.Machine

/-! ## Operands -/

/-- The physical bank that a name denotes now (R198). -/
def State.bank (s : State) (bank : Bool) : Nat := (bank != s.here.a.swap).toNat

/-- The piece of operand code `code`: `n` bytes in bank group `g`, zeros when clipped; none for the hold (R189 to
R191). -/
def State.readPiece (s : State) (code : BitVec 4) (n g : Nat) : Res (State × Option Nat) :=
  if code = 8 then .ok (s, none)
  else if code.toNat > 8 then .error (s.illegal 0x08)
  else match s.piece (s.nreg code.toNat) with
    | none => .ok (s, some 0)
    | some o => do
      s.checkPiece o n g
      let (s', b) := s.spadRead s.cur.ctx o n
      return (s', some (ofBytes b))

/-- A side that was read through a record goes into its hold (R193). -/
def State.fillA (s : State) : Option Nat → State
  | some v => s.modArch s.cur.ctx fun a => { a with ahold := BitVec.ofNat 4096 v }
  | none => s

def State.fillB (s : State) : Option Nat → State
  | some v => s.modArch s.cur.ctx fun a => { a with bhold := BitVec.ofNat 8192 v }
  | none => s

/-- An M instruction in flight (R197). -/
def State.launchM (s : State) (act : MAct) : State :=
  s.modArch s.cur.ctx fun a => { a with mflight := a.mflight ++ [⟨12, act⟩] }

/-- A beat with its holds as they now stand; PH advances (R194, R201). -/
def State.launchBeat (s : State) (set : Bool) (af bf : MFmt) (bank : Bool) (shift : Nat) : State :=
  let a := s.here.a
  (s.launchM (.beat (s.bank bank) set af bf s.cur.profile a.ahold a.bhold shift a.asc a.bsc a.ph)).modArch
    s.cur.ctx fun a => { a with ph := MFmt.nextPhase af a.ph }

/-- Both sides read, the holds filled; when both pieces fail, the fault with the lower detail, of equals A's (R54).
[DEDUCED, unsafe: log 103] -/
def State.readSides (s : State) (an bn : BitVec 4) : Res State := do
  let _ ← Res.both (s.readPiece an 512 0) (s.readPiece bn 1024 1)
  let (s1, x) ← s.readPiece an 512 0
  let (s2, y) ← s1.readPiece bn 1024 1
  return (s2.fillA x).fillB y

/-- The row that an M instruction names. -/
def State.mRow (s : State) (i : BitVec 4) : Nat := (s.ireg i.toNat).toNat % 128

/-- The checks of a drain (R203, R204). -/
def State.checkDrain (s : State) (o n align : Nat) : Res Unit :=
  if o % align ≠ 0 then .error (s.alignFault o align)
  else if s.here.task.inWindow o n then .ok () else .error (s.windowFault o)

/-! ## The instructions (Table 7.4) -/

def execMnop (s : State) : Outcome := s.slot .mnop (.ok s)

def execMacc (af bf : MFmt) (bank : Bool) (an bn : BitVec 4) (s : State) : Outcome :=
  s.slot (.macc af bf bank an bn) (do
    let s1 ← s.readSides an bn
    return s1.launchBeat false af bf bank 0)

def execMset (af bf : MFmt) (bank : Bool) (an bn : BitVec 4) (s : State) : Outcome :=
  s.slot (.mset af bf bank an bn) (do
    let s1 ← s.readSides an bn
    return s1.launchBeat true af bf bank 0)

def execMpush (an bn : BitVec 4) (s : State) : Outcome := s.slot (.mpush an bn) (s.readSides an bn)

def execMshift (af bf : MFmt) (bank : Bool) (dist bn : BitVec 4) (s : State) : Outcome :=
  s.slot (.mshift af bf bank dist bn) (do
    let (s1, y) ← s.readPiece bn 1024 1
    return (s1.fillB y).launchBeat false af bf bank dist.toNat)

def execMdrain (code : BitVec 3) (clr bank : Bool) (n i : BitVec 4) (s : State) : Outcome :=
  s.slot (.mdrain code clr bank n i) (
    let off := s.piece (s.nreg n.toNat)
    let size := 256 * drainBytes code.toNat
    let go : State := s.launchM (.drain (s.bank bank) (s.mRow i) code.toNat clr off)
    match off with
    | none => .ok go
    | some o => do
      s.checkDrain o size size
      return go)

def execMzero (bank : Bool) (s : State) : Outcome :=
  s.slot (.mzero bank) (.ok (s.launchM (.zero (s.bank bank))))

def execMload (bank : Bool) (n i : BitVec 4) (s : State) : Outcome :=
  s.slot (.mload bank n i) (
    match s.piece (s.nreg n.toNat) with
    | none => .ok (s.launchM (.load (s.bank bank) (s.mRow i) 0))
    | some o => do
      s.checkSpad o 1024 1024
      let (s', b) := s.spadRead s.cur.ctx o 1024
      return s'.launchM (.load (s.bank bank) (s.mRow i) (BitVec.ofNat 8192 (ofBytes b))))

def execMswap (s : State) : Outcome :=
  s.slot .mswap (.ok (s.modArch s.cur.ctx fun a => { a with swap := !a.swap }))

/-- Bytes of a quantised row: the element plane and sixteen scale words (R204). -/
def drainqBytes (fmt : Nat) : Nat :=
  match fmt with | 3 => 96 | 4 => 160 | _ => 288

def execMdrainq (af : BitVec 3) (clr bank : Bool) (n i : BitVec 4) (s : State) : Outcome :=
  s.slot (.mdrainq af clr bank n i) (
    let off := s.piece (s.nreg n.toNat)
    let go : State := s.launchM (.drainq (s.bank bank) (s.mRow i) af.toNat clr off)
    match off with
    | none => .ok go
    | some o => do
      s.checkDrain o (drainqBytes af.toNat) 32
      return go)

end Sys2Proof.Machine
end

