-- ==== Sys2Proof/Machine/Copy.lean ====
section
/-! DEFINITION. Machine/Copy.lean: the C-slot instructions: the command word, the checks made at issue, and the
hand-over to an engine or to the commit buffer (spec/08_scratchpad_and_copy.md R225 to R241,
spec/14_gidin_fabric.md R432, R433). What an engine does with a command is in Machine/Engine.lean. -/

namespace Sys2Proof.Machine

/-- Registers of a staging block (Tables 8.3, 14.9). -/
def stagingSize (op : Nat) : Nat :=
  match op with | 1 => 3 | 2 => 5 | 3 => 4 | 4 => 3 | 5 => 3 | 6 => 2 | _ => 5

/-- Whether a command word may be used by opcode `op` (R231, R232, R236 to R241, R432). -/
def cwOk (op : Nat) (w : Word) : Bool :=
  w.extractLsb' 26 38 = 0 && !(Cw.scope w).reserved && !(Cw.hint w).reserved &&
  (Cw.rel w || (w.extractLsb' 4 3 = 0 && Cw.paths w = 0)) &&
  (decide (1 ≤ op ∧ op ≤ 4) || Cw.drec w = 0) &&
  (op = 3 || op = 4 || (Cw.rflag w = 0 && !Cw.rpost w)) &&
  (op = 4 || Cw.member w = 0) && (op = 2 || !Cw.tdir w) && (op ≠ 6 || !Cw.rel w)

/-! ## The fabric word (Table 14.10) -/

namespace Fw
def dmod (w : Word) : Nat := (w.extractLsb' 0 15).toNat
def cen (w : Word) : Bool := w.getLsbD 15
def coff (w : Word) : Nat := (w.extractLsb' 16 40).toNat
def ack (w : Word) : Bool := w.getLsbD 56
def aflag (w : Word) : Nat := (w.extractLsb' 57 4).toNat
def reserved (w : Word) : BitVec 3 := w.extractLsb' 61 3
end Fw

/-! ## The walk (R233) -/

/-- Elements of the walk of a record. -/
def Nest.count (r : BitVec 512) : Nat := (List.range (Nest.ndim r)).foldl (fun a k => a * Nest.bound r k) 1

/-- Index of dimension `k` of element number `j` of a walk, dimension 0 fastest. -/
def Nest.idx (shape : BitVec 512) (j k : Nat) : Nat :=
  j / (List.range k).foldl (fun a i => a * Nest.bound shape i) 1 % Nest.bound shape k

/-- addr(R, off, idx) of R233 for element number `j` of the shape. -/
def Nest.addr (shape r : BitVec 512) (off : Word) (j : Nat) : Word :=
  Nest.base r + off + BitVec.ofInt 64 ((List.range (Nest.ndim shape)).foldl
    (fun a k => a + (Nest.idx shape j k : Int) * Nest.stride r k) 0)

/-- The bounding interval of R234: its first address, which may lie below 0, and its length. -/
def Nest.bounds (shape r : BitVec 512) (off : Word) : Int × Nat :=
  let step (k : Nat) : Int := ((Nest.bound shape k : Int) - 1) * Nest.stride r k
  let dims := List.range (Nest.ndim shape)
  let a : Int := ((Nest.base r + off).toNat : Nat)
  let lo := dims.foldl (fun x k => x + min 0 (step k)) a
  let hi := dims.foldl (fun x k => x + max 0 (step k)) a + (Nest.size shape : Nat) - 1
  (lo, (hi - lo + 1).toNat)

/-! ## The checks at issue (R232, R234, R334) -/

/-- One side of a command: `dest` tells the destination from the source. -/
def State.checkSide (s : State) (shape r : BitVec 512) (off : Word) (dest : Bool) : Res Unit :=
  let es := Nest.size shape
  let a := Nest.base r + off
  let side : Nat := dest.toNat * 2 ^ 63
  let (lo, n) := Nest.bounds shape r off
  let odd := (List.range (Nest.ndim shape)).any fun k =>
    decide (1 < Nest.bound shape k) && decide (Nest.stride r k % (es : Int) ≠ 0)
  if Nest.count shape = 0 then .ok ()
  else if a.toNat % es ≠ 0 ∨ odd then .error (s.faultRec 0x07 0 a (BitVec.ofNat 64 (es + side)))
  else if Nest.kind r = 1 then
    if 0 ≤ lo ∧ s.here.task.inWindow lo.toNat n then .ok ()
    else .error (s.windowFault (BitVec.ofInt 64 lo).toNat dest)
  else if !(decide (0 ≤ lo) && s.here.task.leased lo.toNat n (if dest then .write else .read)) then
    .error (s.faultRec 0x03 0 (BitVec.ofInt 64 lo)
      (BitVec.ofNat 64 (Nat.min n 0xFFFF_FFFF + dest.toNat * 2 ^ 32 + side)))
  else if s.mtype lo.toNat = 1 then .error (s.alignFault lo.toNat 0)
  else .ok ()

/-- The tensor of the task's lease that a record of KIND 2 names. -/
def Task.tensor (t : Task) (r : BitVec 512) : Option Tensor :=
  t.tensors.find? fun x => x.tid = (Nest.base r).toNat % 2 ^ 16

/-- LEASE of a tensor side. -/
def State.tensorFault (s : State) (r : BitVec 512) (dest : Bool) : FaultRec :=
  s.faultRec 0x03 0 (Nest.base r) (BitVec.ofNat 64 (dest.toNat * (2 ^ 32 + 2 ^ 63)))

/-- LEASE unless the record's tensor is a declared range with the right (R237, R241). -/
def State.checkTensor (s : State) (r : BitVec 512) (dest : Bool) : Res Unit :=
  match s.here.task.tensor r with
  | some t => if (if dest then t.w else t.r) then .ok () else .error (s.tensorFault r dest)
  | none => .error (s.tensorFault r dest)

/-! ## Issue -/

/-- The command that a C instruction gives, from its nest records and staging words as they stand (R231). -/
def State.command (s : State) (op : Nat) (o : COps) : Cmd :=
  let words := (List.range (stagingSize op)).map fun k => s.greg (o.sbase.toNat + k)
  let w := words.headD 0
  { op := op, src := s.nreg o.nest.toNat, drec := s.nreg (Cw.drec w), words := words, flag := o.flag.toNat
    pri := o.pri, xord := o.xord, pc := s.pc, slot := s.cur.slot, seq := s.here.seq, started := false }

namespace Cmd
def word (m : Cmd) (k : Nat) : Word := m.words.getD k 0
/-- Whether it carries an external effect and is held (R228, R433). -/
def held (m : Cmd) : Bool :=
  match m.op with
  | 1 => Nest.kind m.drec = 0 || Cw.rel m.cw
  | 2 => Cw.tdir m.cw || Nest.kind m.drec = 0 || Cw.rel m.cw
  | 5 => Nest.kind m.src = 0 || Cw.rel m.cw
  | 6 => false
  | _ => true
end Cmd

/-- The engine that the acting slot commands (R225). -/
def State.engine (s : State) : Nat := if s.cur.slot = 6 then 1 else 0

/-- The command is held, or goes to its queue. -/
def State.send (s : State) (m : Cmd) : State :=
  let s' := if m.held then s.hold (.copy s.engine m) else s.modCtx s.cur.ctx fun x => x.enqueue s.engine m
  s'.modCtx s.cur.ctx fun x => { x with seq := x.seq + 1 }

/-- A command issues under its checks; one that is not held waits while its queue is full (R225). -/
def State.issueCmd (s : State) (i : Instr) (op : Nat) (o : COps) (check : Cmd → Res Unit) : Outcome :=
  let m := s.command op o
  if !m.held && decide (s.here.queueLen s.engine ≥ 8) && !s.nullified s.cur.slot i then .next s
  else s.slot i (do
    check m
    return s.send m)

/-! ## Checks per command -/

/-- ILLEGAL 0x15 (Table 8.5) for a copy whose first and second record must have the kinds given. -/
def State.checkCw (s : State) (m : Cmd) (kinds dkinds : List Nat) : Res Unit :=
  s.require (cwOk m.op m.cw && kinds.contains (Nest.kind m.src) && dkinds.contains (Nest.kind m.drec) &&
    Nest.elog m.src = Nest.elog m.drec) 0x15

def State.checkCpy (s : State) (m : Cmd) : Res Unit := do
  s.checkCw m [0, 1] [0, 1]
  s.checkSide m.src m.src (m.word 1) false
  s.checkSide m.src m.drec (m.word 2) true

/-- The tensor's descriptor states its unit; the record's ELOG must equal it (R237). [DEDUCED, unsafe: log 21] -/
def State.checkCpyt (s : State) (m : Cmd) : Res Unit := do
  s.checkCw m [2] [0, 1]
  s.require (match s.here.task.tensor m.src with
    | some t => t.elog = Nest.elog m.src
    | none => true) 0x15
  let toTensor := Cw.tdir m.cw
  let other : Res Unit := s.checkSide m.src m.drec (m.word 4) (!toTensor)
  if toTensor then do
    other
    s.checkTensor m.src true
  else do
    s.checkTensor m.src false
    other

def State.checkCmcast (s : State) (m : Cmd) : Res Unit := do
  s.checkCw m [0, 1] [1]
  s.require ((m.word 3).extractLsb' 24 40 = 0) 0x15
  s.require (decide ((m.word 3).toNat % 2 ^ 24 < 2 ^ (s.here.task.w * s.here.task.h))) 0x16
  s.checkSide m.src m.src (m.word 1) false
  s.checkSide m.src m.drec (m.word 2) true

def State.checkCgath (s : State) (m : Cmd) : Res Unit := do
  s.checkCw m [1] [0, 1]
  s.require (decide (Cw.member m.cw < s.here.task.w * s.here.task.h)) 0x16
  s.checkSide m.src m.src (m.word 1) false
  s.checkSide m.src m.drec (m.word 2) true

def State.checkCfill (s : State) (m : Cmd) : Res Unit := do
  s.require (cwOk m.op m.cw && [0, 1].contains (Nest.kind m.src)) 0x15
  s.checkSide m.src m.src (m.word 2) true

def State.checkCpref (s : State) (m : Cmd) : Res Unit := do
  s.require (cwOk m.op m.cw && [0, 2].contains (Nest.kind m.src)) 0x15
  if Nest.kind m.src = 2 then s.checkTensor m.src false else s.checkSide m.src m.src (m.word 1) false

/-- The checks that the fabric commands share (R432, R433); `es` is the element size. -/
def State.checkFabric (s : State) (m : Cmd) (valid : Bool) (side : Res Unit) (es : Nat) : Res Unit := do
  let fw := m.word 4
  s.require (cwOk m.op m.cw && valid && Fw.reserved fw = 0 && decide (Fw.dmod fw / 32 ≤ 512) &&
    (m.word 3).extractLsb' 40 24 = 0) 0x15
  side
  let h := (m.word 2).toNat
  if h % 32 ≠ 0 then .error (s.alignFault h 32)
  else if s.mtype h = 1 then .error (s.alignFault h 0)
  else if !s.here.task.leased h 32 .read then .error (s.leaseFault h 32 false)
  else if (m.word 3).toNat % es ≠ 0 then .error (s.alignFault (m.word 3).toNat es)
  else if Fw.cen fw ∧ Fw.coff fw % 8 ≠ 0 then .error (s.alignFault (Fw.coff fw) 8)
  else .ok ()

def State.checkPut (s : State) (m : Cmd) : Res Unit :=
  s.checkFabric m ([0, 1].contains (Nest.kind m.src)) (s.checkSide m.src m.src (m.word 1) false) (Nest.size m.src)
def State.checkGet (s : State) (m : Cmd) : Res Unit :=
  s.checkFabric m ([0, 1].contains (Nest.kind m.src) && !Fw.ack (m.word 4))
    (s.checkSide m.src m.src (m.word 1) true) (Nest.size m.src)
def State.checkRadd (s : State) (o : COps) (m : Cmd) : Res Unit :=
  s.checkFabric m (o.nest = 0) (.ok ()) 8

/-! ## The instructions (Tables 8.3, 14.9) -/

def execCnop (s : State) : Outcome := s.slot .cnop (.ok s)
def execCpy (o : COps) (s : State) : Outcome := s.issueCmd (.cpy o) 1 o s.checkCpy
def execCpyt (o : COps) (s : State) : Outcome := s.issueCmd (.cpyt o) 2 o s.checkCpyt
def execCmcast (o : COps) (s : State) : Outcome := s.issueCmd (.cmcast o) 3 o s.checkCmcast
def execCgath (o : COps) (s : State) : Outcome := s.issueCmd (.cgath o) 4 o s.checkCgath
def execCfill (o : COps) (s : State) : Outcome := s.issueCmd (.cfill o) 5 o s.checkCfill
def execCpref (o : COps) (s : State) : Outcome := s.issueCmd (.cpref o) 6 o s.checkCpref
def execPut (o : COps) (s : State) : Outcome := s.issueCmd (.put o) 7 o s.checkPut
def execGet (o : COps) (s : State) : Outcome := s.issueCmd (.get o) 8 o s.checkGet
def execRadd (o : COps) (s : State) : Outcome := s.issueCmd (.radd o) 9 o (s.checkRadd o)

end Sys2Proof.Machine
end

