-- ==== Sys2Proof/Machine/Sync.lean ====
section
/-! DEFINITION. Machine/Sync.lean: closing a checkpoint region and taking a checkpoint (spec/09 R282, R283), and the
Y-slot instructions (spec/08_scratchpad_and_copy.md R246 to R253). -/

namespace Sys2Proof.Machine

/-! ## Releasing a region (R283 steps 1 and 2) -/

/-- Regions that an espalier member has confirmed (R283). -/
def Ctx.confirmed (x : Ctx) : Nat := x.regionNo + x.released.toNat

/-- A member hands on the closed regions that every member has confirmed; `n` regions are confirmed by all. -/
def Ctx.passPast (x : Ctx) (n : Nat) : Ctx :=
  let first := x.confirmed - x.past.length
  let k := n - first
  let effs := (x.past.take k).flatMap (·.effs)
  { x with
    rel := x.rel ++ effs, past := x.past.drop k
    task := { x.task with released := x.task.released || !effs.isEmpty } }

/-- Every member of the espalier hands on what all have confirmed. -/
def State.releaseEsp (s : State) (c : Nat) : State :=
  let l := s.espCtxs c
  let n := l.foldl (fun n m => Nat.min n (s.ctx m).confirmed) (s.ctx c).confirmed
  l.foldl (fun (s : State) m => (s.modCtx m fun x => x.passPast n).drainReleased m) s

/-- The region's held effects are released (R283 step 1); an espalier member's wait until every member has
confirmed the region. What a handler has added since is released with them, when the bundle issues again. -/
def State.closeRegion (s : State) (c : Nat) : State :=
  if (s.ctx c).released then (if (s.ctx c).task.inEsp || (s.ctx c).cbuf.isEmpty then s else s.releaseHeld c)
  else if (s.ctx c).task.inEsp then
    (s.modCtx c fun x => { x with
      past := x.past ++ [⟨x.cap, x.arrived, x.capSeq, x.cbuf, x.reply⟩], cbuf := [], released := true }).releaseEsp c
  else (s.releaseHeld c).modCtx c fun x => { x with released := true }

/-- FBAR's posts (R252 step 2): to every member of the cluster, one from each member of the lead's espalier. -/
def State.barPosts (s : State) (c flag : Nat) : State :=
  let t := (s.ctx c).task
  let n := if t.inEsp then (if t.isLead then t.ew * t.eh else 0) else 1
  { s with posts := s.posts ++ (List.range (t.w * t.h)).flatMap fun m => List.replicate n ⟨coreOf c, t.uid, m, flag⟩ }

/-! ## The checkpoint (R283 step 5) -/

/-- Every interlocked load has returned, with its data or with its failure. -/
def Ctx.loadsDone (x : Ctx) : Bool := x.loads.all fun o => o.bad.isSome

/-- It waits until the region is confirmed; then the region is released, if it is not yet, and the state is
captured. Its latches are empty from here on (Table 2.8). [DEDUCED, unsafe: log 15] -/
def execCheckpointBundle (s : State) : Outcome :=
  let c := s.cur.ctx
  if !s.here.loadsDone then .next s
  else
    let s := (s.closeRegion c).endRerun c
    .next (s.capture c (fun x => { x with a := { x.a with latches := [] }, reply := none, released := false }) true)

/-! ## The Y instructions (Table 8.7) -/

def execYnop (s : State) : Outcome := s.slot .ynop (.ok s)

/-- A Y instruction that waits for its flag: its effect once the condition holds, else nothing. -/
def State.flagWait (s : State) (i : Instr) (f n : Nat) (done : State → State) : Outcome :=
  if s.nullified s.cur.slot i then .next s
  else if s.flagMet f n then .next (done (s.subFlag f n))
  else .next s

def execFwait (f : BitVec 4) (n : BitVec 7) (s : State) : Outcome :=
  s.flagWait (.fwait f n) f.toNat (n.toNat + 1) id

/-- FWAIT.ACQ is an acquire at DIE scope over S/V, UO and CP. -/
def execFwaitAcq (f : BitVec 4) (n : BitVec 7) (s : State) : Outcome :=
  s.flagWait (.fwaitAcq f n) f.toNat (n.toNat + 1) fun s => s.acquire s.cur.ctx .die pathsUoCp

/-- A post to the issuer itself is a local change; one to another member is held (R251). -/
def State.post1 (s : State) (f : Nat) (m : Option Nat) : Res State :=
  match m with
  | none => .error (s.illegal 0x16)
  | some m => .ok (if m = s.here.task.member then s.addFlag f 1 else s.hold (.fpost f m s.here.seq))

def execFpost (f : BitVec 4) (m : BitVec 5) (s : State) : Outcome :=
  s.slot (.fpost f m) (s.post1 f.toNat (s.here.task.postMember m.toNat))
def execFpostRel (f : BitVec 4) (dy dx : BitVec 3) (s : State) : Outcome :=
  s.slot (.fpostRel f dy dx) (s.post1 f.toNat (s.here.task.postRel dx dy))
def execFclr (f : BitVec 4) (s : State) : Outcome :=
  s.slot (.fclr f) (.ok (s.modArch s.cur.ctx fun a => a.setFlag f.toNat 0))
def execFinc (f : BitVec 4) (n : BitVec 8) (s : State) : Outcome :=
  s.slot (.finc f n) (.ok (s.addFlag f.toNat (n.toNat + 1)))

/-- The closing region is released and the posts are made once, before the wait (R252, R283). -/
def State.barOpen (s : State) (f : Nat) : State :=
  if s.here.released then s else (s.closeRegion s.cur.ctx).barPosts s.cur.ctx f

def execFbar (f : BitVec 4) (n : BitVec 8) (s : State) : Outcome :=
  if !s.cur.ckpt then s.slot (.fbar f n) (.error (s.illegal 0x14))
  else if s.nullified s.cur.slot (.fbar f n) then .next s
  else (s.barOpen f.toNat).flagWait (.fbar f n) f.toNat (n.toNat + 1) id

end Sys2Proof.Machine
end

