-- ==== Sys2Proof/Machine/Atomic.lean ====
section
/-! DEFINITION. Machine/Atomic.lean: the atomics, the update forms, and the ordered reductions
(spec/12_ordering_and_atomics.md R355, R362 to R373). -/

namespace Sys2Proof.Machine

/-! ## Annotations (R355, R363) -/

/-- The path mask that PSEL selects in ATPATH. -/
def State.atPaths (s : State) (psel : BitVec 2) : BitVec 4 := (s.cr 5).extractLsb' (4 * psel.toNat) 4

/-- What an atomic releases, and what it acquires. -/
def State.relOf (s : State) (o : XaOps) : Option (Scope × BitVec 4) :=
  if o.ord = .release ∨ o.ord = .acqRel then some (o.scope, s.atPaths o.psel) else none
def State.acqOf (s : State) (o : XaOps) : Option (Scope × BitVec 4) :=
  if o.ord = .acquire ∨ o.ord = .acqRel then some (o.scope, s.atPaths o.psel) else none

def State.acquireBy (s : State) : Option (Scope × BitVec 4) → State
  | some (sc, p) => s.acquire s.cur.ctx sc p
  | none => s

/-! ## The non-ordered atomics (R364, R365) -/

/-- Old value and new one at the home slice, one indivisible step; an FP add on an ordered-mode line is refused
(R375). -/
def State.homeAtomic (s : State) (op : AtOp) (va : Nat) (v e : Word) : State × Res Word :=
  let n := op.bytes
  let (s, pa) := s.resolve va .both
  match pa with
  | none => (s, .error (s.walkFault va n true))
  | some pa =>
    let s := s.l1Yield (coreOf s.cur.ctx) (pa / 128)
    match s.badAt pa n with
    | some _ => (s, .error (s.dataFault va))
    | none =>
      if op = .fadd ∧ s.orderedLine (pa / 128) then
        (s, .error (s.faultRec 0x05 0x01 (BitVec.ofNat 64 va) 0))
      else
        let old := BitVec.ofNat 64 (s.homeNat pa n)
        let (s, _) := s.readHome s.here.task.region .normal pa n
        (s.writeHome s.here.task.region .normal pa (bytesOf n (op.apply old v e).toNat), .ok old)

/-! ## Opening and closing a reduction (R369 to R371) -/

namespace Rdesc
def base (d : BitVec 512) : Nat := (d.extractLsb' 0 64).toNat
def nwords (d : BitVec 512) : Nat := (d.extractLsb' 64 17).toNat
def tfirst (d : BitVec 512) : Nat := (d.extractLsb' 96 16).toNat
def tcount (d : BitVec 512) : Nat := (d.extractLsb' 112 16).toNat
def window (d : BitVec 512) : Nat := (d.extractLsb' 128 7).toNat
def entries (d : BitVec 512) : Nat := (d.extractLsb' 144 9).toNat
def fp (d : BitVec 512) : Bool := d.getLsbD 160
def wordSize (d : BitVec 512) : Nat := if fp d then 4 else 8
/-- Every field is one that Table 12.6 allows; its reserved fields are ignored (R10). -/
def ok (d : BitVec 512) : Bool :=
  decide (base d % wordSize d = 0 ∧ 1 ≤ nwords d ∧ nwords d ≤ 65536 ∧ 1 ≤ tcount d ∧ tcount d ≤ 32768 ∧
    1 ≤ window d ∧ window d ≤ 64 ∧ window d ≤ entries d ∧ entries d ≤ 256)
end Rdesc

/-- The slice that homes a word. -/
def sliceOf (pa : Nat) : Nat × Nat := (homeDie pa, homeSlice pa)

def dedup (l : List Nat) : List Nat := l.foldl (fun a x => if a.contains x then a else a ++ [x]) []

/-- The words of a descriptor, if each is leased for reading and writing in normal memory. -/
def State.reductionWords (s : State) (d : BitVec 512) : State × Option (List Nat) :=
  let n := Rdesc.wordSize d
  (List.range (Rdesc.nwords d)).foldl (fun (p : State × Option (List Nat)) k =>
    let va := Rdesc.base d + k * n
    match p with
    | (s, some l) =>
      if s.here.task.leased va n .both && decide (s.mtype va = 0) then
        let (s, pa) := s.resolve va .both
        (s, pa.map fun x => l ++ [x])
      else (s, none)
    | q => q) (s, some [])

/-- Bytes of a word of a reduction. -/
def Reduction.wordSize (r : Reduction) : Nat := ordBytes r.fp

/-- Whether a slice can take a reduction's words of `n` bytes: free entries, ordered lines, which stay resident and so are
at most 16 of a set, and no byte of a word already open. [DEDUCED, unsafe: log 105] -/
def State.sliceTakes (s : State) (entries n : Nat) (words : List Nat) : Bool :=
  let k := sliceOf (words.headD 0)
  let here (r : Reduction) : List Nat := r.words.filter fun w => sliceOf w = k
  let used := ((s.reductions.filter fun r => !(here r).isEmpty).map (·.entries)).sum
  let lines := dedup ((s.reductions.flatMap here ++ words).map (· / 128))
  decide (used + entries ≤ 512) && decide (lines.length ≤ 256) &&
    lines.all (fun l => decide ((lines.filter fun x => l2Set x = l2Set l).length ≤ 16)) &&
    s.reductions.all fun r => (here r).all fun w => words.all fun v => decide (v + n ≤ w ∨ w + r.wordSize ≤ v)

/-- A line comes into its slice; one whose data is uncorrectable holds no byte there yet.
[DEDUCED, unsafe: log 105] -/
def State.bringLine (s : State) (region n : Nat) : State :=
  let s := s.sliceRead region .normal n (BitVec.allOnes 128)
  if (s.l2Find (homeDie (n * 128)) n).isSome then s else (s.l2Alloc region .normal n 0 0).getD s

/-- Lines in ordered mode come into their slices, where they stay (R370). -/
def State.bringLines (s : State) (region : Nat) (l : List Nat) : State :=
  (dedup (l.map (· / 128))).foldl (fun (s : State) n => s.bringLine region n) s

/-- OOPEN at the hub's side: 0, 1 BUSY or 2 BADDESC. -/
def State.openReduction (s : State) (pa : Nat) (d : BitVec 512) : State × Word :=
  if !Rdesc.ok d then (s, 2)
  else
    let (s, words) := s.reductionWords d
    match words with
    | none => (s, 2)
    | some l =>
      let slices := l.map sliceOf
      let fits := (List.range l.length).all fun k =>
        let sl := slices.getD k (0, 0)
        (slices.take k).contains sl || s.sliceTakes (Rdesc.entries d) (Rdesc.wordSize d) (l.filter fun w => sliceOf w = sl)
      if !fits then (s, 1)
      else
        let r : Reduction := ⟨pa, l, Rdesc.tfirst d, Rdesc.tcount d, Rdesc.window d, Rdesc.entries d, Rdesc.fp d,
          l.map fun _ => Rdesc.tfirst d, []⟩
        (({ s with reductions := s.reductions ++ [r] } : State).bringLines s.here.task.region l, 0)

/-- OCLOSE: 0, 1 INCOMPLETE, or 2. -/
def State.closeReduction (s : State) (pa : Nat) (v : Word) : State × Word :=
  if v.toNat > 1 then (s, 2)
  else match s.reductions.find? fun r => r.desc = pa with
    | none => (s, 2)
    | some r =>
      if v = 0 ∧ r.next.any (fun t => t ≠ (r.tfirst + r.tcount) % 2 ^ 16) then (s, 1)
      else ({ s with reductions := s.reductions.filter fun x => x.desc ≠ pa }, 0)

/-- A request on a descriptor at `va`, read at the CP path. -/
def State.onDescriptor (s : State) (va : Nat) (f : State → Nat → BitVec 512 → State × Word) : State × Res Word :=
  let (s, pa) := s.resolve va .read
  match pa with
  | none => (s, .error (s.walkFault va 64 false))
  | some pa =>
    let s := s.l1Yield (coreOf s.cur.ctx) (pa / 128)
    match s.badAt pa 64 with
    | some _ => (s, .error (s.dataFault va))
    | none =>
      let (s, b) := s.readHome s.here.task.region .normal pa 64
      let (s, r) := f s pa (BitVec.ofNat 512 (ofBytes b))
      (s, .ok r)

/-! ## Requests that a checkpoint bundle makes once (R301, R365, R371) -/

/-- What the acting context asks for is done, at once and indivisibly. -/
def State.makeRequest (s : State) : Request → State × Res Word
  | .atomic op va v e => s.homeAtomic op va v e
  | .tkt va n =>
    let (s', r) := s.loadRange va 32
    match r with
    | .ok l =>
      let (s', t) := s'.takeTickets (BitVec.ofNat 256 (ofBytes l)) (n.toNat % 2 ^ 16)
      (s', .ok t)
    | .error f => (s', .error f)
  | .oopen va => s.onDescriptor va fun s pa x => s.openReduction pa x
  | .oclose va v => s.onDescriptor va fun s pa _ => s.closeReduction pa v

/-- The address and the size that a request's load shows. -/
def Request.span : Request → Nat × Nat
  | .atomic op va _ _ => (va, op.bytes)
  | .tkt va _ => (va, 32)
  | .oopen va => (va, 64)
  | .oclose va _ => (va, 64)

def Reply.of : Res Word → Reply
  | .ok v => ⟨v, none⟩
  | .error f => ⟨0, some f⟩

/-- A reply becomes an interlocked load whose data is at hand. -/
def State.deliver (s : State) (d : Dst) (q : Request) (r : Reply) : State :=
  s.addLoad {
    wr := .s (Dst.num d) r.val, pc := s.pc, va := BitVec.ofNat 64 q.span.1, size := q.span.2, ext := false, bad := r.bad }

/-- The request is made, once, and its reply is part of the capture (R365). -/
def State.ask (s : State) (d : Dst) (q : Request) (acq : Option (Scope × BitVec 4)) : State :=
  let (s, x) := s.makeRequest q
  let r := Reply.of x
  let s := s.modCtx s.cur.ctx fun y => { y with reply := some r, task := { y.task with released := true } }
  (s.deliver d q r).acquireBy acq

/-- The release that a request is: it covers what was issued before its bundle, whose checkpoint's release it follows
(R356, R365). -/
def State.requestRelease (s : State) (rel : Option (Scope × BitVec 4)) : Option Release :=
  rel.map fun r => ⟨r.1, r.2, s.here.capSeq⟩

/-- An espalier member's request waits for the release of the regions that the member has closed; its load is
outstanding meanwhile (R283, R365). -/
def State.park (s : State) (d : Dst) (q : Request) (rel acq : Option (Scope × BitVec 4)) : State :=
  (s.addLoad {
    wr := .s (Dst.num d) 0, pc := s.pc, va := BitVec.ofNat 64 q.span.1, size := q.span.2, ext := false, bad := none
    acq := acq, asked := true }).modCtx s.cur.ctx fun x =>
      { x with asked := some ⟨q, s.requestRelease rel, acq, Dst.num d, s.pc⟩ }

/-- A slot's request: a rerun is given the captured reply again. None while it waits: for what the checkpoint
released, or for the release steps of the request's own annotation. -/
def State.request (s : State) (d : Dst) (q : Request) (rel acq : Option (Scope × BitVec 4)) : Option State :=
  match s.here.replay, s.here.reply with
  | true, some r => some ((s.deliver d q r).acquireBy acq)
  | _, _ =>
    if s.here.task.inEsp ∧ (s.here.past ≠ [] ∨ s.here.rel ≠ []) then some (s.park d q rel acq)
    else if s.here.rel ≠ [] then none
    else match s.releaseFor s.cur.ctx (s.requestRelease rel) with
      | (s, true) => some (s.ask d q acq)
      | (_, false) => none

/-- A slot whose request may wait. -/
def State.slotRequest (s : State) (i : Instr) (r : Res (Option State)) : Outcome :=
  match r with
  | .ok none => .next s
  | .ok (some t) => s.slot i (.ok t)
  | .error f => s.slot i (.error f)

/-- The reply to a request that waited reaches its load. -/
def Ctx.answered (x : Ctx) (dst : Nat) (r : Reply) : Ctx :=
  { x with
    asked := none, reply := some r, task := { x.task with released := true }
    loads := x.loads.map fun o =>
      if o.asked then { o with wr := .s dst r.val, bad := r.bad, acq := none, asked := false } else o }

/-- An espalier member's request is made once what it waits for is released, and its own release steps are done. -/
def State.makeAsked (s : State) (c : Nat) : State :=
  let x := s.ctx c
  match x.asked with
  | none => s
  | some q =>
    if x.past ≠ [] ∨ x.rel ≠ [] then s
    else match s.releaseFor c q.rel with
      | (s, false) => s
      | (s, true) =>
        let cur := s.cur
        let (s, y) := ({ s with cur := { ctx := c, slot := 8 } } : State).makeRequest q.req
        let r : Reply := match y with | .ok v => ⟨v, none⟩ | .error f => ⟨0, some { f with pc := q.pc }⟩
        let s := (s.modCtx c fun x => x.answered q.dst r).acquireBy q.acq
        { s with cur := cur }

/-! ## The non-ordered atomics (R365) -/

/-- The access of a word of `n` bytes at `va`. -/
def State.checkWord (s : State) (va : Word) (n : Nat) : Res Unit := s.checkMem va.toNat n n .both true true

/-- ILLEGAL 0x1D: AFADD under effective DET. -/
def State.checkDet (s : State) (op : AtOp) : Res Unit := s.require (!(decide (op = .fadd) && s.here.task.det)) 0x1D

/-- What selector 49 reads as for the value of an atomic (Table 2.7). -/
def AtOp.one : AtOp → Word
  | .fadd => oneF32
  | _ => 1

/-- The returning form. -/
def State.atomic (s : State) (i : Instr) (op : AtOp) (d : Dst) (a b : Src) (o : XaOps) : Outcome :=
  s.slotRequest i (do
    let va ← s.srcS a
    let v ← s.srcS b op.one
    s.require s.cur.ckpt 0x1C
    s.checkDet op
    s.checkWord va op.bytes
    return s.request d (.atomic op va.toNat v (s.reg (Dst.num d))) (s.relOf o) (s.acqOf o))

/-- The update form is held (R367, R368). -/
def State.update (s : State) (i : Instr) (op : AtOp) (a b : Src) : Outcome :=
  s.slot i (do
    let va ← s.srcS a
    let v ← s.srcS b op.one
    s.checkDet op
    s.checkWord va op.bytes
    return s.hold (.upd op va v s.pc))

def execAadd (d : Dst) (a b : Src) (o : XaOps) (s : State) : Outcome := s.atomic (.aadd d a b o) .add d a b o
def execAmin (d : Dst) (a b : Src) (o : XaOps) (s : State) : Outcome := s.atomic (.amin d a b o) .min d a b o
def execAmax (d : Dst) (a b : Src) (o : XaOps) (s : State) : Outcome := s.atomic (.amax d a b o) .max d a b o
def execAminn (d : Dst) (a b : Src) (o : XaOps) (s : State) : Outcome := s.atomic (.aminn d a b o) .minn d a b o
def execAmaxn (d : Dst) (a b : Src) (o : XaOps) (s : State) : Outcome := s.atomic (.amaxn d a b o) .maxn d a b o
def execAand (d : Dst) (a b : Src) (o : XaOps) (s : State) : Outcome := s.atomic (.aand d a b o) .and d a b o
def execAor (d : Dst) (a b : Src) (o : XaOps) (s : State) : Outcome := s.atomic (.aor d a b o) .or d a b o
def execAxor (d : Dst) (a b : Src) (o : XaOps) (s : State) : Outcome := s.atomic (.axor d a b o) .xor d a b o
def execAxchg (d : Dst) (a b : Src) (o : XaOps) (s : State) : Outcome := s.atomic (.axchg d a b o) .xchg d a b o
def execAcas (d : Dst) (a b : Src) (o : XaOps) (s : State) : Outcome := s.atomic (.acas d a b o) .cas d a b o
def execAfadd (d : Dst) (a b : Src) (o : XaOps) (s : State) : Outcome := s.atomic (.afadd d a b o) .fadd d a b o

def execAaddU (a b : Src) (s : State) : Outcome := s.update (.aaddU a b) .add a b
def execAminU (a b : Src) (s : State) : Outcome := s.update (.aminU a b) .min a b
def execAmaxU (a b : Src) (s : State) : Outcome := s.update (.amaxU a b) .max a b
def execAminnU (a b : Src) (s : State) : Outcome := s.update (.aminnU a b) .minn a b
def execAmaxnU (a b : Src) (s : State) : Outcome := s.update (.amaxnU a b) .maxn a b
def execAandU (a b : Src) (s : State) : Outcome := s.update (.aandU a b) .and a b
def execAorU (a b : Src) (s : State) : Outcome := s.update (.aorU a b) .or a b
def execAxorU (a b : Src) (s : State) : Outcome := s.update (.axorU a b) .xor a b
def execAfaddU (a b : Src) (s : State) : Outcome := s.update (.afaddU a b) .fadd a b

/-! ## The ordered atomics (R372) -/

def State.orderedAtomic (s : State) (i : Instr) (fp : Bool) (tk a b : Src) (o : XaOps) : Outcome :=
  s.slot i (do
    let t ← s.srcS tk
    let va ← s.srcS a
    let v ← s.srcS b (if fp then oneF32 else 1)
    s.checkWord va (ordBytes fp)
    return s.hold (.ordered fp va v (t.toNat % 2 ^ 16) (s.release (s.relOf o)) s.pc))

def execOadd (tk a b : Src) (o : XaOps) (s : State) : Outcome := s.orderedAtomic (.oadd tk a b o) false tk a b o
def execOfadd (tk a b : Src) (o : XaOps) (s : State) : Outcome := s.orderedAtomic (.ofadd tk a b o) true tk a b o

/-! ## OOPEN and OCLOSE (R371) -/

def execOopen (d : Dst) (a : Src) (o : XaOps) (s : State) : Outcome :=
  s.slotRequest (.oopen d a o) (do
    let va ← s.srcS a
    s.checkMem va.toNat 64 64 .read true false
    s.require s.cur.ckpt 0x1C
    return s.request d (.oopen va.toNat) (s.relOf o) none)

def execOclose (d : Dst) (a b : Src) (o : XaOps) (s : State) : Outcome :=
  s.slotRequest (.oclose d a b o) (do
    let va ← s.srcS a
    let (v, _) ← Res.both (s.srcS b) (s.checkMem va.toNat 64 64 .read true false)
    s.require s.cur.ckpt 0x1C
    return s.request d (.oclose va.toNat v) none (s.acqOf o))

/-! ## An ordered atomic at its home slice (R372, R373, R376) -/

/-- How the slice answers: applied or buffered, to be retried, or refused with a detail. -/
inductive OrdAnswer where
  | done | retry | refuse (detail next : Nat)
  deriving DecidableEq, Repr

/-- Apply a contribution to a word. -/
def State.applyOrdered (s : State) (fp : Bool) (region pa : Nat) (v : Word) : State :=
  let op : AtOp := if fp then .fadd else .add
  s.homeUpdate region pa op.bytes fun old => (op.apply (BitVec.ofNat 64 old) v 0).toNat

/-- Buffered contributions of word `w` that have become next are applied in turn. `fuel` is the buffer's length. -/
def State.applyBuffered (s : State) (region pa w : Nat) (r : Reduction) : Nat → State × Reduction
  | 0 => (s, r)
  | n + 1 =>
    let t := r.next.getD w 0
    match r.buf.find? fun b => b.1 = w && b.2.1 = t with
    | none => (s, r)
    | some b =>
      (s.applyOrdered r.fp region pa b.2.2).applyBuffered region pa w
        { r with next := r.next.set w ((t + 1) % 2 ^ 16), buf := r.buf.filter fun x => !(x.1 = w && x.2.1 = t) } n

/-- Admission of R372. -/
def State.admitOrdered (s : State) (q : OrdReq) : State × OrdAnswer :=
  match s.reductions.find? fun r => r.words.contains q.pa with
  | none => (s, .refuse 2 0)
  | some r =>
    let w := r.words.findIdx fun x => x = q.pa
    let next := r.next.getD w 0
    let dlt := (q.t + 2 ^ 16 - next) % 2 ^ 16
    let slice := sliceOf q.pa
    let put (s : State) (r' : Reduction) : State :=
      { s with reductions := s.reductions.map fun x => if x.desc = r.desc then r' else x }
    if r.fp ≠ q.fp then (s, .refuse 4 next)
    else if (q.t + 2 ^ 16 - r.tfirst) % 2 ^ 16 ≥ r.tcount then (s, .refuse 5 next)
    else if dlt ≥ 2 ^ 15 ∨ r.buf.any fun b => b.1 = w && b.2.1 = q.t then (s, .refuse 3 next)
    else if dlt = 0 then
      let s := s.applyOrdered q.fp q.region q.pa q.v
      let (s, r') := s.applyBuffered q.region q.pa w { r with next := r.next.set w ((next + 1) % 2 ^ 16) } r.buf.length
      (put s r', .done)
    else if dlt < r.window ∧ (r.buf.filter fun b => sliceOf (r.words.getD b.1 0) = slice).length < r.entries then
      (put s { r with buf := r.buf ++ [(w, q.t, q.v)] }, .done)
    else (s, .retry)

/-- The record of a refusal (Table 12.7). -/
def OrdReq.fault (q : OrdReq) (detail next : Nat) : FaultRec :=
  ⟨0x05, 8, detail, q.pc, q.va, BitVec.ofNat 64 (q.t % 2 ^ 16 + next % 2 ^ 16 * 2 ^ 16)⟩

/-- A refusal is a deferred fault of its task, or, when the task can no longer take it, a FAULT event (R376). -/
def State.refused (s : State) (q : OrdReq) (f : FaultRec) : State :=
  let mine (x : Ctx) : Bool := x.takesDeferred && x.task.uid = q.uid && x.task.member = q.member
  if (s.ctxs.any fun p => mine p.2) || s.saved.any fun k => k.members.any mine then
    s.modTask q.uid q.member fun x => x.defer 0 f
  else s.postLate f q.esp q.member q.region q.ticket q.frame

/-- Whether ordered atomic `k` of those under way may reach its slice: an earlier one of the same core to the same slice
goes before it (R343). -/
def State.ordFirst (s : State) (k : Nat) (q : OrdReq) : Bool :=
  !(s.ordNet.take k).any fun o => o.src = q.src && sliceOf o.pa = sliceOf q.pa

/-- Ordered atomic number `k` of those under way reaches its home slice. One refused for want of its turn goes to its
context's retry store. -/
def execOrderedAtomicArrival (k : Nat) (s : State) : Outcome :=
  match s.ordNet[k]? with
  | none => .next s
  | some q =>
    if !s.ordFirst k q then .next s
    else
      let s := { s with ordNet := dropNth s.ordNet k }
      let (s, r) := s.admitOrdered q
      match r with
      | .done => .next s
      | .retry => .next (s.modTask q.uid q.member fun x => { x with retry := x.retry ++ [q] })
      | .refuse d n => .next (s.refused q (q.fault d n))

/-- Entry `k` of a context's retry store is sent again (R373). -/
def execOrderedRetry (c k : Nat) (s : State) : Outcome :=
  match (s.ctx c).retry[k]? with
  | none => .next s
  | some q =>
    .next { s.modCtx c fun x => { x with retry := dropNth x.retry k } with
      ordNet := s.ordNet ++ [{ q with src := coreOf c }] }

end Sys2Proof.Machine
end

