-- ==== Sys2Proof/Machine/TaskOps.lean ====
section
/-! DEFINITION. Machine/TaskOps.lean: SPAWN, JOIN, EXIT, TKT and QPUSH
(spec/10_tasks_and_deques.md R301 to R320). -/

namespace Sys2Proof.Machine

/-! ## TKT and QPUSH (R301, R302) -/

def execTkt (d : Dst) (a b : Src) (s : State) : Outcome :=
  s.slotRequest (.tkt d a b) (do
    let va ← s.srcS a
    let (n, _) ← Res.both (s.srcS b) (s.checkMem va.toNat 32 32 .read true false)
    s.require s.cur.ckpt 0x19
    return s.request d (.tkt va.toNat n) none none)

/-- ALIGN of an operand that gives an address. -/
def State.alignedAt (s : State) (x : Src) (n : Nat) : Res Unit := do
  let va ← s.srcS x
  if va.toNat % n ≠ 0 then .error (s.alignFault va.toNat n) else pure ()

/-- Read right over the bytes at an operand's address. -/
def State.readable (s : State) (x : Src) (n : Nat) : Res Unit := do
  let va ← s.srcS x
  s.checkMem va.toNat n n .read true false

/-- The checks of QPUSH, in R302's order. [DEDUCED, unsafe: log 19; DEDUCED, unsafe: log 103] -/
def State.checkPush (s : State) (a b : Src) (ticketed : Bool) : Res Unit :=
  Res.lowest [s.alignedAt a 32, s.alignedAt b 64, s.readable a 32, s.readable b 64,
    s.require (ticketed || !s.here.task.det) 0x1A]

/-- A push takes the capability's and the record's bytes at issue. Where they cannot be read, nothing is pushed and the
fault falls due later (R395). [DEDUCED, unsafe: log 16] -/
def State.push64 (s : State) (a b : Src) (tk : Option Word) : Res State := do
  s.checkPush a b tk.isSome
  let cap ← s.srcS a
  let rec_ ← s.srcS b
  let (s1, x) := s.loadRange cap.toNat 32
  let (s2, y) := s1.loadRange rec_.toNat 64
  match x, y with
  | .ok x, .ok y => return s2.hold (.qpush (BitVec.ofNat 256 (ofBytes x)) (BitVec.ofNat 512 (ofBytes y))
      (tk.map fun t => t.toNat % 2 ^ 32) s2.here.seq)
  | .error f, _ => return s2.deferOpen f
  | .ok _, .error f => return s2.deferOpen f

def execQpush (a b : Src) (s : State) : Outcome := s.slot (.qpush a b) (s.push64 a b none)
def execQpushT (tk a b : Src) (s : State) : Outcome :=
  s.slot (.qpushT tk a b) (do
    let (t, _) ← Res.both (s.srcS tk) (s.checkPush a b true)
    s.push64 a b (some t))

/-! ## SPAWN (R305 to R307) -/

/-- Held spawns of a context, in any region not yet released. -/
def Ctx.heldSpawns (x : Ctx) : Nat :=
  ((x.rel ++ x.past.flatMap (·.effs) ++ x.cbuf).filter fun e => match e with | .spawn .. => true | _ => false).length

/-- Spill entries that the subtree of region `a` holds. -/
def State.spillsOf (s : State) (a : Nat) : Nat :=
  ((s.ctxs.map (·.2) ++ s.saved.flatMap (·.members)).map fun x => (x.spill.filter fun e => s.within a e.region).length).sum

/-- spill_possible() of R306. -/
def State.spillPossible (s : State) (x : Ctx) : Bool :=
  decide (16 ≤ x.deque.length) && decide (x.spill.length + 16 ≤ 4096) &&
    (x.deque.take 16).all fun e => (s.lineage 8 e.region).all fun a => decide (s.spillsOf a + 16 ≤ s.effSpillq a)

/-- The sixteen oldest entries go to the newest end of the ring. -/
def Ctx.spillOld (x : Ctx) : Ctx := { x with deque := x.deque.drop 16, spill := x.spill ++ x.deque.take 16 }

/-- Whether a SPAWN runs its child inline (R305, R307). -/
def State.inlineSpawn (s : State) : Bool :=
  let x := s.here
  decide (s.cr 0x21 ≠ 0) ||
    !(decide (x.deque.length + x.heldSpawns < 64) || s.spillPossible x)

/-- The spawn counter advances, and WT's result is on its way. -/
def State.countSpawn (s : State) (wt : Bool) (d : Dst) : State :=
  let t := s.cr 0x22
  let s := s.modArch s.cur.ctx fun a => a.setCr 0x22 ((t + 1) &&& 0xFFFF)
  if wt then s.putQuiet d 1 t else s

/-- A held SPAWN. -/
def State.holdSpawn (s : State) (f : Word) (t : Nat) : State :=
  let x := s.here
  let s := if x.deque.length + x.heldSpawns + 1 ≥ 64 ∧ s.spillPossible x then
      ((s.modCtx s.cur.ctx Ctx.spillOld).ringTraffic s.cur.ctx true).recount else s
  s.hold (.spawn f t (s.cr 0x20) s.here.seq)

/-- The child's own registers (R307). -/
def Arch.inlineChild (a : Arch) (v : FrameView) (record : Nat) : Arch :=
  let f := v.bits
  let child := freshArch f v.addr (vaRanges (v.table.getD [])) [] 0
  let sp := if Frame.stkidx f = 0 then BitVec.ofNat 64 record else Tab.get 0 child.s 31
  let regs := (List.range (Frame.ninit f)).foldl (fun t k => Tab.set 0 t (k + 1) (Frame.sinit f (k + 1))) a.s
  { a with
    s := Tab.set 0 (Tab.set 0 regs 30 sp) 31 sp
    cr := [(2, if Frame.stkidx f = 0 then 0 else Tab.get 0 child.cr 2), (3, Tab.get 0 child.cr 3),
      (0x20, BitVec.ofNat 64 v.addr), (0x21, BitVec.ofNat 64 record), (0x22, 0)].foldl
        (fun t p => Tab.set 0 t p.1 p.2) a.cr }

/-- The inline call of a child whose frame has been read, by a spawner as it stood: `next` is the PC that follows
its bundle. -/
def State.inlineCall (s : State) (v : FrameView) (next : Word) : Res State := do
  let sp := s.reg 31
  let record := (sp - 64).toNat
  if record % 8 ≠ 0 then .error (s.alignFault record 8) else pure ()
  if record < (s.cr 2).toNat then .error (s.stackFault 1 (BitVec.ofNat 64 record) (s.cr 2)) else pure ()
  if !s.here.task.leased record 64 .write then .error (s.leaseFault record 64 true) else pure ()
  if s.mtype record = 1 then .error (s.alignFault record 0) else pure ()
  let words := [next, s.reg 30, sp, s.cr 2, s.cr 3, s.cr 0x20, s.cr 0x21, s.cr 0x22]
  let s1 := s.holdStore record ((words.flatMap fun w => bytesOf 8 w.toNat).map some)
  return (s1.modArch s.cur.ctx fun a => a.inlineChild v record).modCur fun k =>
    { k with jump := some (Frame.entry v.bits) }

/-- An inline SPAWN reads the child's frame and checks it first (R307); one that cannot be read is BADFRAME detail 0x01
(Table 10.2). [DEDUCED, unsafe: log 16] -/
def State.spawnInline (s : State) (wt : Bool) (d : Dst) (f : Word) : Res State := do
  let c := s.cur.ctx
  let t := (s.cr 0x22).toNat
  let task := s.here.task
  let s0 := s.countSpawn wt d
  let (s1, seen) := s0.readFrame true (dieOf c) task.region f.toNat
  match seen with
  | .bad => .error (s.dataFault f.toNat)
  | .unreadable => .ok (s1.badFrame task.region 0x01 t f.toNat)
  | .view v =>
    match s1.frameDetail (s.asidAt c) (some (task.ranges, s1.leaseTensors task.lease)) v with
    | some x => .ok (s1.badFrame task.region x t f.toNat)
    | none => s1.inlineCall v (s.here.a.advance s.cur).pc

def execSpawn (wt : Bool) (d : Dst) (a : Src) (s : State) : Outcome :=
  s.slot (.spawn wt d a) (s.control (do
    let f ← s.srcS a
    if f.toNat % 256 ≠ 0 then .error (s.alignFault f.toNat 256) else pure ()
    if f.toNat ≥ 2 ^ 56 ∨ !s.here.task.leased f.toNat 256 .read then .error (s.leaseFault f.toNat 256 false)
    else pure ()
    s.require (s.here.task.tile.isNone && s.here.task.w * s.here.task.h = 1) 0x1B
    if s.inlineSpawn then s.spawnInline wt d f
    else return (s.countSpawn wt d).holdSpawn f (s.cr 0x22).toNat))

/-! ## The end of a segment (R315, R320) -/

/-- What the wait for a context's commands waits for. -/
def State.commandsDone (s : State) (c : Nat) : Bool :=
  let x := s.ctx c
  x.cmds.isEmpty && !s.frags.any fun g => g.uid = x.task.uid && g.member = x.task.member

/-- Bytes of one line as core `k` sees them: those that its L1 holds dirty, else those at their home. -/
def State.dirtyOver (s : State) (k pa n : Nat) : List Byte :=
  match s.l1Find k (pa / 128) with
  | some l => (List.range n).map fun i =>
      if l.st = .d && l.dirty.getLsbD (pa % 128 + i) then l.byte (pa % 128 + i) else s.homeByte (pa + i)
  | none => s.homeRead pa n

/-- `n` bytes at offset `off` of the context's frame, as its own stores leave them (R98, R315). -/
def State.frameField (s : State) (c off n : Nat) : Nat :=
  match s.vaPa (s.asidAt c) (Tab.get 0 (s.ctx c).a.cr 0x20).toNat with
  | some pa => ofBytes (s.forward c (pa + off) (s.dirtyOver (coreOf c) (pa + off) n))
  | none => 0

/-- JCOUNT of the context's frame; 0 in an inline child (R307, R315). -/
def State.joinCount (s : State) (c : Nat) : Nat :=
  if Tab.get 0 (s.ctx c).a.cr 0x21 ≠ 0 then 0 else s.frameField c 56 4

/-- CONTBLK of the context's frame. -/
def State.contBlk (s : State) (c : Nat) : Nat := s.frameField c 80 8

/-- The continuation block (Table 10.4). -/
def Arch.contBytes (a : Arch) : List Byte :=
  let cr (n : Nat) : List Byte := bytesOf 8 (Tab.get 0 a.cr n).toNat
  (List.range 16).flatMap (fun k => bytesOf 8 (Tab.get 0 a.s (16 + k)).toNat) ++ bytesOf 8 a.pc.toNat ++
    bytesOf 8 (Tab.get 0 a.b 3).toNat ++ cr 2 ++ cr 3 ++ cr 5 ++ cr 0x21 ++
    bytesOf 2 (packN 1 ((List.range 4).map fun k => (Tab.get false a.c (4 + k)).toNat)) ++
    bytesOf 2 (Tab.get 0 a.cr 0x22).toNat ++ bytesOf 4 a.lane.toNat ++ bytesOf 8 a.popcnt.toNat

/-- Deferred faults that no later bundle of the context can take are posted as FAULT events.
[DESIGN CHOICE, unsafe: log 96] -/
def State.postDeferred (s : State) (c : Nat) : State :=
  let t := (s.ctx c).task
  let s' := (s.ctx c).deferred.foldl (fun (s : State) p => s.postLate p.2 t.inEsp t.member t.region t.ticket t.frame) s
  s'.modCtx c fun x => { x with deferred := [] }

/-- The segment of context `c` ends: its block is written to `blk`, the frame is marked, and the context leaves. -/
def State.suspend (s : State) (c blk : Nat) : State :=
  let s := (s.finishArray c).modArch c Arch.landAll
  let x := s.ctx c
  let t := x.task
  let asid := s.asidAt c
  let frame := Tab.get 0 x.a.cr 0x20
  let s := s.performStore c 8 x.a.pc .normal true (x.a.contBytes.map some) blk
  let s : State := match s.vaPa asid frame.toNat with
    | some pa => (s.walkReads t.region asid frame.toNat).atomic64 (coreOf c) t.region (joinPa pa) fun w =>
        w % 2 ^ 32 + (bitN w 33).toNat * 2 ^ 33 + 2 ^ 32 + t.region % 4096 * 2 ^ 34 + t.ticket % 2 ^ 16 * 2 ^ 48
    | none => s
  ({ s with suspended := s.suspended ++ [(⟨asid, frame, t.lease, t.ranges, t.tensors, t.det⟩ : Suspended)] } : State).postDeferred c
    |>.leaveTask c |>.startNext c

/-- A JOIN that finds no child continues in place. [DEDUCED, unsafe: log 92] -/
def Ctx.joinInPlace (x : Ctx) : Ctx := { x with ending := none, released := false, reply := none }

/-- The task of a context retires: every member has issued EXIT, or, with `exit` false, a fault has ended it, and
PARENT is not decremented (R33, R39, R279, R320). [DEDUCED, unsafe: log 14] -/
def State.retireTask (s : State) (c : Nat) (exit : Bool) : State :=
  let t := (s.ctx c).task
  let members := s.holders t.uid
  let first := (members.find? fun m => (s.ctx m).task.member = 0).getD c
  let s := if exit then s.decParent (some first) t.region t.parent else s
  let s := s.complete t.region t.cnode.toNat
  let s := members.foldl (fun (s : State) m => s.leaveTask m) s
  members.foldl State.startNext ((s.taskDone t.region).dropLease t.lease).recount

/-- The end of a member once nothing of it is left to perform: its commands have completed, its M instructions
complete (Table 7.3), and its effects are released at FABRIC scope. The last member's end retires the task. -/
def State.finishMember (s : State) (c : Nat) (exit : Bool) : State :=
  if !s.commandsDone c then s
  else match s.releaseSteps c .fabric 15 (s.ctx c).seq with
    | (s, false) => s
    | (s, true) =>
      let s := ((s.finishArray c).postDeferred c).modCtx c fun x => { x with exited := true }
      let t := (s.ctx c).task
      let l := s.holders t.uid
      let out := l.filter fun m => (s.ctx m).exited
      if out.length = (if exit then t.w * t.h else l.length) then s.retireTask c exit else s

/-- What is left of a context's JOIN, its EXIT or its end by a fault happens as far as it can.
[DEDUCED, unsafe: log 14] -/
def State.finishEnding (s : State) (c : Nat) : State :=
  match (s.ctx c).ending with
  | none => s
  | some e =>
    let s := s.drainReleased c
    let x := s.ctx c
    if x.rel ≠ [] ∨ x.past ≠ [] ∨ x.exited then s
    else match e with
      | .join blk =>
        let s' := s.acquire c .module pathsUoCp
        if s'.joinCount c = 0 then s'.capture c Ctx.joinInPlace false
        else if !s.commandsDone c || !x.loadsDone then s
        else match s'.releaseSteps c .module pathsUoCp x.seq with
          | (s', true) => s'.suspend c blk
          | (s', false) => s'
      | .exit => s.finishMember c true
      | .fault => s.finishMember c false

/-- The bundle's PC advances, its region's effects are released (an espalier member's once every member has confirmed),
and the end begins. [DEDUCED, unsafe: log 17] -/
def State.beginEnding (s : State) (e : Ending) : State :=
  let c := s.cur.ctx
  let s := if (s.ctx c).task.inEsp then s.advance.closeRegion c else s.advance.releaseHeld c
  ((s.endRerun c).modCtx c fun x => { x with ending := some e }).finishEnding c

/-- R315, R321, R265. -/
def State.checkJoin (s : State) : Res Unit := do
  let t := s.here.task
  s.require (!t.inEsp) 0x17
  s.require (s.here.st ≠ .trap && t.tile.isNone && t.w * t.h = 1) 0x1B
  if s.joinCount s.cur.ctx = 0 then .ok ()
  else
    let b := s.contBlk s.cur.ctx
    if b = 0 then .error (s.leaseFault 0 192 true) else s.checkMem b 192 64 .write true false

def execJoin (s : State) : Outcome :=
  s.slot .join (s.control (do
    s.checkJoin
    return s.beginEnding (.join (s.contBlk s.cur.ctx))))

/-- An EXIT with INLPTR ≠ 0 returns from the inline child (R320). It is itself an EXIT, on which a fault of its read falls
due (R97, R395). [DEDUCED, unsafe: log 16; DEDUCED, unsafe: log 32] -/
def State.returnInline (s : State) : Res State := do
  let p := (s.cr 0x21).toNat
  s.checkMem p 64 8 .read true false
  let (s1, r) := s.loadRange p 64
  let b ← r
  let w (k : Nat) : Word := BitVec.ofNat 64 (ofBytes ((b.drop (8 * k)).take 8))
  return (s1.modArch s.cur.ctx fun a => { a with
    s := Tab.set 0 (Tab.set 0 a.s 30 (w 1)) 31 (w 2)
    cr := [(2, w 3 &&& ~~~0x7), (3, w 4 &&& ~~~0x1F), (0x20, w 5), (0x21, w 6), (0x22, w 7 &&& 0xFFFF)].foldl
      (fun t p => Tab.set 0 t p.1 p.2) a.cr }).modCur fun k => { k with jump := some (w 0) }

/-- EXIT begins the end of its segment; with INLPTR ≠ 0 it returns from the inline child, in RUN and in TRAP alike (R132,
R320). [DEDUCED, unsafe: log 32] -/
def execExit (s : State) : Outcome :=
  s.slot .exit (s.control (if s.cr 0x21 ≠ 0 then s.returnInline else .ok (s.beginEnding .exit)))

end Sys2Proof.Machine
end

