-- ==== Sys2Proof/Machine/System.lean ====
section
/-! DEFINITION. Machine/System.lean: MWAIT (spec/14_gidin_fabric.md R438), INVL and PROBE (spec/13 R398 to R400),
TRAP and ERET (spec/09 R277, R278), and token expansion (spec/02 R68 to R70). -/

namespace Sys2Proof.Machine

/-! ## MWAIT (R438) -/

/-- The word of an MWAIT, read at its home, or the fault of the read, with MWAIT's operands. -/
def State.mwaitWord (s : State) (a b : Src) : Res (State × Res Word × Word × Word) := do
  let va ← s.srcS a
  let (v, _) ← Res.both (s.srcS b) (s.checkMem va.toNat 8 8 .read true false)
  let (s', pa) := s.resolve va.toNat .read
  match pa with
  | none => return (s', .error (s.walkFault va.toNat 8 false), va, v)
  | some pa =>
    match s'.badAt pa 8 with
    | some _ => return (s', .error (s.dataFault va.toNat), va, v)
    | none =>
      let (s', w) := s'.readHome s.here.task.region .normal pa 8
      return (s', .ok (BitVec.ofNat 64 (ofBytes w)), va, v)

/-- It waits until `met` holds of the word and the operand; then it is an acquire over every path. At a rerun's first
bundle its wait is over (R283). A word that cannot be read ends the wait, and the fault falls due later, as a load's does
(R97, R395). [DEDUCED, unsafe: log 16] -/
def State.mwait (s : State) (i : Instr) (d : Dst) (a b : Src) (met : Word → Word → Bool) : Outcome :=
  match s.mwaitWord a b with
  | .error f => s.slot i (.error f)
  | .ok (s', .error f, va, _) =>
    if s.nullified s.cur.slot i then .next s
    else .next (s'.addLoad { wr := .s (Dst.num d) 0, pc := s.pc, va := va, size := 8, ext := false, bad := some f })
  | .ok (s', .ok x, _, v) =>
    if s.nullified s.cur.slot i then .next s
    else if s.here.replay || met x v then .next ((s'.acquire s.cur.ctx .fabric 15).putQuiet d 1 x)
    else .next s

def execMwait (d : Dst) (a b : Src) (s : State) : Outcome :=
  s.mwait (.mwait d a b) d a b fun x v => decide (v.toNat ≤ x.toNat)
def execMwaitNe (d : Dst) (a b : Src) (s : State) : Outcome :=
  s.mwait (.mwaitNe d a b) d a b fun x v => decide (x ≠ v)

/-! ## INVL and PROBE (R398 to R400) -/

def State.invl (s : State) (asid : Src) (all : Bool) (a b : Src) : Res State := do
  let id ← s.srcS asid
  let va ← s.srcS a
  let n ← s.srcS b
  s.require (s.here.task.region = 0) 0x1E
  return s.hold (.invl (id.toNat % 2 ^ 16) all va n s.here.seq)

def execInvl (asid a b : Src) (s : State) : Outcome := s.slot (.invl asid a b) (s.invl asid false a b)
def execInvlAll (asid : Src) (s : State) : Outcome :=
  s.slot (.invlAll asid) (s.invl asid true (.special .zero) (.special .zero))

/-- Table 13.9 for a VA of the acting context, whose leaf after its confirming walk is `leaf`. -/
def State.probeWord (s : State) (va : Nat) (leaf : Option Word) : Word :=
  let c := s.cur.ctx
  let g := s.seg (s.asidAt c) va
  let code := Seg.sizeCode (s.rafEntry (s.asidAt c) va)
  let frame : Nat := match leaf with
    | some x => if s.here.task.region = 0 then pteFrame x else 0
    | none => 0
  let word (rights idx : Nat) : Word :=
    BitVec.ofNat 64 (1 + 2 * rights + 16 * idx + 128 * g.mtype + 512 * code + frame)
  if va ≥ 2 ^ 57 then 0
  else match s.here.task.ranges.find? fun r => r.base ≤ va && va < r.base + r.len with
    | some r => word (r.r.toNat + 2 * r.w.toNat + 4 * r.x.toNat) r.idx
    | none => if g.xall && (match leaf with | some x => pteX x | none => false) then word 4 7 else 0

def execProbe (d : Dst) (a : Src) (s : State) : Outcome :=
  s.slot (.probe d a) (do
    let va ← s.srcS a
    let c := s.cur.ctx
    let asid := s.asidAt c
    let (s', w) : State × WalkRes := if va.toNat ≥ 2 ^ 57 then (s, .unmapped)
      else s.translate (dieOf c) (some (coreOf c)) s.here.task.region asid va.toNat fun _ => false
    let leaf : Option Word := match w with | .leaf x => some x | _ => none
    return s'.addLoad { wr := .s (Dst.num d) (s'.probeWord va.toNat leaf), pc := s.pc, va := va, size := 8, ext := false, bad := none })

/-! ## TRAP and ERET (R277, R278) -/

/-- TRAP's bundle takes effect and its PC advances; then the trap is taken, or the task ends.
[DEDUCED, unsafe: log 13] -/
def execTrap (imm : BitVec 13) (s : State) : Outcome :=
  if s.nullified s.cur.slot (.trap imm) then .next s
  else if s.here.task.inEsp then s.slot (.trap imm) (.error (s.illegal 0x17))
  else
    let f := s.faultRec 0x09 (imm.toNat % 256) (imm.setWidth 64) 0
    .next (s.advance.takeFault s.cur.ctx f)

/-- The loads of ERET's own bundle, the only ones that can be outstanding when it issues, return with it; for those of
device pages, whose access is still to come, the bundle after it waits, so that none lands later than ERET's own end.
[DEDUCED, unsafe: log 13] -/
def Ctx.landLoads (x : Ctx) : Ctx :=
  let now (o : Outst) : Bool := o.bad.isNone && !o.ext && !o.asked
  { x with
    a := (x.loads.filter now).foldl (fun a o => a.write o.wr) x.a
    loads := x.loads.filter fun o => !now o }

/-- The bundle waits for the handler's results before it issues; the results of its own slots land with it. The
interrupted checkpoint bundle has performed steps 1 and 2 (R283). [DEDUCED, unsafe: log 13] -/
def execEret (s : State) : Outcome :=
  let c := s.cur.ctx
  s.slot .eret (s.control (do
    s.require (s.here.a.loops.isEmpty || s.here.st ≠ .trap) 0x12
    s.require (s.here.st = .trap) 0x18
    let s1 := ((s.finishArray c).modArch c Arch.landAll).modCtx c fun x =>
      let x := x.landLoads
      let epc := Tab.get 0 x.a.cr 4
      { x with
        st := .run, a := { x.a.eret with pc := epc }, fresh := !x.loads.isEmpty
        released := (x.a.trap.bind (·.opened)) = some epc }
    return s1.modCur fun k => { k with moved := true }))

/-! ## Tokens (R68 to R70) -/

def isNop : Instr → Bool
  | .snop | .vnop | .mnop | .cnop | .ynop | .xnop => true
  | _ => false

/-- The instructions of a bundle that are no NOP, PLOG's in slot 0. -/
def todoOf (b : Bundle) : List (Nat × Instr) :=
  (match b.plog with | some i => [(0, i)] | none => []) ++ b.slots.filter fun p => !isNop p.2

/-- The bundle in issue becomes the 256 bits given. -/
def State.loadBundle (s : State) (w : BitVec 256) : State :=
  let b := readBundle w
  s.modCur fun k => { k with bits := w, ckpt := b.ckpt, profile := b.profile, todo := todoOf b }

/-- An ILLEGAL of a slot of the bundle in issue, as `State.illegal` records it; slot 15 shows the header's bits
(Table 9.5). -/
def State.illegalAt (s : State) (slot detail : Nat) : FaultRec :=
  let field := if slot = 15 then (if detail = 0x10 then 0 else slotField s.cur.bits 0) else slotField s.cur.bits slot
  ⟨0x01, slot, detail, s.pc, BitVec.ofNat 64 field, 0⟩

/-! ## Decode causes (R54, R66) -/

/-- The first cause of a list in slot order, the lowest detail of a slot first (R54). -/
def lowest (l : List (Nat × Nat)) : Option (Nat × Nat) :=
  l.foldl (fun m p => match m with
    | none => some p
    | some q => if p.1 * 256 + p.2 < q.1 * 256 + q.2 then some p else some q) none

/-- Whether an instruction needs a profile (Table 2.15, 0x06). -/
def needsProfile : Instr → Bool
  | .macc .. | .mset .. | .mpush .. | .mshift .. | .mdrain .. | .mzero .. | .mload .. | .mswap
  | .mdrainq .. | .vrdsum .. | .vscan .. => true
  | _ => false

/-- The destination conflicts of R53, each with the latest slot that names the destination. -/
def conflicts (l : List (Nat × Instr)) : List (Nat × Nat) :=
  let named := l.flatMap fun p => (destsOf p.2).map fun r => (p.1, r)
  named.filterMap fun p =>
    if named.any (fun q => q.2 = p.2 && decide (q.1 < p.1)) && !named.any (fun q => q.2 = p.2 && decide (p.1 < q.1)) then
      some (p.1, 0x09)
    else none

/-- Decode causes of an instruction that its own bits do not show: 0x0C of a token's DLD, 0x14, and a block format
that its width cannot hold. -/
def State.placeDetails (s : State) (p : Nat × Instr) : List (Nat × Nat) :=
  match p.2 with
  | .dld .. => if s.cur.fromToken then [(p.1, 0x0C)] else []
  | .fbar .. => if s.cur.ckpt then [] else [(p.1, 0x14)]
  | .vqnt t _ _ _ ty _ k0 _ => if Vec.blkFits t ty.toNat (s.slotWidth p.1) k0.toNat then [] else [(p.1, 0x08)]
  | .vdq t _ _ _ ty k0 _ => if Vec.blkFits t ty.toNat (s.slotWidth p.1) k0.toNat then [] else [(p.1, 0x08)]
  | _ => []

/-- Every decode cause of the bundle in issue (Table 2.15). -/
def State.decodeDetails (s : State) : List (Nat × Nat) :=
  bundleDetails s.cur.bits ++
  (if s.cur.profile ≠ 0 then [] else
    ((s.cur.todo.find? fun p => needsProfile p.2).map fun p => (p.1, 0x06)).toList ++
    (if s.here.task.det then [(0, 0x07)] else [])) ++
  conflicts s.cur.todo ++ s.cur.todo.flatMap s.placeDetails

/-- The entry that a token names, or the 0x0B of one that is no full bundle (R54, R69). -/
def State.entry (s : State) (index : BitVec 9) : Res (BitVec 256) :=
  match Tab.get none s.here.a.dict index.toNat with
  | none => .error (s.illegalAt 15 0x0B)
  | some e => if e.extractLsb' 254 2 ≠ 0 then .error (s.illegalAt 15 0x0B) else .ok e

/-- The bundle in issue becomes the token's expansion. A delta without an S immediate is 0x0B of slot 1, one decode cause
of the expanded bundle among its others (R54, R69). -/
def State.loadToken (s : State) (index : BitVec 9) (delta : BitVec 7) : Res State := do
  let e ← s.entry index
  let bad : Bool := delta ≠ 0 && !hasImmForm e
  let t := (s.loadBundle (if delta = 0 || bad then e else expandToken e delta)).modCur fun k => { k with fromToken := true }
  match if bad then lowest ((1, 0x0B) :: t.decodeDetails) else none with
  | some p => .error (t.illegalAt p.1 p.2)
  | none => return t

def execToken (index : BitVec 9) (delta : BitVec 7) (s : State) : Outcome :=
  match s.loadToken index delta with
  | .ok t => .next t
  | .error f =>
    let t := s.takeFault s.cur.ctx f
    .next { t with cur := { t.cur with raised := some f } }

def execXnop (s : State) : Outcome := s.slot .xnop (.ok s)

end Sys2Proof.Machine
end

