-- ==== Sys2Proof/Machine/Cycle.lean ====
section
/-! DEFINITION. Machine/Cycle.lean: what a context waits for before its next bundle issues (spec/02 R43, R54, R66,
spec/03 R84, spec/05 R152, spec/08 R225, spec/09 R264, R278, R283, R284), the merge stage (spec/02 R72 to R76),
and a context's own steps: results, loads, array points, drain writes and random words. -/

namespace Sys2Proof.Machine

/-! ## Bringing the next bundle -/

/-- Whether a context may issue. -/
def Ctx.runs (x : Ctx) : Bool := (decide (x.st = .run) || decide (x.st = .trap)) && x.ending.isNone && !x.exited

/-- The 256 bits at a context's PC, or the fault of R395, or DATA for uncorrectable ones. -/
def State.fetchBits (s : State) (c : Nat) : State × Res (BitVec 256) :=
  let x := s.ctx c
  let pc := x.a.pc
  let va := pc.toNat / 32 * 32
  let asid := s.asidAt c
  let need : Need := ⟨false, false, true⟩
  let refused : FaultRec := ⟨0x03, 15, 0, pc, pc, BitVec.ofNat 64 (32 + 2 ^ 34)⟩
  if !s.fetchRange x.task asid va then (s, .error refused)
  else
    let (s, w) := s.translate (dieOf c) (some (coreOf c)) x.task.region asid va need.onLeaf
    match w with
    | .leaf y =>
      if !need.onLeaf y then (s, .error refused)
      else
        let pa := leafPa y (s.seg asid va).plog va
        match s.badAt pa 32 with
        | some _ => (s, .error ⟨0x08, 15, 0, pc, pc, 0⟩)
        | none =>
          let (s, b) := s.readHome x.task.region .normal pa 32
          (s, .ok (BitVec.ofNat 256 (ofBytes b)))
    | _ => (s, .error refused)

/-- The 256 bits at the PC become the bundle in issue: a full bundle, or a packet's token expanded (R43, R68,
R69). [DEDUCED, unsafe: log 88] -/
def State.place (s : State) (w : BitVec 256) : Res State :=
  let pc := s.pc
  let s := s.modCur fun k => { k with bits := w, succ := succIn w pc }
  if isPacket w then
    let j := pc.toNat % 32
    match lowest (packetDetails w) with
    | some p => .error (s.illegalAt p.1 p.2)
    | none =>
      if tokenCount w ≤ j then .error (s.illegalAt 15 0x10)
      else s.loadToken ((tokenAt w j).extractLsb' 7 9) ((tokenAt w j).extractLsb' 0 7)
  else .ok (s.loadBundle w)

/-- The bundle in issue, or the fault that it raises at decode, or at a target that R43 refuses.
[DEDUCED, unsafe: log 88] -/
def State.decodeBundle (s : State) : Res State :=
  match lowest s.decodeDetails with
  | some p => .error (s.illegalAt p.1 p.2)
  | none =>
    if !s.cur.fromToken && s.pc.toNat % 32 ≠ 0 then .error (s.illegalAt 15 0x10) else .ok s

/-- The next bundle of context `c`: fetched, or what the lead of its espalier broadcast (R263). The first state keeps
what the fetch did. -/
def State.bring (s : State) (c : Nat) : State × Res State :=
  let x := s.ctx c
  let s := { s with cur := { ctx := c } }
  if x.task.inEsp && !x.task.isLead then
    match x.feed with
    | [] => (s, .ok s)
    | p :: _ => (s, ((s.loadBundle p.bits).modCur fun k => { k with
        fromToken := p.fromToken, steer := p.steer, succ := p.succ }).decodeBundle)
  else
    let (s, r) := s.fetchBits c
    (s, do (← s.place (← r)).decodeBundle)

/-! ## Deferred faults (R97, R244, R376, R395) -/

/-- The bundle's instructions that are not nullified. -/
def State.live (s : State) : List (Nat × Instr) := s.cur.todo.filter fun p => !s.nullified p.1 p.2

/-- Registers that an instruction reads, the second nest record that its staging block names among them, and what an
inline call saves (R84, R307). -/
def State.readsNow (s : State) (i : Instr) : List RegId :=
  readsOf i ++ match i with
    | .cpy o | .cpyt o | .cmcast o | .cgath o => [(.n, Cw.drec (s.greg o.sbase.toNat))]
    | .spawn _ _ _ => if s.inlineSpawn then [(.s, 30), (.s, 31)] else []
    | _ => []

/-- Registers that an instruction writes; an inline call writes its child's stack pointers and initial values, and the
return from it restores the spawner's (R84, R307, R320). -/
def State.writesNow (s : State) (i : Instr) : List RegId :=
  destsOf i ++ match i with
    | .spawn _ _ a => if !s.inlineSpawn then [] else (.s, 30) :: (.s, 31) ::
        (match s.srcS a with
          | .ok f => match (s.readFrame true (dieOf s.cur.ctx) s.here.task.region f.toNat).2 with
            | .view v => (List.range (Frame.ninit v.bits)).map fun k => (.s, k + 1)
            | _ => []
          | .error _ => [])
    | .exit => if s.cr 0x21 ≠ 0 then [(.s, 30), (.s, 31)] else []
    | _ => []

/-- A checkpoint bundle, or one that holds a JOIN, EXIT or TRAP. -/
def State.stops (s : State) : Bool :=
  s.cur.ckpt || s.live.any fun p => match p.2 with | .join | .exit | .trap _ => true | _ => false

/-- A deferred fault of slot C0 or C1 (R244). -/
def ofCopy (f : FaultRec) : Bool := f.slot = 5 || f.slot = 6

/-- The deferred fault that falls due at the bundle in issue. -/
def State.due (s : State) : Option FaultRec :=
  let x := s.here
  let stop := s.stops
  let hasY := s.cur.todo.any fun p => p.1 = 7
  let reads := s.live.flatMap fun p => s.readsNow p.2
  let writes := s.live.flatMap fun p => s.writesNow p.2
  match x.deferred.find? fun f => stop || (hasY && ofCopy f.2) with
  | some f => some f.2
  | none => x.loads.findSome? fun o =>
    match o.bad with
    | none => none
    | some f =>
      let hit : Bool := match o.wr.regId with
        | some r => reads.contains r || (decide (f.cls ≠ 5) && writes.contains r)
        | none => false
      if stop || hit then some f else none

/-- A deferred fault is raised once. -/
def Ctx.clearDue (x : Ctx) (f : FaultRec) : Ctx :=
  if x.deferred.any fun p => p.2 = f then { x with deferred := x.deferred.eraseP fun p => p.2 = f }
  else { x with loads := x.loads.filter fun o => o.bad ≠ some f }

/-! ## Waits -/

/-- A request that a checkpoint bundle makes: its release annotation. -/
def State.requestOf (s : State) (i : Instr) : Option (Option (Scope × BitVec 4)) :=
  match i with
  | .aadd _ _ _ o | .amin _ _ _ o | .amax _ _ _ o | .aminn _ _ _ o | .amaxn _ _ _ o | .aand _ _ _ o
  | .aor _ _ _ o | .axor _ _ _ o | .axchg _ _ _ o | .acas _ _ _ o | .afadd _ _ _ o => some (s.relOf o)
  | .oopen _ _ o => some (s.relOf o)
  | .oclose _ _ _ _ | .tkt _ _ _ => some none
  | _ => none

/-- The C opcode and operands of a command. -/
def commandOf : Instr → Option (Nat × COps)
  | .cpy o => some (1, o)
  | .cpyt o => some (2, o)
  | .cmcast o => some (3, o)
  | .cgath o => some (4, o)
  | .cfill o => some (5, o)
  | .cpref o => some (6, o)
  | .put o => some (7, o)
  | .get o => some (8, o)
  | .radd o => some (9, o)
  | _ => none

/-- Commit-buffer entries that an instruction takes (R284); `s` has its slot in issue. -/
def State.entries (s : State) (i : Instr) : Nat :=
  match i with
  | .st .. | .sti .. | .vst .. | .nst .. | .aaddU .. | .aminU .. | .amaxU .. | .aminnU .. | .amaxnU .. | .aandU ..
  | .aorU .. | .axorU .. | .afaddU .. | .oadd .. | .ofadd .. | .qpush .. | .qpushT .. | .invl .. | .invlAll _
  | .spawn .. => 1
  | .fpost _ m => if s.here.task.postMember m.toNat = some s.here.task.member then 0 else 1
  | .fpostRel _ dy dx => if s.here.task.postRel dx dy = some s.here.task.member then 0 else 1
  | _ => match commandOf i with
    | some (op, o) => (s.command op o).held.toNat
    | none => 0

/-- The state in which a slot of the bundle acts. -/
def State.atSlot (s : State) (slot : Nat) : State :=
  s.modCur fun k => { k with slot := slot, width := if slot = 2 ∨ slot = 3 then s.slotWidth slot else 1024 }

def State.growth (s : State) : Nat := (s.live.map fun p => (s.atSlot p.1).entries p.2).sum

/-- Whether a request of the acting context would be parked: an espalier member's whose regions are not all released. -/
def State.parks (s : State) : Bool :=
  s.here.task.inEsp && (decide (s.here.past ≠ []) || decide (s.here.rel ≠ []))

/-- Whether an instruction that is not nullified waits; `s` has its slot in issue. -/
def State.slotWaits (s : State) (i : Instr) : Bool :=
  let x := s.here
  match i with
  | .fwait f n | .fwaitAcq f n => !x.replay && !s.flagMet f.toNat (n.toNat + 1)
  | .fbar f n => !x.replay && !s.flagMet f.toNat (n.toNat + 1)
  | .mwait _ a b => !x.replay &&
    (match s.mwaitWord a b with | .ok (_, .ok w, _, v) => decide (w.toNat < v.toNat) | _ => false)
  | .mwaitNe _ a b => !x.replay &&
    (match s.mwaitWord a b with | .ok (_, .ok w, _, v) => decide (w = v) | _ => false)
  | .eret => decide (x.st = .trap) && !x.loadsDone
  | .join => x.rel.any fun e => match e with | .spawn .. => true | _ => false
  | _ =>
    match commandOf i with
    | some (op, o) => !(s.command op o).held && decide (8 ≤ x.queueLen s.engine)
    | none => match s.requestOf i with
      | some rel => s.cur.ckpt && !(x.replay && x.reply.isSome) && !s.parks && (x.rel ≠ [] ||
          (match rel with | some (_, p) => s.releaseWaits s.cur.ctx p x.seq | none => false))
      | none => false

/-- R84: a register with its scoreboard bit set, or a seventeenth load. -/
def State.scoreboardStall (s : State) : Bool :=
  let out := s.here.loads.filter fun o => o.bad.isNone
  let regs := out.filterMap fun o => o.wr.regId
  let used := s.live.flatMap fun p => s.readsNow p.2 ++ s.writesNow p.2
  let more := (s.live.filter fun p => (lockedDest p.2).isSome).length
  used.any regs.contains || (more ≠ 0 && 16 < out.length + more)

/-- The results in flight that hold back an interlocked load, or ERET (R84, R278): those of the state `a`, before
the cycle begins. -/
def State.heldBack (s : State) (a : Arch) : Bool :=
  let regs := a.flight.flatMap fun l => l.wr.filterMap Wr.regId
  s.live.any fun p =>
    (match lockedDest p.2 with | some r => regs.contains r | none => false) ||
    (match p.2 with
      | .eret => decide (s.here.st = .trap) && Ctx.handlerBusy { s.here with a := a }
      | _ => false)

/-! ## The verdict on a context's next bundle -/

/-- What a context's next bundle does in a cycle. -/
inductive Verdict where
  /-- It does not issue; `rbq` for want of random words (R152). -/
  | waits (rbq : Bool)
  /-- The empty bundle issues in its place (R84). -/
  | empty
  | fault (f : FaultRec)
  | ready
  /-- A rerun stands at its closing checkpoint (R287). -/
  | closes
  deriving DecidableEq, Repr

/-- The start of the bundle's issue cycle; a rerun that repeats step 6 only is inside its cycle (R283). -/
def State.openCycle (s : State) (c : Nat) : State := if (s.ctx c).replay then s else s.beginCycle c

/-- A checkpoint bundle, or a JOIN or EXIT that ends a segment: what waits for the region's confirmation. -/
def State.confirms (s : State) : Bool :=
  s.cur.ckpt || s.live.any fun p => match p.2 with
    | .join => true
    | .exit => decide (s.cr 0x21 = 0)
    | _ => false

/-- The flag of the bundle's FBAR, unless it is nullified. -/
def State.barFlag (s : State) : Option Nat :=
  s.live.findSome? fun p => match p.2 with | .fbar f _ => some f.toNat | _ => none

/-- What the requests of a checkpoint bundle release of themselves. -/
def State.requestReleases (t : State) : List (Scope × BitVec 4) :=
  if !t.cur.ckpt || t.parks then [] else t.live.filterMap fun p => (t.requestOf p.2).join

/-- Steps 1 and 2 of R283, and steps 1 and 2 of Table 12.3 for the releases that the bundle's own requests are. The region
that a JOIN or EXIT closes is released before it issues too, so that JCOUNT counts its spawns when JOIN's checks are made
(R315), and that it waits for its INVL (R399). -/
def State.firstSteps (s : State) (bar : Option Nat) (rels : List (Scope × BitVec 4)) : State :=
  let c := s.cur.ctx
  let s := match bar with
    | some f => s.barOpen f
    | none => if s.cur.ckpt || !s.here.task.inEsp then s.closeRegion c else s
  rels.foldl (fun (s : State) r => s.releaseWrites c r.1 r.2) s

/-- An INVL that has not completed (R399). -/
def Eff.isInvl : Eff → Bool
  | .invl .. | .invlWait .. => true
  | _ => false

/-- The verdict on the bundle in issue, with its cycle begun in `t`; `a` is the context before that. An acquire of a
device page precedes every later access (R358). [DEDUCED, unsafe: log 114] -/
def State.waitsNow (t : State) (a : Arch) : Verdict :=
  let x := t.here
  let pops := (t.cur.todo.filter fun p => popsWord p.2).length
  let held := x.rel.length + (x.past.map fun p => p.effs.length).sum
  if t.scoreboardStall || x.loads.any (fun o => o.acq.isSome && o.bad.isNone) then .waits false
  else if t.live.any fun p => (t.atSlot p.1).slotWaits p.2 then .waits false
  else if t.confirms && x.rel.any Eff.isInvl then .waits false
  else if x.a.rbq.length < pops then .waits true
  else if held ≠ 0 ∧ 128 < x.cbuf.length + held + t.growth then .waits false
  else if t.heldBack a then .empty
  else .ready

/-- The next bundle of context `c` in `cur`, with what stands in its way. The state keeps what the fetch and steps 1
and 2 of a checkpoint have done. -/
def State.prepare (s : State) (c : Nat) : State × Verdict :=
  let x := s.ctx c
  if !x.runs || (s.core (coreOf c)).stopped || (x.fresh && !x.loadsDone) || (x.task.inEsp && !x.task.isLead && x.feed.isEmpty) then
    (s, .waits false)
  else
    let (s0, r) := s.bring c
    match r with
    | .error f => (s0, .fault f)
    | .ok s =>
      let confirms := (s.openCycle c).confirms && !x.replay
      let s := if confirms && !x.released then s.refuseHeld c else s
      let t := s.openCycle c
      match t.due with
      | some f => (s, .fault f)
      | none =>
        if confirms && !x.loadsDone then (s, .waits false)
        else if confirms && !x.released && x.rerun.any (fun r => r.phase ≠ 3) then (s, .closes)
        else
          let s := if confirms then s.firstSteps t.barFlag t.requestReleases else s
          (s, (s.openCycle c).waitsNow x.a)

/-! ## The merge stage (R72 to R76) -/

/-- What R73 compares of a bundle: the slots other than V0 and V1 that hold no NOP, PLOG's as 0, the widths in V0
and V1, and the banks. -/
structure Occ where
  slots : List Nat := []
  v0 : Nat := 0
  v1 : Nat := 0
  banks : List Nat := []
  deriving DecidableEq, Repr

/-- The occupancy of the bundle in issue, its cycle begun. -/
def State.occ (t : State) : Occ :=
  let w (k : Nat) : Nat := if t.cur.todo.any fun p => p.1 = k then t.slotWidth k else 0
  { slots := (t.cur.todo.map (·.1)).filter fun k => k ≠ 2 && k ≠ 3
    v0 := w 2, v1 := w 3
    banks := t.live.flatMap fun p => (t.accesses p.1 p.2).flatMap fun a => banksOf a.1 a.2 }

/-- A context's part in a merge: its verdict and its occupancy. -/
structure Side where
  v : Verdict
  occ : Occ := {}
  deriving DecidableEq, Repr

/-- Ready (R72): a bundle that will fault, and the empty bundle, are. [DEDUCED, unsafe: log 91] -/
def Side.ready (x : Side) : Bool :=
  match x.v with | .fault _ | .empty | .ready => true | _ => false

def compatible (a b : Side) : Bool :=
  let x := a.occ
  let y := b.occ
  !x.slots.any y.slots.contains && (x.v0 = 0 || y.v0 = 0 || x.v0 + y.v0 ≤ 1024) &&
    (x.v1 = 0 || y.v1 = 0 || x.v1 + y.v1 ≤ 1024) && !x.banks.any y.banks.contains

/-- A context's side of a merge. A bundle that the decoder refuses has no slot that R73 could compare, and counts as one
that occupies nothing. [DEDUCED, unsafe: log 91] -/
def State.side (s : State) (c : Nat) : State × Side :=
  let (s, v) := s.prepare c
  match v with
  | .ready | .fault _ => (s, ⟨v, (s.openCycle c).occ⟩)
  | _ => (s, ⟨v, {}⟩)

/-- The contexts that issue with `c`: the members of its espalier that still issue; none while the espalier waits for
a member that has not started, or that is held, stopped, being saved or to be saved (R263, R269, R287, R289). -/
def State.group (s : State) (c : Nat) : List Nat :=
  let l := s.espCtxs c
  let here (m : Nat) : Bool :=
    let x := s.ctx m
    decide (x.task.uid = (s.ctx c).task.uid) && ((x.runs && !(s.core (coreOf m)).stopped) || x.ending.isSome || x.exited)
  if l.all here then l.filter fun m => (s.ctx m).runs else []

/-- A member whose bundle is scheduled for the espalier's step (R264). -/
def Ctx.scheduled (x : Ctx) : Bool := decide (x.task.skew ≤ x.step) && (!x.task.inEsp || x.task.isLead || x.feed ≠ [])

/-- Both contexts of a core in a cycle. -/
structure Pair where
  core : Nat
  /-- The foreground has a bundle scheduled at its espalier's step (R264). -/
  due : Bool
  f : Side
  b : Side
  deriving DecidableEq, Repr

def State.pair (s : State) (k : Nat) : State × Pair :=
  let due := (s.group (2 * k)).contains (2 * k) && (s.ctx (2 * k)).scheduled
  let (s, f) : State × Side := if due then s.side (2 * k) else (s, ⟨.waits false, {}⟩)
  let (s, b) := s.side (2 * k + 1)
  (s, ⟨k, due && f.v ≠ .closes, f, b⟩)

/-- A yield is due and both bundles are ready and not compatible: the background goes (R75). DET is that of the
foreground task's launch (R29). -/
def State.yields (s : State) (p : Pair) : Bool :=
  p.due && p.f.ready && p.b.ready && !compatible p.f p.b && (s.core p.core).yieldCnt = 255 &&
    !(s.ctx (2 * p.core)).task.det

def State.grant (s : State) (c : Nat) : State := { s with grants := s.grants ++ [c] }

/-- The background issues: its yield counter returns to 0. -/
def State.grantBack (s : State) (k : Nat) : State :=
  ((s.modCore k fun x => { x with yieldCnt := 0 }).modCtx (2 * k + 1) fun x =>
    { x with sliceIssued := true }).grant (2 * k + 1)

/-- The background bundle is ready and does not issue. -/
def State.passBack (s : State) (k : Nat) : State :=
  s.modCore k fun x => { x with yieldCnt := Nat.min 255 (x.yieldCnt + 1) }

/-- The cores whose foregrounds issue together: those of an espalier's members that issue, decided in the turn of the
first of them, or a core alone. -/
def State.together (s : State) (k : Nat) : List Nat :=
  let l := s.group (2 * k)
  if l.contains (2 * k) && (s.ctx (2 * k)).task.inEsp then (if l.head? = some (2 * k) then l.map coreOf else [])
  else [k]

def State.pairs (s : State) : List Nat → State × List Pair
  | [] => (s, [])
  | k :: l =>
    let (s, p) := s.pair k
    let (s, ps) := s.pairs l
    (s, p :: ps)

/-- RBQ stalls count toward a rerun's count (R288). -/
def State.noteStall (s : State) (c : Nat) (x : Side) : State :=
  if x.v = .waits true then s.modCtx c fun y => { y with regionCount := y.regionCount + 1 } else s

/-- Table 2.18 for one core whose foreground bundle issues or not. -/
def State.decideBack (s : State) (front : Bool) (p : Pair) : State :=
  let s := (s.noteStall (2 * p.core) p.f).noteStall (2 * p.core + 1) p.b
  if !p.b.ready then s.modCtx (2 * p.core + 1) fun x => { x with sliceReady := false }
  else if front && p.due && !compatible p.f p.b then s.passBack p.core
  else s.grantBack p.core

/-- The bus address that a device load of a peer window reads (R449). -/
def State.peerLoad (s : State) (c : Nat) (o : Outst) : Option Nat :=
  ((s.vaPa (s.asidAt c) o.va.toNat).bind s.peerAt).map (·.2)

/-- Whether device load `k` of context `c` is the oldest of its accesses that go to the hub (R334): earlier device loads
have gone there, and so have its stores that were released. [DEDUCED, unsafe: log 94] -/
def State.deviceTurn (s : State) (c k : Nat) : Bool :=
  let x := s.ctx c
  !((x.loads.take k).any fun o => o.ext && o.bad.isNone && !o.sent) &&
    !x.rel.any fun e => match e with
      | .store va _ _ _ _ _ => decide ((s.seg (s.asidAt c) va.toNat).mtype = 1)
      | _ => false

/-- Load `k` of context `c`, if it reads a peer device, is sent once it is its turn (R334, R449).
[DEDUCED, unsafe: log 94] -/
def State.sendPeer (s : State) (c k : Nat) : State :=
  match (s.ctx c).loads[k]? with
  | none => s
  | some o => match s.peerLoad c o with
    | some bus =>
      if o.ext && o.bad.isNone && !o.sent && s.deviceTurn c k then
        (s.emit (.tlpRead bus o.size)).modCtx c fun x => { x with loads := x.loads.set k { o with sent := true } }
      else s
    | none => s

/-- The loads of context `c` that are due at a peer device are sent, oldest first. -/
def State.sendPeers (s : State) (c : Nat) : State :=
  (List.range (s.ctx c).loads.length).foldl (fun (s : State) k => s.sendPeer c k) s

/-- The cycle of a core: the end of what its contexts have finished, its counters, and the contexts that start. -/
def State.clock (s : State) (k : Nat) : State :=
  let tidy (s : State) (c : Nat) : State :=
    ((((s.drainReleased c).sendPeers c).makeAsked c).finishEnding c).startNext c
  let s := tidy (tidy s (2 * k)) (2 * k + 1)
  let s := s.modCore k fun x => { x with cycles := x.cycles + 1 }
  let s := if (s.ctx (2 * k)).busy then s.modRegion (s.ctx (2 * k)).task.region fun r => { r with fgcyc := r.fgcyc + 1 } else s
  if (s.ctx (2 * k + 1)).busy then
    s.modRegion (s.ctx (2 * k + 1)).task.region fun r => { r with bgcyc := r.bgcyc + 1 }
  else s

/-- The merge stage of core `k` decides a cycle (Table 2.18). -/
def execMergeDecision (k : Nat) (s : State) : Outcome :=
  let s := s.clock k
  let (s, ps) := s.pairs (s.together k)
  let front := ps.any (·.due) && ps.all (fun p => !p.due || p.f.ready) && !ps.any s.yields
  let s := if front then match ps.find? (·.due) with
      | some p => s.grant (2 * p.core)
      | none => s
    else s
  .next (ps.foldl (fun s p => s.decideBack front p) s)

/-- The background issues and the foreground waits one cycle (R75). -/
def execForcedYield (k : Nat) (s : State) : Outcome :=
  let (s', p) := s.pair k
  .next (if s'.yields p then s'.grantBack k else s)

/-! ## A context's own steps -/

/-- Results in flight come one issue cycle nearer; those at their offset land (R55). -/
def execResultLanding (c : Nat) (s : State) : Outcome := .next (s.modArch c Arch.landResults)

/-- M instructions come one issue cycle nearer; those at their array point act (R197). -/
def execArrayPoint (c : Nat) (s : State) : Outcome := .next (s.modArch c Arch.arrayPoint)

/-- Drain writes come one issue cycle nearer; those that are due land (R203). -/
def execDrainWrite (c : Nat) (s : State) : Outcome := .next (s.drainWrites c)

/-- The bytes of a device load as the hub reads them, or as they come from a peer device, with the context's own held
stores laid over them (R98, R334, R449). -/
def State.deviceData (s : State) (c : Nat) (o : Outst) (ext : Nat) : Nat :=
  let b := match s.vaPa (s.asidAt c) o.va.toNat with
    | some pa => if (s.peerAt pa).isSome then bytesOf o.size ext else s.deviceRead pa o.size
    | none => bytesOf o.size ext
  ofBytes (overlay o.own b)

/-- The write of a device load, which is always bound for an s register (R334). -/
def Outst.wrExt (o : Outst) (v : Nat) : Wr :=
  match o.wr with
  | .s n _ => .s n (BitVec.ofNat 64 v)
  | w => w

/-- The data of load `k` is written, and its scoreboard bit clears. -/
def State.loadReturns (s : State) (c k : Nat) (w : Wr) : State :=
  s.modCtx c fun x => { x with loads := dropNth x.loads k, a := x.a.write w }

/-- Load `k` of context `c` returns: its data is written and its scoreboard bit clears; a device page's acquire follows
its access (R358). One that failed stays until its fault falls due (R97); one of a device page waits for its turn, and one
of a peer device until it has been sent (R334). [DESIGN CHOICE, unsafe: log 10] -/
def execInterlockedLoadData (c k ext : Nat) (s : State) : Outcome :=
  match (s.ctx c).loads[k]? with
  | none => .next s
  | some o =>
    if o.bad.isSome || o.asked then .next s
    else if !o.ext then .next (s.loadReturns c k o.wr)
    else if !(if (s.peerLoad c o).isSome then o.sent else s.deviceTurn c k) then .next s
    else
      let s := s.loadReturns c k (o.wrExt (s.deviceData c o ext))
      .next (match o.acq with | some (sc, p) => s.acquire c sc p | none => s)

/-! ## Random words (R149 to R151) -/

/-- Room for a block. [DEDUCED, unsafe: log 110] -/
def Ctx.wantsWords (x : Ctx) : Bool := x.busy && decide (x.a.rbq.length + 2 ≤ 32)

/-- The generator's next block. A continuation with an odd count discards the first word (R151). -/
def Arch.fill (a : Arch) : Arch :=
  let w := genBlock a.seed a.stream a.lane a.nextBlock
  { a with
    rbq := a.rbq ++ (if a.skipWord then [w.2] else [w.1, w.2])
    nextBlock := a.nextBlock + 1, skipWord := false }

/-- The generator of a core serves the foreground while it has room, else the background. -/
def execRbqFill (k : Nat) (s : State) : Outcome :=
  .next (if (s.ctx (2 * k)).wantsWords then s.modArch (2 * k) Arch.fill
    else if (s.ctx (2 * k + 1)).wantsWords then s.modArch (2 * k + 1) Arch.fill
    else s)

end Sys2Proof.Machine
end

