-- ==== Sys2Proof/Machine/Link.lean ====
section
/-! DEFINITION. Machine/Link.lean: Gidin ports: flits and headers, routing and escape, sending under slot credits, link
retry, lane maps and resynchronisation (spec/14_gidin_fabric.md R403 to R428, spec/18 R482). -/

namespace Sys2Proof.Machine

/-! ## Flits (Table 14.1) -/

namespace FlitF
def seq (f : Flit) : Nat := (f.ctl.extractLsb' 0 12).toNat
def kg (f : Flit) : Bool := f.ctl.getLsbD 12
def type (f : Flit) : Nat := (f.ctl.extractLsb' 13 3).toNat
def rvc (f : Flit) : Nat := (f.ctl.extractLsb' 16 4).toNat
def sret (f : Flit) : Nat := (f.ctl.extractLsb' 20 8).toNat
def vc (f : Flit) : Nat := (f.ctl.extractLsb' 28 4).toNat
/-- R406. -/
def crc (payload : BitVec 512) (low : Nat) : BitVec 32 := crc32c (bytesOf 64 payload.toNat ++ bytesOf 4 low)
def good (f : Flit) : Bool := !f.garbled && f.ctl.extractLsb' 32 32 = crc f.payload (f.ctl.toNat % 2 ^ 32)
def make (type seq : Nat) (kg : Bool) (vc rvc sret : Nat) (payload : BitVec 512) : Flit :=
  let low := seq % 4096 + kg.toNat * 2 ^ 12 + type % 8 * 2 ^ 13 + rvc % 16 * 2 ^ 16 + sret % 256 * 2 ^ 20 +
    vc % 16 * 2 ^ 28
  ⟨payload, crc payload low ++ BitVec.ofNat 32 low, false, 0⟩
end FlitF

/-! ## Packets (Tables 14.2, 14.3) -/

namespace Pk
def header (p : Packet) : BitVec 512 :=
  p.handle ++ p.value ++ BitVec.ofNat 32 p.xid ++ BitVec.ofNat 40 p.coff ++ BitVec.ofNat 40 p.roff ++ (0 : BitVec 3) ++
    BitVec.ofNat 13 p.len ++ (0 : BitVec 11) ++ BitVec.ofBool p.cen ++ BitVec.ofBool p.last ++ BitVec.ofNat 3 p.gh ++
    BitVec.ofBool p.ghop2 ++ BitVec.ofNat 10 p.igrp ++ BitVec.ofBool p.nmin ++ BitVec.ofBool p.epoch ++
    BitVec.ofBool p.esc ++ BitVec.ofBool p.resp ++ BitVec.ofNat 3 p.op ++ BitVec.ofNat 15 p.src ++ BitVec.ofNat 15 p.dst

def headLen (h : BitVec 512) : Nat := (h.extractLsb' 64 13).toNat

def read (h : BitVec 512) (data : List Byte) : Packet :=
  { dst := (h.extractLsb' 0 15).toNat, src := (h.extractLsb' 15 15).toNat, op := (h.extractLsb' 30 3).toNat
    resp := h.getLsbD 33, esc := h.getLsbD 34, epoch := h.getLsbD 35, nmin := h.getLsbD 36
    igrp := (h.extractLsb' 37 10).toNat, ghop2 := h.getLsbD 47, gh := (h.extractLsb' 48 3).toNat
    last := h.getLsbD 51, cen := h.getLsbD 52, len := headLen h, roff := (h.extractLsb' 80 40).toNat
    coff := (h.extractLsb' 120 40).toNat, xid := (h.extractLsb' 160 32).toNat, value := h.extractLsb' 192 64
    handle := h.extractLsb' 256 256, data := data.take (headLen h) }

def dataFlits (n : Nat) : Nat := (n + 63) / 64
/-- Header and data flits. -/
def plain (p : Packet) : List (BitVec 512) :=
  header p :: (List.range (dataFlits p.len)).map fun k => BitVec.ofNat 512 (ofBytes ((p.data.drop (64 * k)).take 64))
/-- Flits on an unprotected link. -/
def flits (p : Packet) : Nat := 1 + dataFlits p.len
/-- The virtual channel of a hop; `first3` is R423's exception. -/
def vc (p : Packet) (first3 : Bool) : Nat :=
  6 * p.resp.toNat + (if p.esc then 4 + p.epoch.toNat else if first3 then 3 else Nat.min p.gh 2)
end Pk

/-- Slots of a virtual channel (Table 14.2). -/
def vcSlots (vc : Nat) : Nat := if vc % 6 < 4 then 48 else 8

/-- The lanes of a map, lowest first (R410). -/
def lanesIn (m : BitVec 8) : List Nat := (List.range 8).filter fun k => m.getLsbD k
def lanesOf (m : BitVec 8) : Nat := (lanesIn m).length

/-- The 72 bytes of a flit on the wire: payload, then control (R405). -/
def wireBytes (f : Flit) : List Byte := bytesOf 64 f.payload.toNat ++ bytesOf 8 f.ctl.toNat

/-- What each lane of a map carries: wire byte `i` goes on lane `L(i mod n)` (R410). -/
def striped (m : BitVec 8) (f : Flit) : List (Nat × List Byte) :=
  let l := lanesIn m
  (List.range l.length).map fun j =>
    (l.getD j 0, ((List.range 72).filter fun i => i % l.length = j).map fun i => (wireBytes f).getD i 0)

/-- A flit that goes in full, serially, on every lane of a map, as LMAP does (Table 14.4). -/
def serial (m : BitVec 8) (f : Flit) : List (Nat × List Byte) := (lanesIn m).map fun j => (j, wireBytes f)

/-- A number that names a direction of a link, the same at both ends: that of its sender. -/
def dirId (module port : Nat) : Nat := module * 64 + port

/-- Module ids that are assigned: 513 groups of 32 (R402). -/
def moduleIds : Nat := 16416

/-! ## Key banks (R427, R428) -/

namespace Keys
def bank (k : Keys) (b : Bool) : KeyBank := if b then k.bank1 else k.bank0
def setBank (k : Keys) (b : Bool) (x : KeyBank) : Keys := if b then { k with bank1 := x } else { k with bank0 := x }
/-- Whether the idle bank is erased. -/
def idleFree (k : Keys) : Bool := (k.bank (!k.kg)).key.isNone
/-- Key number `n` of direction `d`, as the two F7s agree it. [DESIGN CHOICE, safe: log 120] -/
def agreed (d n : Nat) : KeyBank := ⟨some n, Config.linkKey d n, Config.linkSalt d n, 0⟩
/-- A new key in the idle bank. -/
def install (k : Keys) (d : Nat) : Keys := { k.setBank (!k.kg) (agreed d (k.last + 1)) with last := k.last + 1 }
/-- A new key at once, before any packet is sealed. -/
def fresh (k : Keys) (d : Nat) : Keys :=
  { (k.setBank k.kg (agreed d (k.last + 1))).setBank (!k.kg) {} with last := k.last + 1 }
/-- The next packet of bank `b` takes its counter. -/
def count (k : Keys) (b : Bool) : Keys := k.setBank b { k.bank b with packets := (k.bank b).packets + 1 }
/-- The key of bank `b`, and the IV of its next packet: the salt XOR the packet counter (R427).
[PRESUMED, unsafe: log 80] -/
def use (k : Keys) (b : Bool) : BitVec 256 × BitVec 96 :=
  ((k.bank b).value, (k.bank b).salt ^^^ BitVec.ofNat 96 ((k.bank b).packets % 2 ^ 64))
/-- The bank that is no longer turned to is erased once nothing uses it. -/
def shed (k : Keys) (inUse : Bool) : Keys :=
  let old := match (k.bank (!k.kg)).key, (k.bank k.kg).key with | some a, some b => decide (a < b) | _, _ => false
  if old && !inUse then k.setBank (!k.kg) {} else k
end Keys

/-- The sender erases its old bank when every flit sent under it has been acknowledged. -/
def Tx.settleKeys (t : Tx) : Tx :=
  { t with keys := t.keys.shed (t.replay.any (fun x => x.2.2.kg ≠ t.keys.kg) ||
      t.out.any fun q => q.2.any fun x => x.kg ≠ t.keys.kg) }

/-- The receiver erases its old bank when no packet under it is still coming. [DESIGN CHOICE, safe: log 120] -/
def Rx.settleKeys (r : Rx) : Rx :=
  { r with keys := r.keys.shed (r.got.any fun q => q.2.flits ≠ [] && q.2.kg ≠ r.keys.kg) }

/-- F7 installs a new key in the idle bank of the sender, if that is erased. -/
def Tx.rekey (t : Tx) (d : Nat) : Tx :=
  if t.rekeying || !t.keys.idleFree then t else { t with keys := t.keys.install d, rekeying := true }

/-- The same at the receiver. -/
def Rx.rekey (r : Rx) (d : Nat) : Rx := if r.keys.idleFree then { r with keys := r.keys.install d } else r

/-- The direction that a port receives. -/
def Port.inward (p : Port) : Nat := dirId p.peer p.peerport

/-- The two F7s agree the keys of a link, `d` the direction that it sends, and both directions are sealed from the next
packet on. [DESIGN CHOICE, safe: log 120] -/
def Port.protect (p : Port) (d : Nat) : Port :=
  { p with
    prot := true, tagRow := 0, tx := { p.tx with keys := p.tx.keys.fresh d, rekeying := false }
    rx := { p.rx with keys := p.rx.keys.fresh p.inward } }

/-! ## Sending -/

/-- The virtual channel whose returns the next flit tells: the next one whose count has changed (R414). -/
def Rx.tells (r : Rx) : Nat :=
  (((List.range 12).map fun i => (r.rvc + i) % 12).find? fun v => Tab.get 0 r.returns v ≠ Tab.get 0 r.told v).getD r.rvc

/-- Whether some return is untold. -/
def Rx.owes (r : Rx) : Bool := (List.range 12).any fun v => Tab.get 0 r.returns v ≠ Tab.get 0 r.told v

/-- A flit goes onto the wire, with the slot returns of the reverse direction (R410, R414). -/
def State.wire (s : State) (k : Nat) (f : Nat → Nat → Flit) : State :=
  let p := s.port k
  let v := p.rx.tells
  let n := Tab.get 0 p.rx.returns v
  let x := f v (n % 256)
  (s.modPort k fun p => { p with
    rx := { p.rx with told := Tab.set 0 p.rx.told v n, rvc := (v + 1) % 12 }
    tx := { p.tx with sinceResync := p.tx.sinceResync + 1, sinceLmreq := p.tx.sinceLmreq + 1 } }).emit
      (.flit k x (if FlitF.type x = 4 then serial p.tx.map x else striped p.tx.map x))

/-- A control flit. -/
def State.wireControl (s : State) (k type seq : Nat) (payload : BitVec 512) : State :=
  s.wire k fun v r => FlitF.make type seq false 0 v r payload

/-- An LMREQ (Table 14.4). -/
def State.wireLmreq (s : State) (k : Nat) (m : BitVec 8) : State :=
  (s.wireControl k 5 0 (m.setWidth 512)).modPort k fun p => { p with tx := { p.tx with sinceLmreq := 0 } }

/-- The payload of a RESYNC (R416). -/
def Port.resyncBits (p : Port) : BitVec 512 :=
  BitVec.ofNat 512 (p.tx.seq + p.tx.map.toNat * 2 ^ 16 + p.tx.keys.kg.toNat * 2 ^ 24 +
    packN 16 ((List.range 12).map fun v => Tab.get 0 p.rx.returns v) * 2 ^ 32)

/-- A RESYNC, which tells every return. -/
def State.wireResync (s : State) (k : Nat) : State :=
  (s.wireControl k 6 0 (s.port k).resyncBits).modPort k fun p => { p with
    tx := { p.tx with sinceResync := 0 }, rx := { p.rx with told := p.rx.returns } }

/-- After any flit: LMREQ again when 32 have gone (Table 14.4), RESYNC when 1024 have (R416). -/
def State.afterFlit (s : State) (k : Nat) : State :=
  let s := match (s.port k).rx.pend with
    | some m => if (s.port k).tx.sinceLmreq ≥ 32 then s.wireLmreq k m else s
    | none => s
  if (s.port k).tx.sinceResync ≥ 1024 then s.wireResync k else s

def State.control1 (s : State) (k type seq : Nat) (payload : BitVec 512) : State :=
  (s.wireControl k type seq payload).afterFlit k

def State.sendIdle (s : State) (k : Nat) : State := s.control1 k 0 0 0

def State.sendAck (s : State) (k : Nat) : State :=
  (s.control1 k 2 ((s.port k).rx.expect + 4095) 0).modPort k fun p => { p with rx := { p.rx with accepted := 0 } }

def State.sendNak (s : State) (k : Nat) : State := s.control1 k 3 (s.port k).rx.expect 0

def State.sendLmreq (s : State) (k : Nat) (m : BitVec 8) : State := (s.wireLmreq k m).afterFlit k

/-- LMAP with the first sequence under the new map. -/
def State.sendLmap (s : State) (k seq : Nat) : State :=
  (s.control1 k 4 seq ((s.port k).tx.map.setWidth 512)).modPort k fun p => { p with tx := { p.tx with mapSeq := some seq } }

/-- A PKT flit under its sequence, key bank and channel: the first time, or again (R413). -/
def State.sendPkt (s : State) (k seq vc : Nat) (o : OutFlit) : State :=
  (s.wire k fun v r => FlitF.make 1 seq o.kg vc v r o.bits).afterFlit k

/-- The unacknowledged flits again, in order. -/
def State.replayAll (s : State) (k : Nat) : State :=
  (s.port k).tx.replay.foldl (fun s x => s.sendPkt k x.1 x.2.1 x.2.2) s

/-- Whether a packet may be sealed: its counter stays below 2^48 (R428). -/
def Port.keyOk (p : Port) : Bool :=
  !p.prot || p.tx.rekeying || decide ((p.tx.keys.bank p.tx.keys.kg).packets + 1 < 2 ^ 48)

/-- The sender rekeys before its counter reaches 2^48; the next packet turns to a new key (R428). -/
def Tx.turn (t : Tx) (d : Nat) : Tx :=
  let t := if (t.keys.bank t.keys.kg).packets + 2 ≥ 2 ^ 48 then t.rekey d else t
  if t.rekeying then Tx.settleKeys { t with keys := { t.keys with kg := !t.keys.kg }, rekeying := false } else t

/-- Begin a packet on a VC: its flits, sealed on a protected link, with the tag in bytes [15:0] of a flit of its own
(R427). -/
def State.startPacket (s : State) (k vc : Nat) (q : Packet) : State :=
  s.modPort k fun p =>
    let t := if p.prot then p.tx.turn (dirId s.modid k) else p.tx
    let l := Pk.plain q
    let u := t.keys.use t.keys.kg
    let flits := if p.prot then
        let c := (List.range l.length).map fun i => (l.getD i 0) ^^^ Gcm.pad u.1 u.2 i
        c ++ [(Gcm.tag u.1 u.2 c).setWidth 512]
      else l
    let out := (List.range flits.length).map fun i =>
      (⟨if i = 0 then some q else none, p.prot && t.keys.kg, flits.getD i 0⟩ : OutFlit)
    { p with tx := { t with
      keys := if p.prot then t.keys.count t.keys.kg else t.keys, out := Tab.set [] t.out vc out } }

/-- Whether a flit may go on a VC: its link is UP, the replay buffer and a slot are free (R412, R414). -/
def Port.maySend (p : Port) (vc : Nat) : Bool :=
  decide (p.st = .up) && decide (p.tx.replay.length < 512) &&
    decide ((Tab.get 0 p.tx.sent vc + 2 ^ 16 - Tab.get 0 p.tx.returned vc) % 2 ^ 16 < vcSlots vc)

/-- The next PKT flit of a VC. -/
def State.sendFlit (s : State) (k vc : Nat) : State :=
  let p := s.port k
  match Tab.get [] p.tx.out vc with
  | [] => s
  | x :: l =>
    (s.modPort k fun p => { p with tx := { p.tx with
      seq := (p.tx.seq + 1) % 4096
      replay := p.tx.replay ++ [(p.tx.seq, vc, x)]
      sent := Tab.set 0 p.tx.sent vc ((Tab.get 0 p.tx.sent vc + 1) % 2 ^ 16)
      out := Tab.set [] p.tx.out vc l } }).sendPkt k p.tx.seq vc x

/-- Whether the first hop of a packet from its source within its group is not minimal (R423). -/
def State.first3 (s : State) (p : Packet) : Bool := p.nmin && p.src = s.modid && p.src / 32 = p.dst / 32

/-- Whether a queued packet may begin: no packet is on its VC, and its header can go at once. -/
def State.mayStart (s : State) (p : Port) (q : Packet) : Bool :=
  let vc := Pk.vc q (s.first3 q)
  (Tab.get [] p.tx.out vc).isEmpty && p.maySend vc && p.keyOk

/-- What the port may do next: send a flit of a packet that has begun, or begin the first queued one that may. `fuel`
bounds it. -/
def State.pump (s : State) (k : Nat) : Nat → State
  | 0 => s
  | n + 1 =>
    let p := s.port k
    match (List.range 12).find? fun vc => !(Tab.get [] p.tx.out vc).isEmpty && p.maySend vc with
    | some vc => (s.sendFlit k vc).pump k n
    | none => match p.tx.queue.findIdx? (s.mayStart p) with
      | none => s
      | some i => match p.tx.queue[i]? with
        | none => s
        | some q =>
          let vc := Pk.vc q (s.first3 q)
          (((s.modPort k fun p => { p with tx := { p.tx with queue := dropNth p.tx.queue i } }).startPacket k vc q).sendFlit
            k vc).pump k n

/-- Everything that the port may send now. -/
def State.pumpAll (s : State) (k : Nat) : State :=
  let p := s.port k
  s.pump k ((p.tx.queue.map fun q => Pk.flits q + 2).sum + (p.tx.out.map fun q => q.2.length).sum + 1)

/-! ## Routes (R421 to R426) -/

def groupOf (m : Nat) : Nat := m / 32

/-- The port that stands for a port number (R404). -/
def State.standIn (s : State) (k : Nat) : Nat := if s.spareFor = some k then 47 else k

/-- Whether a port has learned its peer: its link has trained, and is not being trained anew (R403, R418). -/
def Port.learned (p : Port) : Bool := decide (p.st = .up ∨ p.st = .retrain)

/-- The port whose peer is a module. -/
def State.portTo (s : State) (m : Nat) : Option Nat :=
  (List.range 48).find? fun k => (s.port k).learned && (s.port k).peer = m

/-- The port that leads to a group. -/
def State.portToGroup (s : State) (g : Nat) : Option Nat :=
  (List.range 48).find? fun k => (s.port k).learned && groupOf (s.port k).peer = g && g ≠ groupOf s.modid

/-- The number that a port goes by: the spare takes that of the port that it stands for (R404). -/
def State.portNo (s : State) (k : Nat) : Nat := if k = 47 then s.spareFor.getD 47 else k

def FabLink.flip (l : FabLink) : FabLink := ⟨l.b, l.bp, l.a, l.ap⟩

/-- The links that this hub knows, from either end: its own ports that are UP, and those between other modules (R403). -/
def State.knownLinks (s : State) : List FabLink :=
  let own := ((List.range 48).filter fun k => (s.port k).st = .up).map fun k =>
    (⟨s.modid, s.portNo k, (s.port k).peer, (s.port k).peerport⟩ : FabLink)
  let l := own ++ s.fabric.filter fun l => l.a ≠ s.modid && l.b ≠ s.modid
  l ++ l.map FabLink.flip

/-- The link by which module `m` leaves its group for group `g`: its own, or that of another member.
[DEDUCED, unsafe: log 78] -/
def State.linkTo (s : State) (m g : Nat) : Option FabLink :=
  let l := s.knownLinks.filter fun l => groupOf l.a = groupOf m && groupOf l.b = g
  match l.find? fun l => l.a = m with
  | some l => some l
  | none => l.head?

/-- The first port toward group `g`: the own global link, or that of the member that holds it. -/
def State.towardGroup (s : State) (g : Nat) : Option Nat :=
  match s.portToGroup g with
  | some k => some k
  | none => (s.linkTo s.modid g).bind fun l => s.portTo l.a

/-- Hops of the minimal route from module `m` to module `d` (R421). -/
def State.hops (s : State) (m d : Nat) : Option Nat :=
  if groupOf m = groupOf d then some (if m = d then 0 else 1)
  else (s.linkTo m (groupOf d)).map fun l => (if l.a = m then 0 else 1) + 1 + (if l.b = d then 0 else 1)

/-- Hops from this hub to module `d` through intermediate group `x`. -/
def State.hopsBy (s : State) (x d : Nat) : Option Nat :=
  (s.linkTo s.modid x).bind fun l => (s.hops l.b d).map fun h => (if l.a = s.modid then 0 else 1) + 1 + h

/-- The next port of an adaptive packet. -/
def State.nextPort (s : State) (p : Packet) : Option Nat :=
  let g := groupOf s.modid
  let t := if p.nmin && !p.ghop2 && groupOf p.src ≠ groupOf p.dst then p.igrp else groupOf p.dst
  if t = g then s.portTo p.dst else s.towardGroup t

/-- Flits of a packet on a port's link: with the tail flit where that is protected (R408). -/
def Port.flitsOf (p : Port) (q : Packet) : Nat := Pk.flits q + p.prot.toNat

/-- Q(p) × H of R422, in units of 1/840; none is without limit. -/
def State.score (s : State) (k h : Option Nat) : Option Nat :=
  match k, h with
  | some k, some h =>
    let p := s.port k
    let n := lanesOf p.tx.map
    if p.st ≠ .up ∨ n = 0 then none
    else
      let queued := (p.tx.queue.map p.flitsOf).sum + (p.tx.out.map fun q => q.2.length).sum
      let inFlight := ((List.range 12).map fun v =>
        if v % 6 < 4 then (Tab.get 0 p.tx.sent v + 2 ^ 16 - Tab.get 0 p.tx.returned v) % 2 ^ 16 else 0).sum
      some (840 * 8 / n * (queued + inFlight) * h)
  | _, _ => none

/-- Whether `a` + 256 is below `b`. -/
def below (a b : Option Nat) : Bool :=
  match a, b with
  | some x, some y => x + 256 * 840 < y
  | some _, none => true
  | none, _ => false

def better (a b : Option Nat) : Bool :=
  match a, b with
  | some x, some y => x < y
  | some _, none => true
  | none, _ => false

/-- A candidate of a non-minimal route: its score, first port and intermediate group. -/
abbrev Route := Option Nat × Option Nat × Nat

def bestRoute (l : List Route) : Route := l.foldl (fun b r => if better r.1 b.1 then r else b) (none, none, 0)

/-- The groups that this hub knows, but for two. -/
def State.otherGroups (s : State) (g t : Nat) : List Nat :=
  ((s.knownLinks.map fun l => groupOf l.a).filter fun x => x ≠ g && x ≠ t).eraseDups

/-- Two different groups drawn by the hash of a packet, or those there are. [DEDUCED, unsafe: log 78] -/
def State.drawn (s : State) (p : Packet) : List Nat :=
  let l := s.otherGroups (groupOf s.modid) (groupOf p.dst)
  let pick (l : List Nat) (i : Nat) : Option Nat := l[Config.routeHash p.src p.dst p.xid i % l.length]?
  match pick l 0 with
  | none => []
  | some x => x :: (pick (l.filter (· ≠ x)) 1).toList

/-- The non-minimal candidate: through another member, or the better of two drawn groups.
[DEDUCED, unsafe: log 78] -/
def State.nonMinimal (s : State) (p : Packet) : Route :=
  let g := groupOf s.modid
  if g = groupOf p.dst then
    bestRoute (((List.range 48).filter fun k => groupOf (s.port k).peer = g && (s.port k).peer ≠ p.dst &&
      (s.port k).peer ≠ s.modid).map fun k => (s.score (some k) (some 2), some k, 0))
  else bestRoute ((s.drawn p).map fun x => (s.score (s.towardGroup x) (s.hopsBy x p.dst), s.towardGroup x, x))

/-- An answer to a request, from module `me`. -/
def Packet.answer (p : Packet) (me op : Nat) (value : Word) (data : List Byte) : Packet :=
  { p with
    dst := p.src, src := me, op := op, resp := true, esc := false, epoch := false, nmin := false, igrp := 0
    ghop2 := false, gh := 0, len := data.length, value := value, data := data }

/-- A NACK for a packet, to its SRC. -/
def nackOf (me : Nat) (p : Packet) (reason : Nat) : Packet := Packet.answer p me 5 (BitVec.ofNat 64 reason) []

def State.enqueuePacket (s : State) (k : Nat) (p : Packet) : State :=
  (s.modPort k fun x => { x with tx := { x.tx with queue := x.tx.queue ++ [p] } }).pumpAll k

def State.escapeTable (s : State) (parity : Bool) : List (Nat × Nat) := if parity then s.escape1 else s.escape0

/-- What becomes of a packet at this hub: it has arrived, it goes to a port, or no route leads on. -/
inductive NextHop where
  | here
  | port (k : Nat) (p : Packet)
  | unreached
  deriving DecidableEq, Repr

/-- The next hop of an escape packet: along its own epoch's tree, or, where that leads no further, along the current one
(R425, R426). [DEDUCED, unsafe: log 78] -/
def State.escapeHop (s : State) (p : Packet) : NextHop :=
  let via (e : Bool) : Option Nat := ((s.escapeTable e).find? fun x => x.1 = p.dst).map fun x => s.standIn x.2
  let now : NextHop := match via s.epoch with
    | some k => .port k { p with epoch := s.epoch }
    | none => .unreached
  if p.epoch = s.epoch then now
  else match via p.epoch with
    | some k => if (s.port k).st = .up then .port k p else now
    | none => now

/-- An adaptive packet goes to a port that is UP, or enters escape (R423). -/
def State.adaptiveHop (s : State) (p : Packet) (k : Option Nat) : NextHop :=
  match k with
  | some k =>
    if (s.port k).st = .up then .port k p
    else s.escapeHop { p with esc := true, epoch := s.epoch }
  | none => s.escapeHop { p with esc := true, epoch := s.epoch }

/-- The next hop of a packet; at its source it is routed by the scores of R422. [DEDUCED, unsafe: log 78] -/
def State.route (s : State) (source : Bool) (p : Packet) : NextHop :=
  if p.dst = s.modid then .here
  else if p.esc then s.escapeHop p
  else if source then
    let k := s.nextPort { p with nmin := false }
    let m := s.score k (s.hops s.modid p.dst)
    let r := s.nonMinimal p
    if m.isNone && r.1.isNone then s.adaptiveHop p none
    else if below r.1 m then s.adaptiveHop { p with nmin := true, igrp := r.2.2 } r.2.1
    else s.adaptiveHop p k
  else s.adaptiveHop p (s.nextPort p)

/-- The port that a packet of this hub would go to. -/
def State.firstPort (s : State) (p : Packet) : Option Nat :=
  match s.route true p with
  | .port k _ => some k
  | _ => none

/-- A packet takes its next hop. One that no route leads on is answered with NACK UNREACH, which takes its own way; if
none leads to the SRC either, its own NACK is for this hub (R426). -/
def State.hop (s : State) (source : Bool) (p : Packet) : State :=
  let deliver (q : Packet) : State := { s with delivered := s.delivered ++ [q] }
  match s.route source p with
  | .here => deliver p
  | .port k p => s.enqueuePacket k p
  | .unreached =>
    let q := nackOf s.modid p 3
    match s.route true q with
    | .here => deliver q
    | .port k q => s.enqueuePacket k q
    | .unreached => deliver (nackOf s.modid q 3)

/-- A packet of this hub is injected. [DEDUCED, unsafe: log 81] -/
def State.inject (s : State) (p : Packet) : State := s.hop true p
/-- A packet goes on from this hub. -/
def State.relay (s : State) (p : Packet) : State := s.hop false p

/-! ## Leaving UP (R418, R419) -/

/-- Packets queued for a port are routed again: this hub's own by their scores (R422), the others in escape, their route
lost (R419, R423). [DEDUCED, unsafe: log 78] -/
def State.reroute (s : State) (k : Nat) : State :=
  let l := (s.port k).tx.queue
  let s := s.modPort k fun p => { p with tx := { p.tx with queue := [] } }
  l.foldl (fun s p =>
    if p.src = s.modid && !p.esc then s.inject { p with nmin := false, igrp := 0 }
    else s.relay { p with esc := true, epoch := if p.esc then p.epoch else s.epoch }) s

def State.enterRetrain (s : State) (k : Nat) : State :=
  if (s.port k).st = .up then (s.modPort k fun p => { p with st := .retrain }).reroute k else s

/-- A port goes DOWN: NACK LOST to the SRC of each packet whose header flit it still holds; F5 makes a new tree (R419,
R424). -/
def State.portDown (s : State) (k : Nat) : State :=
  let lost := (s.port k).tx.replay.filterMap fun x => x.2.2.head
  let s := s.modPort k fun p => { p with
    st := .down, tx := { p.tx with replay := [], out := [], mapSeq := none }, rx := { p.rx with got := [], pend := none } }
  lost.foldl (fun s p => s.inject (nackOf s.modid p 4)) ({ s with treeStale := true }.reroute k)

/-- A resynchronisation failure (R417). [DEDUCED, unsafe: log 79] -/
def State.resyncFail (s : State) (k : Nat) : State :=
  let s := s.modPort k fun p => { p with rsfail := p.rsfail + 1, rsRow := p.rsRow + 1 }
  if (s.port k).rsRow ≥ 3 then (s.modPort k fun p => { p with rsRow := 0 }).enterRetrain k else s

/-- No RESYNC within 1088 flits of the previous one is a failure. -/
def State.resyncMissing (s : State) (k : Nat) : State :=
  if (s.port k).st = .up ∧ (s.port k).rx.sinceResync ≥ 1088 then
    (s.modPort k fun p => { p with rx := { p.rx with sinceResync := 0 } }).resyncFail k
  else s

/-! ## Receiving -/

/-- A bad flit, whatever its type (R482): NAK once. -/
def State.badFlit (s : State) (k : Nat) : State :=
  if (s.port k).rx.waiting then s
  else (s.modPort k fun p => { p with rx := { p.rx with waiting := true } }).sendNak k

/-- What every good flit tells: the returned count of one VC (R414). -/
def Tx.creditBy (t : Tx) (f : Flit) : Tx :=
  let v := FlitF.rvc f
  let c := Tab.get 0 t.returned v
  { t with returned := Tab.set 0 t.returned v ((c + (FlitF.sret f + 256 - c % 256) % 256) % 2 ^ 16) }

/-- The receiver drops a lane, of which F5 is told: it asks for the rest, or the link retrains. -/
def State.dropLane (s : State) (k lane : Nat) : State :=
  let p := s.port k
  let m := p.rx.pend.getD p.rx.map
  if p.st ≠ .up ∨ !m.getLsbD lane ∨ lane ≥ 8 then s
  else
    let m' := m &&& ~~~(BitVec.ofNat 8 (2 ^ lane))
    let s := (s.modPort k fun p => { p with drops := p.drops + 1 }).modNal 5 fun n => n.send (.lane k lane)
    if lanesOf m' < 4 then s.enterRetrain k
    else (s.modPort k fun p => { p with rx := { p.rx with pend := some m' } }).sendLmreq k m'

/-- The lanes that fail as a flit arrives are dropped, with their LMREQ, before anything else is done (R482). -/
def State.lanesLost (s : State) (k : Nat) (f : Flit) : State := (lanesIn f.lost).foldl (fun s l => s.dropLane k l) s

/-- A flit of the given type arrives at a port that is UP; a bad one is handled as R482 says. -/
def State.hear (s : State) (k type : Nat) (f : Flit) (act : State → State) : State :=
  let s := if k < 48 then s.lanesLost k f else s
  if (s.port k).st ≠ .up ∨ k ≥ 48 then s
  else
    let s := s.modPort k fun p => { p with rx := { p.rx with sinceResync := p.rx.sinceResync + 1 } }
    let s := if FlitF.good f && FlitF.type f = 6 then s else s.resyncMissing k
    if !FlitF.good f then s.badFlit k
    else if FlitF.type f ≠ type then s
    else (act (s.modPort k fun p => { p with tx := p.tx.creditBy f })).pumpAll k

/-- Whether sequence `b` is `a` or one of the `n` that follow it. [DEDUCED, unsafe: log 79] -/
def inWindow (a n b : Nat) : Bool := (b + 4096 - a) % 4096 ≤ n

/-- Flit `i` of a packet under reception, opened on a protected link. -/
def RxPk.openFlit (g : RxPk) (i : Nat) : BitVec 512 :=
  let x := g.flits.getD i 0
  match g.sealed with
  | some u => x ^^^ Gcm.pad u.1 u.2 i
  | none => x

/-- Whether the tag of a whole packet is right. -/
def RxPk.tagOk (g : RxPk) : Bool :=
  match g.sealed with
  | some u => decide (g.flits.getLast? = some ((Gcm.tag u.1 u.2 g.flits.dropLast).setWidth 512))
  | none => true

/-- The packet that the flits hold, one global hop further if the port is global (R423). -/
def State.received (s : State) (k : Nat) (g : RxPk) : Packet :=
  let p := s.port k
  let n := g.flits.length - (if g.sealed.isSome then 1 else 0)
  let q := Pk.read (g.openFlit 0) ((List.range (n - 1)).flatMap fun i => bytesOf 64 (g.openFlit (i + 1)).toNat)
  if groupOf p.peer ≠ groupOf s.modid then { q with gh := q.gh + 1, ghop2 := q.ghop2 || q.nmin } else q

/-- A third tag failure in a row: new keys are agreed, and the link retrains (R427).
[DESIGN CHOICE, safe: log 120] -/
def State.tagFailed (s : State) (k : Nat) : State :=
  let s := s.modPort k fun p => { p with tagfail := p.tagfail + 1, tagRow := p.tagRow + 1 }
  if (s.port k).tagRow ≥ 3 then
    (s.modPort k fun p => { p with tagRow := 0, tx := p.tx.rekey (dirId s.modid k), rx := p.rx.rekey p.inward }).enterRetrain k
  else s

/-- A whole packet has been received: its slots return, its tag is checked, and it is delivered or relayed.
[DEDUCED, unsafe: log 79] -/
def State.packetIn (s : State) (k vc : Nat) (g : RxPk) : State :=
  let n := Nat.min g.flits.length (vcSlots vc - 1)
  let s := s.modPort k fun p => { p with rx := Rx.settleKeys { p.rx with
    got := Tab.set {} p.rx.got vc {}
    returns := Tab.set 0 p.rx.returns vc ((Tab.get 0 p.rx.returns vc + n) % 2 ^ 16) } }
  if g.tagOk then
    let q := s.received k g
    (s.modPort k fun p => { p with tagRow := 0 }).relay q
  else s.tagFailed k

/-- A header flit: its packet takes the counter of its key bank (R427). -/
def Port.header (p : Port) (f : Flit) : Port × RxPk :=
  if p.prot then
    let b := FlitF.kg f
    ({ p with rx := { p.rx with keys := { p.rx.keys with kg := b }.count b } }, ⟨b, some (p.rx.keys.use b), []⟩)
  else (p, {})

/-- A PKT flit in order. A VC whose slots are all full passes a flit on, and so returns one.
[DEDUCED, unsafe: log 79] -/
def State.accept (s : State) (k : Nat) (f : Flit) : State :=
  let vc := FlitF.vc f
  let s := s.modPort k fun p =>
    let g := Tab.get {} p.rx.got vc
    let (p, g) := if g.flits.isEmpty then p.header f else (p, g)
    let g := { g with flits := g.flits ++ [f.payload] }
    let passed := if vcSlots vc ≤ g.flits.length then 1 else 0
    { p with rx := Rx.settleKeys { p.rx with
      expect := (p.rx.expect + 1) % 4096, waiting := false, accepted := p.rx.accepted + 1
      returns := Tab.set 0 p.rx.returns vc ((Tab.get 0 p.rx.returns vc + passed) % 2 ^ 16)
      got := Tab.set {} p.rx.got vc g } }
  let g := Tab.get {} (s.port k).rx.got vc
  let len := Pk.headLen (g.openFlit 0)
  let s := if g.flits.length = 1 + Pk.dataFlits len + g.sealed.isSome.toNat then s.packetIn k vc g else s
  if (s.port k).rx.accepted ≥ 32 then s.sendAck k else s

/-- Table 14.5, the receiver's rows. -/
def State.pktFlit (s : State) (k : Nat) (f : Flit) : State :=
  let r := (s.port k).rx
  if FlitF.vc f ≥ 12 then s
  else if FlitF.seq f = r.expect then s.accept k f
  else if inWindow 1 511 ((r.expect + 4096 - FlitF.seq f) % 4096) then s.sendAck k
  else s.badFlit k

def execPkt (port : Nat) (f : Flit) (s : State) : Outcome := .next (s.hear port 1 f fun s => s.pktFlit port f)
def execIdle (port : Nat) (f : Flit) (s : State) : Outcome := .next (s.hear port 0 f id)

/-- The sequence of the oldest unacknowledged flit, or of the next one. -/
def Tx.oldest (t : Tx) : Nat := match t.replay with | x :: _ => x.1 | [] => t.seq

/-- Flits up to sequence `a` are freed; an outstanding LMAP is settled by an ACK at or after its sequence. -/
def State.freeTo (s : State) (k a : Nat) : State :=
  s.modPort k fun p =>
    let n := (a + 4096 - p.tx.oldest) % 4096 + 1
    { p with tx := Tx.settleKeys { p.tx with
      replay := p.tx.replay.drop n, resends := 0, naked := none
      mapSeq := match p.tx.mapSeq with | some m => if inWindow m 512 a then none else some m | none => none } }

/-- Whether a sequence is among the unacknowledged ones. -/
def Tx.holds (t : Tx) (a : Nat) : Bool := t.replay.any fun x => x.1 = a

def State.ackFlit (s : State) (k : Nat) (f : Flit) : State :=
  if (s.port k).tx.holds (FlitF.seq f) then s.freeTo k (FlitF.seq f) else s.resyncFail k

def execAck (port : Nat) (f : Flit) (s : State) : Outcome := .next (s.hear port 2 f fun s => s.ackFlit port f)

/-- The unacknowledged flits go again; once the oldest one has gone again 16 times, the link retrains instead. -/
def State.resend (s : State) (k : Nat) : State :=
  if (s.port k).tx.resends ≥ 16 then (s.modPort k fun p => { p with tx := { p.tx with resends := 0 } }).enterRetrain k
  else (s.modPort k fun p => { p with tx := { p.tx with resends := p.tx.resends + 1 } }).replayAll k

/-- A NAK counts once, however often a receiver in WAIT sends it again (R483). [DEDUCED, unsafe: log 119] -/
def State.countNak (s : State) (k e : Nat) : State :=
  s.modPort k fun p => if p.tx.naked = some e then p
    else { p with retries := p.retries + 1, tx := { p.tx with naked := some e } }

/-- A NAK: while an LMAP is outstanding that goes again first (Table 14.4), and then the flits from the sequence named on
(Table 14.5). [DEDUCED, unsafe: log 79] -/
def State.nakFlit (s : State) (k : Nat) (f : Flit) : State :=
  let e := FlitF.seq f
  let s := s.countNak k e
  let held := (s.port k).tx.holds e
  let old := (s.port k).tx.oldest
  let s := if held && old ≠ e then s.modPort k fun p => { p with tx := Tx.settleKeys { p.tx with
      replay := p.tx.replay.drop ((e + 4096 - old) % 4096), resends := 0 } } else s
  let s := if (s.port k).tx.mapSeq.isSome then s.sendLmap k (s.port k).tx.oldest else s
  if held then s.resend k else s.resyncFail k

def execNak (port : Nat) (f : Flit) (s : State) : Outcome := .next (s.hear port 3 f fun s => s.nakFlit port f)

/-- R412: within 200 ns of the oldest acceptance. -/
def execAckTimer (port : Nat) (s : State) : Outcome :=
  .next (if (s.port port).st = .up ∧ (s.port port).rx.accepted ≠ 0 then s.sendAck port else s)

/-- Table 14.5: 1 µs in WAIT. -/
def execNakResend (port : Nat) (s : State) : Outcome :=
  .next (if (s.port port).st = .up ∧ (s.port port).rx.waiting then s.sendNak port else s)

/-- Table 14.5: 2 µs without an ACK. -/
def execReplayTimeout (port : Nat) (s : State) : Outcome :=
  .next (if (s.port port).st = .up ∧ (s.port port).tx.replay ≠ [] then s.resend port else s)

/-! ## Lane maps (R409 to R411) -/

/-- A lane fails when it loses lock, or when the errors of an interval of 2^24 bits exceed the port's threshold (R409). -/
def Port.laneBad (p : Port) (errors : Option Nat) : Bool :=
  match errors with
  | none => true
  | some n => decide (2 ^ 24 < n * 2 ^ p.thrLog)

def execLaneFail (port : Nat) (l : LaneReport) (s : State) : Outcome :=
  .next (if (s.port port).laneBad l.errors then s.dropLane port l.lane else s)

/-- LMREQ: the map that it asks for is taken, and LMAP tells it. One that asks for the map just sent is a repeat: its LMAP
is on its way, or a NAK brings it again (Table 14.4). [DEDUCED, unsafe: log 79] -/
def State.lmreqFlit (s : State) (k : Nat) (f : Flit) : State :=
  let m := f.payload.setWidth 8
  if lanesOf m < 4 then s.enterRetrain k
  else if (s.port k).tx.mapSeq.isSome && m = (s.port k).tx.map then s
  else (s.modPort k fun p => { p with tx := { p.tx with map := m } }).sendLmap k (s.port k).tx.seq

def execLmreq (port : Nat) (f : Flit) (s : State) : Outcome := .next (s.hear port 5 f fun s => s.lmreqFlit port f)

def State.lmapFlit (s : State) (k : Nat) (f : Flit) : State :=
  let m := f.payload.setWidth 8
  if m = (s.port k).rx.map then s
  else if lanesOf m < 4 then s.enterRetrain k
  else s.modPort k fun p => { p with rx := { p.rx with map := m, pend := none } }

def execLmap (port : Nat) (f : Flit) (s : State) : Outcome := .next (s.hear port 4 f fun s => s.lmapFlit port f)

/-! ## Resynchronisation (R416, R417) -/

/-- A RESYNC after 1024 flits. -/
def State.resyncNow (s : State) (k : Nat) : State :=
  if (s.port k).st ≠ .up ∨ (s.port k).tx.sinceResync < 1024 then s else s.wireResync k

def execResyncSend (port : Nat) (s : State) : Outcome := .next (s.resyncNow port)

def State.resyncFlit (s : State) (k : Nat) (f : Flit) : State :=
  let w := f.payload.toNat
  let s := s.modPort k fun p => { p with
    rx := { p.rx with sinceResync := 0 }
    tx := { p.tx with returned := (List.range 12).foldl (fun t v => Tab.set 0 t v (eltN 16 (w / 2 ^ 32) v)) p.tx.returned } }
  if inWindow (s.port k).rx.expect 512 (w % 2 ^ 16 % 4096) then s.modPort k fun p => { p with rsRow := 0 }
  else s.resyncFail k

def execResync (port : Nat) (f : Flit) (s : State) : Outcome := .next (s.hear port 6 f fun s => s.resyncFlit port f)

def execResyncMissing (port : Nat) (s : State) : Outcome := .next (s.resyncMissing port)

/-! ## Retraining, training and the spare (R403, R404, R418) -/

def execRetrain (port : Nat) (s : State) : Outcome := .next (s.enterRetrain port)

/-- A retrain ends with the lanes that passed in each direction: UP with an LMAP and the replay, or a failure, the third
of which makes the port DOWN. The verdict is F5's, and waits while it is being replaced (R465). -/
def execRetrainDone (port : Nat) (lanes : LanePair) (s : State) : Outcome :=
  let p := s.port port
  if p.st ≠ .retrain ∨ s.fnAway 5 then .next s
  else if lanesOf lanes.tx < 4 ∨ lanesOf lanes.rx < 4 then
    let s := s.modPort port fun p => { p with retrainRow := p.retrainRow + 1 }
    .next (if (s.port port).retrainRow ≥ 3 then
      (s.modPort port fun p => { p with retrainRow := 0 }).portDown port else s)
  else
    let s := { s with treeStale := true }.modPort port fun p => { p with
      st := .up, drops := 0, retrainRow := 0, rsRow := 0
      tx := { p.tx with map := lanes.tx, resends := 0 }, rx := { p.rx with map := lanes.rx, pend := none } }
    .next (((s.sendLmap port p.tx.oldest).replayAll port).pumpAll port)

/-- Training ends: the port learns its peer, F5 sets its lane threshold, and F7's policy may protect it (R403, R409,
R427); those at work are not being replaced (R465). A port that the spare stands for stays DOWN (R404).
[DEDUCED, unsafe: log 81] -/
def execLinkTrained (port peer peerport : Nat) (t : Training) (s : State) : Outcome :=
  let p := s.port port
  if port ≥ 48 ∨ p.st = .up ∨ p.st = .retrain ∨ s.spareFor = some port ∨ peer ≥ moduleIds ∨ s.fnAway 5 ∨
      ((p.prot ∨ t.policy) ∧ s.fnAway 7) then .next s
  else if lanesOf t.lanes < 4 then .next (s.modPort port fun p => { p with st := .training })
  else .next (({ s with treeStale := true }.modPort port fun p =>
    let p := { p with
      st := .up, peer := peer, peerport := peerport, drops := 0, rsRow := 0, retrainRow := 0, tagRow := 0
      thrLog := if 10 ≤ t.thr ∧ t.thr ≤ 20 then t.thr else 14
      tx := { map := t.lanes, queue := p.tx.queue, keys := p.tx.keys }, rx := { map := t.lanes, keys := p.rx.keys } }
    if p.prot || t.policy then p.protect (dirId s.modid port) else p).pumpAll port)

/-- F5 assigns the spare to a port that is DOWN; one that it stood for before has it no longer (R404).
[DEDUCED, unsafe: log 81] -/
def execSparePortAssign (port : Nat) (s : State) : Outcome :=
  if port ≥ 47 ∨ (s.port port).st ≠ .down ∨ s.spareFor = some port ∨ s.fnAway 5 then .next s
  else
    let s := if s.spareFor.isSome then s.portDown 47 else s
    .next { s.modPort 47 fun p => { p with
      peer := (s.port port).peer, peerport := (s.port port).peerport } with spareFor := some port }

/-! ## The escape tree (R424, R425) -/

/-- The link of lowest port number at its first end. -/
def lowestPort (l : List FabLink) : Option FabLink :=
  l.foldl (fun b l => match b with | some x => if l.ap < x.ap then some l else b | none => some l) none

/-- Breadth-first search over links given from either end: for each module reached, the link to its parent. `fuel` bounds
the levels. -/
def bfs (links : List FabLink) : Nat → List Nat → List Nat → List FabLink
  | 0, _, _ => []
  | n + 1, level, seen =>
    let new := ((links.filter fun l => level.contains l.b && !seen.contains l.a).map (·.a)).eraseDups
    if new.isEmpty then []
    else (new.filterMap fun m => lowestPort (links.filter fun l => l.a = m && level.contains l.b)) ++
      bfs links n new (seen ++ new)

/-- The tree from a module. -/
def treeFrom (links : List FabLink) (m : Nat) : List FabLink := bfs links links.length [m] [m]

/-- The spanning tree of the modules that `me` reaches: its root is the one of lowest id; of a module's links to the level
above, the one of its lowest port is in the tree (R424). [DEDUCED, unsafe: log 78] -/
def spanningTree (links : List FabLink) (me : Nat) : List FabLink :=
  treeFrom links (((treeFrom links me).map (·.a)).foldl Nat.min me)

/-- The links from a module up to the root. -/
def upward (tree : List FabLink) : Nat → Nat → List FabLink
  | 0, _ => []
  | n + 1, m => match tree.find? fun l => l.a = m with
    | some l => l :: upward tree n l.b
    | none => []

/-- A hub's escape table: for every destination the down port toward it, or else the up port (R424). -/
def escapeTableOf (tree : List FabLink) (me : Nat) : List (Nat × Nat) :=
  let up := (tree.find? fun l => l.a = me).map (·.ap)
  let all := (tree.flatMap fun l => [l.a, l.b]).eraseDups
  (all.filter (· ≠ me)).filterMap fun d =>
    (match (upward tree tree.length d).find? fun (l : FabLink) => l.b = me with
      | some l => some l.bp
      | none => up).map fun p => (d, p)

/-- Whether escape packets of an epoch are still at this hub: queued, being sent, or coming in. -/
def State.epochHere (s : State) (e : Bool) : Bool :=
  s.ports.any fun p =>
    p.2.tx.queue.any (fun q => q.esc && q.epoch = e) ||
      [4 + e.toNat, 10 + e.toNat].any fun v => !(Tab.get [] p.2.tx.out v).isEmpty || !(Tab.get {} p.2.rx.got v).flits.isEmpty

/-- F5 computes the tree over the links and installs it under the other parity, once no packet of the older epoch is left
here. Packets that wait at a port that is not UP are routed again. -/
def State.installTree (s : State) (links : List FabLink) (epoch : Bool) : State :=
  if epoch = s.epoch ∨ s.epochHere epoch ∨ s.fnAway 5 then s
  else
    let s : State := { s with fabric := links, treeStale := false, epoch := epoch }
    let t := escapeTableOf (spanningTree s.knownLinks s.modid) s.modid
    let s : State := if epoch then { s with escape1 := t } else { s with escape0 := t }
    (List.range 48).foldl (fun s k => if (s.port k).st = .up then s else s.reroute k) s

/-- The F5s of the modules tell each other their links, each as module and port at either end. -/
def execEscapeTreeInstall (links : List (Nat × Nat × Nat × Nat)) (epoch : Bool) (s : State) : Outcome :=
  .next (s.installTree (links.map fun l => ⟨l.1, l.2.1, l.2.2.1, l.2.2.2⟩) epoch)

/-- F7 has installed a key in the idle bank of a direction: the sender turns to it at its next packet (R428). -/
def execRekey (k : PortKey) (s : State) : Outcome :=
  .next (if !(s.port k.port).prot || s.fnAway 7 then s
    else s.modPort k.port fun p => if k.incoming then { p with rx := p.rx.rekey p.inward }
      else { p with tx := p.tx.rekey (dirId s.modid k.port) })

/-- A queued packet that has waited 4 µs for a slot enters escape (R423). -/
def execEscapeWaitTimeout (port k : Nat) (s : State) : Outcome :=
  match (s.port port).tx.queue[k]? with
  | none => .next s
  | some q =>
    if q.esc then .next s
    else .next ((s.modPort port fun p => { p with tx := { p.tx with queue := dropNth p.tx.queue k } }).relay
      { q with esc := true, epoch := s.epoch })

/-- A port sends IDLE while it has nothing else to send and returns to tell, or while its replay buffer is full (R412,
R414). -/
def Port.idles (p : Port) : Bool :=
  decide (p.st = .up) && (p.rx.owes ||
    (decide (512 ≤ p.tx.replay.length) && (!p.tx.queue.isEmpty || p.tx.out.any fun q => !q.2.isEmpty)))

/-- The links' own doings in a turn of the hub: IDLE flits, and a new tree after a port has changed. -/
def State.linkTurn (s : State) : State :=
  let s := (s.ports.map (·.1)).foldl (fun s k => if (s.port k).idles then s.sendIdle k else s) s
  if s.treeStale then s.installTree s.fabric (!s.epoch) else s

end Sys2Proof.Machine
end

