-- ==== Sys2Proof/Machine/Walk.lean ====
section
/-! DEFINITION. Machine/Walk.lean: the elements of a command's walk: where they stand, their reads and writes as an
engine makes them (spec/08_scratchpad_and_copy.md R233, R235 to R244, spec/13 R396). -/

namespace Sys2Proof.Machine

/-- Why a command stops: uncorrectable source data (R244), or a translation that failed its confirming walk (R395). -/
inductive CmdStop where
  | data (va : Nat)
  | walk (va n : Nat) (write : Bool)
  deriving DecidableEq, Repr

/-- Where bytes of a command stand: at a physical offset of a core's scratchpad, which its task names `lo`, at a virtual
address of the issuing context, at a physical address that stands for a virtual one, or nowhere (outside a tensor). -/
inductive Place where
  | spad (core p lo : Nat)
  | va (a : Nat)
  | pa (a va : Nat)
  | none
  deriving DecidableEq, Repr

/-! ## Byte keys -/

/-- A number for each byte that a command can write: scratchpad bytes by core, then physical memory. -/
def spadKey (core p : Nat) : Nat := core * 2 ^ 22 + p
def memKey (pa : Nat) : Nat := 2 ^ 52 + pa

/-- The first key of a place, translated by the walkers of the context's die. -/
def State.placeKey (s : State) (c es : Nat) (write : Bool) (p : Place) : State × Except CmdStop (Option Nat) :=
  match p with
  | .none => (s, .ok none)
  | .spad k p _ => (s, .ok (some (spadKey k p)))
  | .pa a _ => (s, .ok (some (memKey a)))
  | .va a =>
    let x := s.ctx c
    let asid := s.asidAt c
    let need := if write then Need.write else Need.read
    let (s, w) := s.translate (dieOf c) none x.task.region asid a need.onLeaf
    match w with
    | .leaf y =>
      if need.onLeaf y then (s, .ok (some (memKey (leafPa y (s.seg asid a).plog a))))
      else (s, .error (.walk a es write))
    | _ => (s, .error (.walk a es write))

/-- The virtual address that a failed read of a place reports. -/
def Place.address : Place → Nat
  | .spad _ _ lo => lo
  | .va a => a
  | .pa _ a => a
  | .none => 0

/-- How far into `[pa, pa + n)` the first 64-byte granule begins that its slice does not hold and whose stored data is
bad (R244). -/
def State.badGranule (s : State) (pa n : Nat) : Option Nat :=
  ((List.range ((n + 63) / 64)).map (64 * ·)).find? fun i => (s.badAt (pa + i) (Nat.min 64 (n - i))).isSome

/-- The bytes of one element at its source; outside a tensor, zeros (R237). -/
def State.readPlace (s : State) (c es : Nat) (hint : Hint) (p : Place) :
    State × Except CmdStop (List Byte × Option Nat) :=
  let (s, k) := s.placeKey c es false p
  match k with
  | .error e => (s, .error e)
  | .ok none => (s, .ok (List.replicate es 0, none))
  | .ok (some k) =>
    match p with
    | .spad core q _ =>
      let (s, b) := s.reveal ((List.range es).map fun i => Tab.get none (s.core core).spad (q + i))
      (s, .ok (b, some k))
    | _ =>
      let pa := k - 2 ^ 52
      match s.badGranule pa es with
      | some i => (s, .error (.data (p.address + i)))
      | none =>
        let (s, b) := s.readHome (s.ctx c).task.region hint pa es
        (s, .ok (b, some k))

/-! ## Moves -/

/-- One element's move: its index in the walk, the keys of its source bytes, the keys of its destination bytes, and the
bytes. -/
structure Move where
  j : Nat
  src : Option Nat
  dst : List Nat
  bytes : List Byte
  deriving DecidableEq, Repr

/-- The keys of several places that one element is written to; none for a place outside a tensor. -/
def State.placeKeys (s : State) (c es : Nat) : List Place → State × Except CmdStop (List Nat)
  | [] => (s, .ok [])
  | p :: l =>
    let (s, k) := s.placeKey c es true p
    match k with
    | .error e => (s, .error e)
    | .ok k =>
      let (s, r) := s.placeKeys c es l
      (s, r.map (k.toList ++ ·))

/-- The moves of elements in turn, the first of them element `j`, and the first reason to stop. An element that stops is
left out. [DESIGN CHOICE, unsafe: log 25] -/
def State.moves (s : State) (c es : Nat) (hint : Hint) (j : Nat) :
    List (Place × List Place) → State × List Move × Option CmdStop
  | [] => (s, [], none)
  | e :: l =>
    let (s, r) := s.readPlace c es hint e.1
    let (s, k) := s.placeKeys c es e.2
    let (s, ms, stop) := s.moves c es hint (j + 1) l
    match r, k with
    | .ok (b, src), .ok ks => (s, ⟨j, src, ks, b⟩ :: ms, stop)
    | .error e, _ => (s, ms, some e)
    | _, .error e => (s, ms, some e)

/-- The position of a write in its walk: destination `i` of element `j`. A command names at most 24 destinations. -/
def writePos (j i : Nat) : Nat := 24 * j + i

/-- The writes of a walk, by position and key; `l` gives the keys of each element's source and destinations. Elements are
aligned to their size, so that two of them overlap whole or not at all. -/
def walkWrites (l : List (Option Nat × List Nat)) : List (Nat × Nat) :=
  (List.range l.length).flatMap fun j =>
    let d := (l.getD j (none, [])).2
    (List.range d.length).map fun i => (writePos j i, d.getD i 0)

/-- The writes whose bytes may take any value: those of bytes that are source and destination both (R233).
[DESIGN CHOICE, safe: log 26] -/
def clashWrites (l : List (Option Nat × List Nat)) : List Nat :=
  ((walkWrites l).filter fun p => l.any fun e => e.1 = some p.2).map (·.1)

/-- The last of several writes of one place: their order is free (R233). [DESIGN CHOICE, safe: log 26] -/
def lastWrite (free : Nat) (l : List Nat) : Nat := match l with
  | [] => 0
  | p :: r => r.foldl (fun w q => if Config.freeBit (free + q) then q else w) p

/-- Where several elements are written to one place: each write but the last, with the last.
[DESIGN CHOICE, safe: log 26] -/
def lastWrites (free : Nat) (l : List (Option Nat × List Nat)) : List (Nat × Nat) :=
  let ws := walkWrites l
  ws.filterMap fun p =>
    let w := lastWrite free ((ws.filter fun q => q.2 = p.2).map (·.1))
    if w = p.1 then none else some (p.1, w)

/-- [ROFF, ROFF + L) split at every multiple of 4096: offset and length of each fragment. -/
def fragments (roff n : Nat) : List (Nat × Nat) :=
  if n = 0 then []
  else (List.range ((roff + n - 1) / 4096 - roff / 4096 + 1)).map fun k =>
    let lo := Nat.max roff ((roff / 4096 + k) * 4096)
    (lo, Nat.min (roff + n) ((roff / 4096 + k + 1) * 4096) - lo)

/-- ROFF, L and the operation's packet code of a fabric command (R434, Table 14.3). -/
def Cmd.roff (m : Cmd) : Nat := (m.word 3).toNat % 2 ^ 40
def Cmd.fabricLen (m : Cmd) : Nat := if m.op = 9 then 8 else Nest.count m.src * Nest.size m.src
def Cmd.fabOp (m : Cmd) : Nat := match m.op with | 7 => 0 | 8 => 1 | _ => 3
def Cmd.fragments (m : Cmd) : List (Nat × Nat) := Machine.fragments m.roff m.fabricLen

/-- Whether a fragment is one of command `m` of context `x`. -/
def Frag.isOf (g : Frag) (x : Ctx) (m : Cmd) : Bool :=
  g.uid = x.task.uid && g.member = x.task.member && g.seq = m.seq

/-- Whether element `j` of a command has been written: a GET's with the reply that brings it. -/
def State.landed (s : State) (c : Nat) (m : Cmd) (j : Nat) : Bool :=
  let at0 := m.roff + j * Nest.size m.src
  if m.op = 8 then
    (m.fragments.take m.moved).any fun f => decide (f.1 ≤ at0) && decide (at0 < f.1 + f.2) &&
      !(s.frags.any fun g => g.isOf (s.ctx c) m && decide (g.roff = f.1) && !g.got)
  else decide (j < m.moved)

/-- The bytes that moves of a command write, by key: a write that may take any value takes free ones, and one that comes
before another of the same bytes is not seen once that has been made (R233). [DESIGN CHOICE, safe: log 26] -/
def State.written (s : State) (c : Nat) (m : Cmd) (ms : List Move) : State × List (Nat × Byte) :=
  let now := ms.flatMap fun x => (List.range x.dst.length).map (writePos x.j)
  let gone (p : Nat) : Bool := m.last.any fun q => q.1 = p && (now.contains q.2 || s.landed c m (q.2 / 24))
  let l := ms.flatMap fun x => (List.range x.dst.length).flatMap fun i =>
    if gone (writePos x.j i) then []
    else (List.range x.bytes.length).map fun b =>
      (x.dst.getD i 0 + b, x.bytes.getD b 0, m.clash.contains (writePos x.j i))
  ({ s with free := s.free + l.length },
   (List.range l.length).filterMap fun i => l[i]?.map fun u =>
    (u.1, if u.2.2 then Config.freeByte (s.free + i) else u.2.1))

/-- Bytes of memory grouped by line. -/
def byLine (l : List (Nat × Byte)) : List (Nat × List (Nat × Byte)) :=
  (l.foldl (fun acc x => match acc with
    | y :: r => if y.1 = x.1 / 128 then (y.1, y.2 ++ [x]) :: r else (x.1 / 128, [x]) :: acc
    | [] => [(x.1 / 128, [x])]) []).reverse

/-- Bytes written by key, at the home slices and in the scratchpads (R235). -/
def State.writeKeys (s : State) (region : Nat) (hint : Hint) (l : List (Nat × Byte)) : State :=
  let s := (l.filter fun p => p.1 < 2 ^ 52).foldl (fun (s : State) p =>
    s.modCore (p.1 / 2 ^ 22) fun x => { x with spad := Tab.set none x.spad (p.1 % 2 ^ 22) (some p.2) }) s
  let mem := (l.filter fun p => 2 ^ 52 ≤ p.1).map fun p => (p.1 - 2 ^ 52, p.2)
  (byLine mem).foldl (fun s g =>
    let mask := g.2.foldl (fun m p => m ||| BitVec.ofNat 128 (2 ^ (p.1 % 128))) 0
    g.2.foldl (fun s p => s.setHomeByte p.1 p.2) (s.sliceWrite region hint g.1 mask)) s

/-- What a copy writes into a context's windows stands in its captures too, unless a rollback to them would cancel the
command: `own` is the issue number of a command of the context itself (Table 8.2, retirement).
[DEDUCED, unsafe: log 99] -/
def Ctx.noteCopy (x : Ctx) (own : Option Nat) (l : List (Nat × Byte)) : Ctx :=
  let mine := l.filterMap fun p =>
    let g := p.1 / 0x10_0000
    let off := p.1 % 0x10_0000
    let b := nth0 x.task.pbase g
    if b ≤ off ∧ off < b + nth0 x.task.win g then some (0x10_0000 * g + (off - b), p.2) else none
  let put (a : Arch) : Arch := { a with spad := mine.foldl (fun t p => Tab.set none t p.1 (some p.2)) a.spad }
  let keeps (n : Nat) : Bool := own.all fun m => decide (m < n)
  if mine = [] then x
  else { x with
    cap := if keeps x.capSeq then put x.cap else x.cap
    past := x.past.map fun r => if keeps r.capSeq then { r with cap := put r.cap } else r }

/-- Bytes written into scratchpads are noted in the captures of the tasks that run there.
[DEDUCED, unsafe: log 99] -/
def State.noteCopies (s : State) (c seq : Nat) (l : List (Nat × Byte)) : State :=
  let on (k : Nat) : List (Nat × Byte) :=
    l.filterMap fun p => if p.1 < 2 ^ 52 ∧ p.1 / 2 ^ 22 = k then some (p.1 % 2 ^ 22, p.2) else none
  { s with ctxs := s.ctxs.map fun p =>
      if p.2.busy then (p.1, p.2.noteCopy (if p.1 = c then some seq else none) (on (coreOf p.1))) else p }

/-- Moves of a command are performed. -/
def State.performMoves (s : State) (c : Nat) (m : Cmd) (ms : List Move) : State :=
  let (s, l) := s.written c m ms
  (s.writeKeys (s.ctx c).task.region (Cw.hint m.cw) l).noteCopies c m.seq l

/-- Which moves a stopped command had already made is free (R244). [DESIGN CHOICE, safe: log 27] -/
def State.someMoves (s : State) (ms : List Move) : State × List Move :=
  ({ s with free := s.free + ms.length },
   (List.range ms.length).filterMap fun i => if Config.freeBit (s.free + i) then ms[i]? else none)

/-! ## Places of a walk -/

/-- Where a task's logical offset stands on core `k`. -/
def Task.place (t : Task) (k lo : Nat) : Place := .spad k (t.spadPa lo) lo

/-- A side of KIND 0 or 1 of a command of context `c`: where element `j` stands. -/
def State.sidePlace (s : State) (c : Nat) (shape r : BitVec 512) (off : Word) (j : Nat) : Place :=
  let a := (Nest.addr shape r off j).toNat
  if Nest.kind r = 1 then (s.ctx c).task.place (coreOf c) a else .va a

/-- Coordinate `k` of element `j` of a tensor walk (R237). -/
def tensorCoord (r : BitVec 512) (origin : Nat → Int) (j k : Nat) : Int :=
  origin k + (if k < Nest.ndim r then (Nest.idx r j k : Int) * Nest.stride r k else 0)

/-- Where a coordinate stands (R396); none outside the extent. A dimension that the tensor does not have holds
coordinate 0 only. [DEDUCED, unsafe: log 28] -/
def Tensor.place (t : Tensor) (coord : Nat → Int) : Place :=
  let inside := (List.range 6).all fun k =>
    if k < t.ndim then decide (0 ≤ coord k) && decide (coord k < nth0 t.extent k) else decide (coord k = 0)
  if !inside then .none
  else
    let c (k : Nat) : Nat := (coord k).toNat
    let nt (k : Nat) : Nat := (nth0 t.extent k + 2 ^ nth0 t.tlog k - 1) / 2 ^ nth0 t.tlog k
    let dims := List.range t.ndim
    let tile := (if t.layout = 0 then dims.reverse else dims).foldl
      (fun n k => n * nt k + c k / 2 ^ nth0 t.tlog k) 0
    let off := dims.reverse.foldl (fun n k => n * 2 ^ nth0 t.tlog k + c k % 2 ^ nth0 t.tlog k) 0
    let tbytes := 2 ^ (t.elog + (dims.map fun k => nth0 t.tlog k).sum)
    .pa (nth0 t.tiles tile * 128 + off * 2 ^ t.elog) (t.dbase + tile * tbytes + off * 2 ^ t.elog)

/-- The origin of a CPYT: coordinate 2j in bits [31:0] of word j + 1, and 2j + 1 in bits [63:32]. -/
def Cmd.origin (m : Cmd) (k : Nat) : Int := ((m.word (1 + k / 2)).extractLsb' (32 * (k % 2)) 32).toInt

def tensorPlace (t : Option Tensor) (r : BitVec 512) (origin : Nat → Int) (j : Nat) : Place :=
  match t with
  | some t => t.place (tensorCoord r origin j)
  | none => .none

end Sys2Proof.Machine
end

