-- ==== Sys2Proof/Machine/Fabric.lean ====
section
/-! DEFINITION. Machine/Fabric.lean: windows and the target's checks, fragments at the target and at the issuing hub,
and how PUT, GET and RADD run (spec/14_gidin_fabric.md R429 to R437). -/

namespace Sys2Proof.Machine

/-! ## Window handles (Table 14.7) -/

namespace Handle
def base (h : BitVec 256) : Nat := (h.extractLsb' 0 57).toNat
def bound (h : BitVec 256) : Nat := (h.extractLsb' 64 40).toNat
def wr (h : BitVec 256) : Bool := h.getLsbD 104
def rd (h : BitVec 256) : Bool := h.getLsbD 105
def ad (h : BitVec 256) : Bool := h.getLsbD 106
def region (h : BitVec 256) : Nat := (h.extractLsb' 112 12).toNat
def wslot (h : BitVec 256) : Nat := (h.extractLsb' 128 12).toNat
def gen (h : BitVec 256) : BitVec 16 := h.extractLsb' 140 16
def mod (h : BitVec 256) : Nat := (h.extractLsb' 156 15).toNat
def tag (h : BitVec 256) : Word := h.extractLsb' 192 64
/-- The handle of a window, sealed. -/
def make (base bound : Nat) (wr rd ad : Bool) (region slot : Nat) (gen : BitVec 16) (modid : Nat) : BitVec 256 :=
  let body : BitVec 256 := BitVec.ofNat 256
    (base + bound * 2 ^ 64 + wr.toNat * 2 ^ 104 + rd.toNat * 2 ^ 105 + ad.toNat * 2 ^ 106 + region * 2 ^ 112 +
      slot * 2 ^ 128 + gen.toNat * 2 ^ 140 + modid * 2 ^ 156)
  body ||| ((sealOf Config.windowKey body).setWidth 256 <<< 192)
end Handle

def State.window (s : State) (k : Nat) : Window := Tab.get {} s.windows k
def State.modWindow (s : State) (k : Nat) (f : Window → Window) : State :=
  { s with windows := Tab.set {} s.windows k (f (s.window k)) }

/-! ## At the target -/

/-- Bytes that a request reads or writes. -/
def Pk.span (p : Packet) : Nat :=
  match p.op with | 1 => p.value.toNat | 3 => 8 | _ => p.len

/-- The first check of R431 that a request fails, as a reason of Table 14.8. -/
def State.windowReason (s : State) (p : Packet) : Option Nat :=
  let h := p.handle
  let w := s.window (Handle.wslot h)
  let right := match p.op with | 0 => Handle.wr h | 1 => Handle.rd h | _ => Handle.ad h
  if Handle.mod h ≠ s.modid ∨ Handle.tag h ≠ sealOf Config.windowKey h ∨ !w.valid ∨ w.gen ≠ Handle.gen h then some 1
  else if !right ∨ p.roff + Pk.span p > Handle.bound h ∨
      (p.cen ∧ (p.coff + 8 > Handle.bound h ∨ p.coff % 8 ≠ 0)) then some 2
  else none

/-- Bytes written at a virtual address of a region's address space, at their homes. -/
def State.hubWrite (s : State) (region va : Nat) (data : List Byte) : State :=
  ((lineParts va data.length).foldl (fun (acc : State × Nat) p =>
    let (s, i) := acc
    (match s.vaPa (s.asidOf region) (va + i) with
      | some pa => (s.walkReads region (s.asidOf region) (va + i)).writeHome region .normal pa ((data.drop i).take p.2.2)
      | none => s, i + p.2.2)) (s, 0)).1

/-- Bytes read at a virtual address at their homes; none when some are uncorrectable. -/
def State.hubRead (s : State) (region va n : Nat) : State × Option (List Byte) :=
  let parts := lineParts va n
  (parts.foldl (fun (acc : (State × Option (List Byte)) × Nat) p =>
    let ((s, l), i) := acc
    (match l, s.vaPa (s.asidOf region) (va + i) with
      | some l, some pa =>
        if (s.badAt pa p.2.2).isSome then (s, none)
        else
          let (s, b) := (s.walkReads region (s.asidOf region) (va + i)).readHome region .normal pa p.2.2
          (s, some (l ++ b))
      | _, _ => (s, none), i + p.2.2)) ((s, some []), 0)).1

/-- An add on a 64-bit word at its home. -/
def State.hubAdd (s : State) (region va : Nat) (v : Word) : State :=
  match s.hubRead region va 8 with
  | (s, some b) => s.hubWrite region va (bytesOf 8 (BitVec.ofNat 64 (ofBytes b) + v).toNat)
  | (s, none) => s

/-- Granules of a fragment (R437). -/
def Pk.granules (p : Packet) : Nat := if p.op = 3 then 1 else (Pk.span p + 63) / 64

/-- The arrival counter, once the fragment is performed, and then DONE. -/
def State.counted (s : State) (p : Packet) : State :=
  let h := p.handle
  let s := if p.cen then s.hubAdd (Handle.region h) (Handle.base h + p.coff) (BitVec.ofNat 64 (Pk.granules p)) else s
  s.inject (Packet.answer p s.modid 4 0 [])

/-- A request is checked, and applied or answered with a NACK. -/
def State.hubRequest (s : State) (p : Packet) (act : State → State) : State :=
  match s.windowReason p with
  | some r =>
    (s.modWindow (Handle.wslot p.handle) fun w => { w with rejects := w.rejects + 1 }).inject (nackOf s.modid p r)
  | none => act s

def execPutPacket (p : Packet) (s : State) : Outcome :=
  .next (s.hubRequest p fun s =>
    (s.hubWrite (Handle.region p.handle) (Handle.base p.handle + p.roff) (p.data.take p.len)).counted p)

def execGetreq (p : Packet) (s : State) : Outcome :=
  .next (s.hubRequest p fun s =>
    match s.hubRead (Handle.region p.handle) (Handle.base p.handle + p.roff) (Pk.span p) with
    | (s, some b) => (s.inject (Packet.answer p s.modid 2 0 b)).counted p
    | (s, none) => s.inject (nackOf s.modid p 5))

def execRaddPacket (p : Packet) (s : State) : Outcome :=
  .next (s.hubRequest p fun s =>
    (s.hubAdd (Handle.region p.handle) (Handle.base p.handle + p.roff) p.value).counted p)

/-! ## At the issuing hub (R434, R435) -/

/-- The context that holds member `m` of task `uid`, on its core. -/
def State.ctxOfTask (s : State) (uid m : Nat) : Option Nat :=
  (s.ctxs.find? fun p => p.2.live && p.2.task.uid = uid && p.2.task.member = m).map (·.1)

/-- The command of a fragment, while it is queued on a core. -/
def State.fragCmd (s : State) (g : Frag) : Option (Nat × Cmd) :=
  (s.ctxOfTask g.uid g.member).bind fun c =>
    (((s.ctx c).cmds).find? fun m => m.seq = g.seq).map fun m => (c, m)

/-- Whether the command of a fragment has still to send others: it stands in a queue, on a core or saved (R436). -/
def State.hasCmd (s : State) (g : Frag) : Bool :=
  (s.fragCmd g).isSome || s.saved.any fun k => k.members.any fun x =>
    x.busy && x.cmds.any fun m => g.isOf x m

def Frag.same (a b : Frag) : Bool := a.uid = b.uid && a.member = b.member && a.seq = b.seq

def State.modFrag (s : State) (x : Nat) (f : Frag → Frag) : State :=
  { s with frags := s.frags.map fun g => if g.xid = x then f g else g }

/-- A command leaves its queue. -/
def Ctx.dequeue (x : Ctx) (seq : Nat) : Ctx :=
  { x with q0 := x.q0.filter fun m => m.seq ≠ seq, q1 := x.q1.filter fun m => m.seq ≠ seq }

/-- The fault of command `seq` falls due later. -/
def Ctx.stopAt (x : Ctx) (seq : Nat) (f : FaultRec) : Ctx := if x.busy then x.defer (seq + 1) f else x

/-- A fragment that has returned all it returns leaves, so that its command, saved or not, waits for the others alone; the
last one of a command that has sent all of them posts its ACK (R434, R436). -/
def State.settle (s : State) (xid : Nat) : State :=
  match s.frags.find? fun g => g.xid = xid with
  | none => s
  | some g =>
    if g.got && g.fin then
      let s := { s with frags := s.frags.filter fun x => x.xid ≠ xid }
      match g.ack with
      | some f => if s.frags.any (Frag.same g) || s.hasCmd g then s else s.sendPost g.core g.uid g.member f
      | none => s
    else s

def execDone (p : Packet) (s : State) : Outcome :=
  .next ((s.modFrag p.xid fun g => { g with fin := true }).settle p.xid)

/-- A command stops at a fragment (R435): it leaves its queue with no post, and DATA falls due. -/
def State.stopFrag (s : State) (xid reason : Nat) : State :=
  match s.frags.find? fun g => g.xid = xid with
  | none => s
  | some g =>
    let s := { s with frags := s.frags.filter fun x => !x.same g }
    let f : FaultRec := ⟨0x08, g.slot, 0, g.pc, BitVec.ofNat 64 g.roff,
      BitVec.ofNat 64 (g.eng + g.slot * 2 ^ 8 + reason * 2 ^ 12)⟩
    s.modTask g.uid g.member fun x => (x.dequeue g.seq).stopAt g.seq f

/-- A NACK stops the command of the fragment whose request bore its XID and handle. [DEDUCED, unsafe: log 78] -/
def execNack (p : Packet) (s : State) : Outcome :=
  .next (if s.frags.any fun g => g.xid = p.xid && g.handle = p.handle then s.stopFrag p.xid (p.value.toNat % 256) else s)
def execFragmentTimeout (xid : Nat) (s : State) : Outcome := .next (s.stopFrag xid 6)

/-- A command stops for a reason of its own (R244, R395). [DESIGN CHOICE, safe: log 27] -/
def State.stopCmd (s : State) (c eng : Nat) (m : Cmd) (r : CmdStop) : State :=
  let f : FaultRec := match r with
    | .data va => ⟨0x08, m.slot, 0, m.pc, BitVec.ofNat 64 (va / 64 * 64), BitVec.ofNat 64 (eng + m.slot * 2 ^ 8)⟩
    | .walk va n w => ⟨0x03, m.slot, 0, m.pc, BitVec.ofNat 64 va, BitVec.ofNat 64 (n + w.toNat * 2 ^ 32 + 2 ^ 33)⟩
  s.modCtx c fun x => (x.dequeue m.seq).stopAt m.seq f

/-- The places of bytes `[pos, pos + n)` of a command's local walk, element by element. -/
def State.walkPlaces (s : State) (c : Nat) (m : Cmd) (pos n : Nat) : List Place :=
  let es := Nest.size m.src
  (List.range (n / es)).map fun j => s.sidePlace c m.src m.src (m.word 1) (pos / es + j)

/-- The bytes of a reply are written to the local walk. -/
def State.replyData (s : State) (c : Nat) (m : Cmd) (g : Frag) (data : List Byte) : State × Option CmdStop :=
  let es := Nest.size m.src
  let step (acc : (State × List Move × Option CmdStop) × Nat) (p : Place) :
      (State × List Move × Option CmdStop) × Nat :=
    let ((s, ms, stop), i) := acc
    let (s, k) := s.placeKey c es true p
    match k with
    | .ok k => ((s, ms ++ [⟨g.pos / es + i, none, k.toList, (data.drop (es * i)).take es⟩], stop), i + 1)
    | .error e => ((s, ms, some e), i + 1)
  let ((s, ms, stop), _) := (s.walkPlaces c m g.pos g.len).foldl step ((s, [], none), 0)
  (s.performMoves c m ms, stop)

def execGetdata (p : Packet) (s : State) : Outcome :=
  .next (match s.frags.find? fun g => g.xid = p.xid with
  | none => s
  | some g =>
    match s.fragCmd g with
    | none => s
    | some (c, m) =>
      let (s, stop) := s.replyData c m g p.data
      match stop with
      | some r => ({ s with frags := s.frags.filter fun x => !x.same g } : State).stopCmd c g.eng m r
      | none => (s.modFrag p.xid fun g => { g with got := true }).settle p.xid)

/-! ## The injection regulator (R439) -/

/-- The bytes that a packet takes from the credit: its flits, with the tail flit of a protected link. -/
def State.injectBytes (s : State) (p : Packet) : Nat :=
  64 * (Pk.flits p + (match s.firstPort p with | some k => (s.port k).prot.toNat | none => 0))

/-- Bytes of a full credit bucket. -/
def fabCap : Nat := 0x4000

/-- What a region's bucket lacks of full now; from throttle stage 1 on, one that is not deterministic gains half (R489). -/
def State.fabLacks (s : State) (r : Nat) : Nat :=
  Tab.get 0 s.fabCredit r - (s.now - Tab.get 0 s.fabCreditAt r) * (25 * s.effFabsh r) /
    (if 1 ≤ s.power.stage && !s.effDet r then 2 else 1)

/-- The buckets keep the levels that they have now, before a share or the rate changes. [DEDUCED, unsafe: log 55] -/
def State.settleFab (s : State) : State :=
  { s with
    fabCredit := (s.fabCredit.map (·.1)).foldl (fun t r => Tab.set 0 t r (s.fabLacks r)) s.fabCredit
    fabCreditAt := (s.fabCredit.map (·.1)).foldl (fun t r => Tab.set 0 t r s.now) s.fabCreditAt }

/-- Bytes that are injected leave the region's bucket. -/
def State.chargeFab (s : State) (r n : Nat) : State :=
  { s with
    fabCredit := Tab.set 0 s.fabCredit r (s.fabLacks r + n), fabCreditAt := Tab.set 0 s.fabCreditAt r s.now }

/-- The fragment that the head command of a queue injects next. -/
def State.nextFrag (s : State) (c eng : Nat) : Option (Cmd × Nat × Nat) :=
  match (s.ctx c).queued eng with
  | [] => none
  | m :: _ => if m.fabric && m.started then m.fragments[m.moved]?.map fun f => (m, f) else none

/-- Whether a region's fabric commands have a fragment to inject. -/
def State.fabWants (s : State) (r : Nat) : Bool :=
  s.ctxs.any fun p => p.2.live && decide (p.2.task.region = r) && decide (p.2.st ≠ .save) &&
    [0, 1].any fun eng => (s.nextFrag p.1 eng).isSome

/-- Whether `n` bytes of a region's commands are admitted. -/
def State.fabAdmits (s : State) (r n : Nat) : Bool :=
  if s.effFabsh r = 256 then true
  else if s.effFabsh r = 0 then !(s.liveRegions.any fun q => q ≠ r && s.fabWants q)
  else decide (s.fabLacks r + n ≤ fabCap)

/-- The handle that a command names, read by the hub (R434). -/
def State.readHandle (s : State) (c : Nat) (m : Cmd) : State × Except CmdStop (BitVec 256) :=
  let (s, r) := s.readPlace c 32 .normal (.va (m.word 2).toNat)
  (s, r.map fun b => BitVec.ofNat 256 (ofBytes b.1))

/-- The packet of fragment `i` of a command, `f` its offset and length, with its data. -/
def State.fragPacket (s : State) (m : Cmd) (f : Nat × Nat) (last : Bool) (data : List Byte) : Packet :=
  let fw := m.word 4
  { dst := Fw.dmod fw, src := s.modid, op := m.fabOp, resp := false, esc := false, epoch := false, nmin := false
    igrp := 0, ghop2 := false, gh := 0, last := last, cen := Fw.cen fw, len := data.length
    roff := f.1, coff := Fw.coff fw, xid := s.nextXid
    value := if m.op = 8 then BitVec.ofNat 64 f.2 else if m.op = 9 then m.word 1 else 0, handle := m.handle
    data := data }

/-- Send one fragment of a command, and track it; its flits count in FABBYTES (R435, R439).
[DEDUCED, unsafe: log 81] -/
def State.sendFrag (s : State) (c eng : Nat) (m : Cmd) (f : Nat × Nat) (last : Bool) (data : List Byte) : State :=
  let x := s.ctx c
  let fw := m.word 4
  let p := s.fragPacket m f last data
  let g : Frag := ⟨s.nextXid, coreOf c, x.task.uid, x.task.member, eng, m.seq, m.op, m.pc, m.slot,
    if Fw.ack fw then some (Fw.aflag fw) else none, f.1, f.2, f.1 - m.roff, decide (m.op ≠ 8), false, p.handle⟩
  let s := { s with nextXid := (s.nextXid + 1) % 2 ^ 32, frags := s.frags ++ [g] }
  ((s.chargeFab x.task.region (s.injectBytes p)).modRegion x.task.region fun r =>
    { r with fabbytes := r.fabbytes + BitVec.ofNat 64 (s.injectBytes p) }).inject p

end Sys2Proof.Machine
end

