-- ==== Sys2Proof/Machine/Engine.lean ====
section
/-! DEFINITION. Machine/Engine.lean: what a copy engine does with the command at the head of a context's queue
(spec/08_scratchpad_and_copy.md R225 to R229, R236 to R247, spec/14_gidin_fabric.md R434, R436, R439): one granule of 256
bytes, or one fragment, at a time. -/

namespace Sys2Proof.Machine

/-- Commands that a context holds for an engine, not yet in its queue. [DEDUCED, unsafe: log 21] -/
def heldFor (eng : Nat) (l : List Eff) : List Cmd :=
  l.filterMap fun e => match e with
    | .copy k m => if k = eng then some m else none
    | _ => none

/-- Whether an earlier command of the context on the other engine has still to complete (R226). -/
def Ctx.otherBusy (x : Ctx) (eng : Nat) (m : Cmd) : Bool :=
  let l := x.queued (1 - eng) ++ heldFor (1 - eng) (x.rel ++ x.past.flatMap (·.effs) ++ x.cbuf)
  l.any fun y => y.seq < m.seq

/-- Change command `seq` in its queue. -/
def Ctx.modCmd (x : Ctx) (seq : Nat) (f : Cmd → Cmd) : Ctx :=
  let up (y : Cmd) : Cmd := if y.seq = seq then f y else y
  { x with q0 := x.q0.map up, q1 := x.q1.map up }

/-! ## Completion (R242, R243) -/

/-- LPOST. A flag of a task that has ended is gone (R247). -/
def Ctx.localPost (x : Ctx) (m : Cmd) : Ctx :=
  if Cw.lpost m.cw && x.busy && !x.exited then { x with a := x.a.setFlag m.flag (x.a.flag m.flag + 1) } else x

/-- The members that a command names: the targets of a CMCAST, the source of a CGATH (R238, R239). -/
def Cmd.members (m : Cmd) : List Nat :=
  if m.op = 3 then (List.range 24).filter fun k => (m.word 3).getLsbD k
  else if m.op = 4 then [Cw.member m.cw]
  else []

/-- The members that a remote post goes to. -/
def Cmd.posted (m : Cmd) : List Nat := if Cw.rpost m.cw then m.members else []

/-- A command completes: it leaves its queue and makes its posts. -/
def State.completeCmd (s : State) (c : Nat) (m : Cmd) : State :=
  let s := s.modCtx c fun x => (x.dequeue m.seq).localPost m
  m.posted.foldl (fun s k => s.sendPost (coreOf c) (s.ctx c).task.uid k (Cw.rflag m.cw)) s

/-! ## What each command moves -/

/-- The core and the task of a member of the issuer's cluster that has its windows on a core: it runs, or it stands in a
shadow bank. None while it is saved, or has still to come back from its save. -/
def State.memberAt (s : State) (c member : Nat) : Option (Nat × Task) :=
  let uid := (s.ctx c).task.uid
  s.ctxs.findSome? fun p =>
    if p.2.live && p.2.task.uid = uid && p.2.task.member = member then some (coreOf p.1, p.2.task)
    else match p.2.bank with
      | some (.start t _) => if t.uid = uid ∧ t.member = member then some (coreOf p.1, t) else none
      | _ => none

/-- The scratchpad place of a member of the issuer's cluster. -/
def State.memberPlace (s : State) (c member lo : Nat) : Place :=
  match s.memberAt c member with
  | some (k, t) => t.place k lo
  | none => .none

/-- The elements of a command, each with its source and its destinations. -/
def State.elements (s : State) (c : Nat) (m : Cmd) : List (Place × List Place) :=
  let n := List.range (Nest.count m.src)
  let side (r : BitVec 512) (off : Word) (j : Nat) : Place := s.sidePlace c m.src r off j
  let offset (r : BitVec 512) (off : Word) (j : Nat) : Nat := (Nest.addr m.src r off j).toNat
  let t := (s.ctx c).task.tensor m.src
  match m.op with
  | 1 => n.map fun j => (side m.src (m.word 1) j, [side m.drec (m.word 2) j])
  | 2 => n.map fun j =>
    let p := tensorPlace t m.src m.origin j
    let q := side m.drec (m.word 4) j
    if !Cw.tdir m.cw then (p, [q]) else if p = .none then (.none, []) else (q, [p])
  | 3 => n.map fun j => (side m.src (m.word 1) j, m.members.map fun k => s.memberPlace c k (offset m.drec (m.word 2) j))
  | 4 => n.map fun j => (s.memberPlace c (Cw.member m.cw) (offset m.src (m.word 1) j), [side m.drec (m.word 2) j])
  | 5 => n.map fun j => (.none, [side m.src (m.word 2) j])
  | 6 => n.map fun j => (if Nest.kind m.src = 2 then tensorPlace t m.src (fun _ => 0) j else side m.src (m.word 1) j, [])
  | 7 => n.map fun j => (side m.src (m.word 1) j, [])
  | 8 => n.map fun j => (.none, [side m.src (m.word 1) j])
  | _ => []

/-- The keys of a walk's elements: each one's source and destinations. -/
def State.walkKeys (s : State) (c : Nat) (m : Cmd) : List (Option Nat × List Nat) :=
  let es := Nest.size m.src
  let key (p : Place) : Option Nat := match (s.placeKey c es false p).2 with | .ok k => k | .error _ => none
  (s.elements c m).map fun e => (key e.1, e.2.filterMap key)

/-- The head command of a queue starts, which settles the order of its writes (R233). -/
def State.startCmd (s : State) (c : Nat) (m : Cmd) (h : BitVec 256) : State :=
  let l := s.walkKeys c m
  ({ s with free := s.free + 24 * l.length } : State).modCtx c fun x => x.modCmd m.seq fun y =>
    { y with started := true, clash := clashWrites l, last := lastWrites s.free l, handle := h }

/-- Elements of a granule of 256 bytes (R227). -/
def granuleSize (es : Nat) : Nat := Nat.max 1 (256 / es)

/-- The bytes of a CFILL element (R240). -/
def fillBytes (es : Nat) (pattern : Word) : List Byte :=
  if es ≤ 8 then bytesOf es pattern.toNat else (List.range (es / 8)).flatMap fun _ => bytesOf 8 pattern.toNat

/-- The moves of CFILL, the first of them element `j`, and the first reason to stop. -/
def State.fillMoves (s : State) (c es : Nat) (b : List Byte) (j : Nat) : List (Place × List Place) → State × List Move × Option CmdStop
  | [] => (s, [], none)
  | e :: l =>
    let (s, k) := s.placeKeys c es e.2
    let (s, ms, stop) := s.fillMoves c es b (j + 1) l
    match k with
    | .ok ks => (s, ⟨j, none, ks, b⟩ :: ms, stop)
    | .error e => (s, ms, some e)

/-- CPREF: the lines of the walk come into their slices, and nothing else changes (R241).
[DEDUCED, unsafe: log 29] -/
def State.prefetch (s : State) (c es : Nat) (hint : Hint) : List (Place × List Place) → State × Option CmdStop
  | [] => (s, none)
  | p :: l =>
    let (s, k) := s.placeKey c es false p.1
    match k with
    | .error e => (s, some e)
    | .ok none => s.prefetch c es hint l
    | .ok (some k) =>
      let line := (k - 2 ^ 52) / 128
      match s.badGranule (line * 128) 128 with
      | some i => (s, some (.data (p.1.address / 128 * 128 + i)))
      | none => (s.sliceRead (s.ctx c).task.region hint line (BitVec.allOnes 128)).prefetch c es hint l

/-! ## Running the head of a queue -/

/-- What becomes of a command at a granule. -/
inductive Ran where
  | waits
  | moved (s : State)
  | completed (s : State)
  | stopped (s : State)

/-- Command `m` has moved `n` elements, or sent `n` fragments, of `total`. -/
def State.progress (s : State) (c : Nat) (m : Cmd) (n total : Nat) : Ran :=
  if total ≤ n then .completed (s.completeCmd c m)
  else .moved (s.modCtx c fun x => x.modCmd m.seq fun y => { y with moved := n })

/-- A copy moves its next granule. A CMCAST to no member reads nothing and completes (R238).
[DESIGN CHOICE, unsafe: log 25; DEDUCED, unsafe: log 30] -/
def State.runCopy (s : State) (c eng : Nat) (m : Cmd) : Ran :=
  let es := Nest.size m.src
  let n := Nat.min (Nest.count m.src) (m.moved + granuleSize es)
  let l := ((s.elements c m).drop m.moved).take (n - m.moved)
  if m.op = 3 ∧ m.members = [] then .completed (s.completeCmd c m)
  else match m.op with
  | 6 => match s.prefetch c es (Cw.hint m.cw) l with
    | (t, none) => t.progress c m n (Nest.count m.src)
    | (t, some e) => .stopped (t.stopCmd c eng m e)
  | _ =>
    let (t, ms, stop) :=
      if m.op = 5 then s.fillMoves c es (fillBytes es (m.word 1)) m.moved l
      else s.moves c es (Cw.hint m.cw) m.moved l
    match stop with
    | none => (t.performMoves c m ms).progress c m n (Nest.count m.src)
    | some e =>
      let (t, ms) := t.someMoves ms
      .stopped ((t.performMoves c m ms).stopCmd c eng m e)

/-- ACK of a command that sends nothing (R434). -/
def State.emptyAck (s : State) (c : Nat) (m : Cmd) : State :=
  let x := s.ctx c
  if Fw.ack (m.word 4) then s.sendPost (coreOf c) x.task.uid x.task.member (Fw.aflag (m.word 4)) else s

/-- The data of a fragment: a PUT's bytes of its local walk, read at the CP path; an RADD's addend goes in VALUE. -/
def State.fragData (s : State) (c : Nat) (m : Cmd) (f : Nat × Nat) : State × Except CmdStop (List Byte) :=
  let es := Nest.size m.src
  if m.op = 7 then
    match s.moves c es (Cw.hint m.cw) 0 (((s.elements c m).drop ((f.1 - m.roff) / es)).take (f.2 / es)) with
    | (s, ms, none) => (s, .ok (ms.flatMap (·.bytes)))
    | (s, _, some e) => (s, .error e)
  else (s, .ok (if m.op = 9 then bytesOf 8 (m.word 1).toNat else []))

/-- A fabric command injects its next fragment, once its region's credit admits it; a GET whose requests are all sent
completes when its replies are written and every fragment is DONE (R434, R439). [DEDUCED, unsafe: log 30] -/
def State.runFabric (s : State) (c eng : Nat) (m : Cmd) : Ran :=
  let x := s.ctx c
  match m.fragments[m.moved]? with
  | none =>
    if m.op = 8 && s.frags.any (fun g => g.isOf x m) then .waits
    else .completed ((if m.fabricLen = 0 then s.emptyAck c m else s).completeCmd c m)
  | some f =>
    match s.fragData c m f with
    | (s, .error e) => .stopped (s.stopCmd c eng m e)
    | (s, .ok d) =>
      let total := m.fragments.length
      if !s.fabAdmits x.task.region (s.injectBytes (s.fragPacket m f (decide (m.moved + 1 = total)) d)) then .waits
      else
        let s := s.sendFrag c eng m f (decide (m.moved + 1 = total)) d
        if m.op = 8 then .moved (s.modCtx c fun x => x.modCmd m.seq fun y => { y with moved := m.moved + 1 })
        else s.progress c m (m.moved + 1) total

/-- The command at the head of a context's queue on an engine, at its next granule or fragment. It starts once what XORD
and the members that it names ask for is there, and a fabric command with the hub's read of its handle. -/
def State.runHead (s : State) (c eng : Nat) : Ran :=
  match (s.ctx c).queued eng with
  | [] => .waits
  | m :: _ =>
    if !m.started && m.xord && (s.ctx c).otherBusy eng m then .waits
    else if m.members.any fun k => (s.memberAt c k).isNone then .waits
    else if m.started then (if m.fabric then s.runFabric c eng m else s.runCopy c eng m)
    else if m.fabric then
      if m.fabricLen = 0 then s.runFabric c eng m
      else match s.readHandle c m with
        | (s, .ok h) => .moved (s.startCmd c m h)
        | (s, .error e) => .stopped (s.stopCmd c eng m e)
    else
      let t := s.startCmd c m 0
      t.runCopy c eng (((t.ctx c).queued eng).headD m)

/-! ## The choice at each granule (R227) -/

/-- Whether a context has work on an engine: a context that is being saved has none (R229). -/
def State.hasWork (s : State) (c eng : Nat) : Bool :=
  decide ((s.ctx c).st ≠ .save) && match s.runHead c eng with | .waits => false | _ => true

/-- The PRI of the head command. -/
def State.headPri (s : State) (c eng : Nat) : Bool := (((s.ctx c).queued eng).head?.map (·.pri)).getD false

/-- Both contexts of core `k` have work of equal priority. -/
def State.contested (s : State) (k eng : Nat) : Bool :=
  s.hasWork (2 * k) eng && s.hasWork (2 * k + 1) eng && s.headPri (2 * k) eng = s.headPri (2 * k + 1) eng

/-- The context whose command takes the next granule of an engine. -/
def State.chosen (s : State) (k eng : Nat) : Option Nat :=
  let f := 2 * k
  let b := 2 * k + 1
  if !s.hasWork f eng then (if s.hasWork b eng then some b else none)
  else if !s.hasWork b eng then some f
  else if s.headPri f eng ≠ s.headPri b eng then some (if s.headPri f eng then f else b)
  else some (if Tab.get 0 (s.core k).copyTurn eng = 3 then b else f)

/-- The turn passes when both contexts had work. -/
def State.passTurn (s : State) (k eng : Nat) : State :=
  if s.contested k eng then
    s.modCore k fun x => { x with copyTurn := Tab.set 0 x.copyTurn eng ((Tab.get 0 x.copyTurn eng + 1) % 4) }
  else s

/-- The head command of engine `eng` moves a granule, or sends a fragment, and completes with its last. One that stops is
COPY_STOP's. [DESIGN CHOICE, unsafe: log 25; DEDUCED, unsafe: log 30] -/
def execCopyCompletion (c eng : Nat) (s : State) : Outcome :=
  .next (if s.chosen (coreOf c) eng = some c then
    match (s.passTurn (coreOf c) eng).runHead c eng with
    | .completed t => t
    | .moved t => t
    | _ => s
  else s)

/-- The head command meets uncorrectable data, or a translation that fails its confirming walk, and stops (R244). -/
def execCopyStop (c eng : Nat) (s : State) : Outcome :=
  .next (if s.chosen (coreOf c) eng = some c then
    match (s.passTurn (coreOf c) eng).runHead c eng with
    | .stopped t => t
    | _ => s
  else s)

/-! ## Posts (R246, R247) -/

/-- Whether member `m` of task `uid` stands in a shadow bank. -/
def State.startsSoon (s : State) (uid m : Nat) : Bool :=
  s.ctxs.any fun p => match p.2.bank with
    | some (.start t _) => t.uid = uid && t.member = m
    | _ => false

/-- The core that a post goes to; none while its member stands on none. -/
def State.postCore (s : State) (p : Post) : Option Nat :=
  (s.ctxs.find? fun x => x.2.busy && x.2.task.uid = p.uid && x.2.task.member = p.member).map fun x => coreOf x.1

/-- Whether post `k` may arrive: an earlier one from the same core to the same member, or to the same core, goes before it
(R343). -/
def State.postFirst (s : State) (k : Nat) (p : Post) : Bool :=
  !(s.posts.take k).any fun q => q.src = p.src &&
    ((q.uid = p.uid && q.member = p.member) || ((s.postCore q).isSome && s.postCore q = s.postCore p))

/-- A post reaches its flag, and waits for a member that has still to start; one for a task that has ended, or a member
that no longer holds it, is discarded. -/
def execFlagPostArrival (k : Nat) (s : State) : Outcome :=
  match s.posts[k]? with
  | none => .next s
  | some p =>
    let gone := { s with posts := dropNth s.posts k }
    .next (if !s.postFirst k p then s
      else if s.hasTask p.uid p.member then gone.modTask p.uid p.member fun x => x.arrive p.flag
      else if s.startsSoon p.uid p.member then s
      else gone)

end Sys2Proof.Machine
end

