-- ==== Sys2Proof/Machine/Recovery.lean ====
section
/-! DEFINITION. Machine/Recovery.lean: pre-emption and saves, time slices, data errors and reruns, retirement of cores
(spec/09_contexts_and_espaliers.md R268 to R273, R286 to R291, spec/10 R304, R312, R313, R325, spec/11 R332). -/

namespace Sys2Proof.Machine

/-! ## Pre-emption (R269, R270) -/

/-- M instructions in flight reach their array points; their drain writes and status stay in flight (Table 7.3). -/
def Arch.finishBeats (a : Arch) : Arch :=
  a.mflight.foldl (fun a m =>
    let (a, d, st) := a.arrayAct m.act
    { a with
      drains := a.drains ++ (d.map fun d => { d with left := m.left + 4 }).toList
      flight := if st = 0 then a.flight else a.flight ++ [⟨m.left, [], none, st⟩] }) { a with mflight := [] }

/-- A context stops at its bundle boundary and is being saved. A stolen frame that has issued no bundle goes back to the top
of the deque, which is saved (R312). -/
def Ctx.toSave (x : Ctx) : Ctx :=
  let x := { x with st := .save, preempt := false, a := x.a.finishBeats }
  match x.taken with
  | some (e, _) => { x with deque := e :: x.deque, task := { x.task with win := [], pbase := [] } }
  | none => x

/-- Context `c` stops at its boundary and is being saved; a stolen continuation is again one that its frame resumes. -/
def State.toSave (s : State) (c : Nat) : State :=
  let s := match (s.ctx c).taken with
    | some (e, true) => match s.vaPa (s.asidOf e.region) (joinPa e.frame.toNat) with
      | some pa => s.homeUpdate e.region pa 8 fun w => w ||| 2 ^ 33
      | none => s
    | _ => s
  s.modCtx c Ctx.toSave

/-- The task of a context has issued its end on every member: a request is answered "already retired" (R291). -/
def State.ended (s : State) (l : List Nat) : Bool := l.all fun m => (s.ctx m).ending.isSome || (s.ctx m).exited

/-- A tile step that has released nothing is discarded and launched again (R325). -/
def State.discardStep (s : State) (l : List Nat) (step : Launch) : State :=
  let s := l.foldl (fun (s : State) m =>
    s.modCtx m fun x => ({ st := .idle, deque := x.deque, spill := x.spill, bank := x.bank } : Ctx)) s
  let q := step.q.filter fun q => s.walks.any fun w => w.q = q
  ({ s with launches := { step with stage := .cond, q := q } :: s.launches } : State).recount

/-- Contexts whose request can be answered: they hold a task that is neither being saved nor already retired. -/
def State.mayPreempt (s : State) (c : Nat) : Bool :=
  let x := s.ctx c
  x.busy && decide (x.st ≠ .save) && !s.ended (s.holders x.task.uid)

/-- The top-level region that a region belongs to; region 0 is its own. -/
def State.topOf (s : State) (r : Nat) : Nat := ((s.lineage 8 r).find? fun a => (s.regionD a).level = 1).getD 0

/-- The slots of the pool of top-level region `top` that saves hold, or will hold (R272). -/
def State.poolUsed (s : State) (top : Nat) : Nat :=
  let mine (t : Task) : Bool := t.saveArea = 0 && s.topOf t.region = top
  ((s.saved.flatMap (·.members)).countP fun x => x.busy && mine x.task) +
    s.ctxs.countP fun p => p.2.busy && (p.2.preempt || p.2.st = .save) && mine p.2.task

/-- Whether the pool has slots for a pre-emption of context `c`, whose frame names no save area: twice CORES, and what F3
adds for saved tasks (R272). [DESIGN CHOICE, safe: log 101] -/
def State.slotFree (s : State) (c : Nat) : Bool :=
  let t := (s.ctx c).task
  let top := s.topOf t.region
  let need := s.poolUsed top + t.w * t.h
  t.saveArea ≠ 0 || decide (need ≤ 2 * s.effCores top) || decide (need ≤ 2 * s.effCores top + Config.poolExtra top)

/-- F2 requests the pre-emption of context `c`: it is pending, with a cluster on every member (R269); none without a slot
for its save (R272). -/
def State.requestPreempt (s : State) (c : Nat) : State :=
  if s.mayPreempt c && !(s.ctx c).preempt && s.slotFree c then
    (s.holders (s.ctx c).task.uid).foldl (fun (s : State) m => s.modCtx m fun x => { x with preempt := true }) s
  else s

/-- What a pending request of a member waits for (R291): its rerun, the other context's, the retirement of its core, or a fault of the bundle at
its boundary, unless the bundle is the handler's first. -/
def State.holdsRequest (s : State) (m : Nat) : Bool :=
  let x := s.ctx m
  x.rerun.isSome || (s.core (coreOf m)).stopped || (match x.st with | .held _ => true | _ => false) ||
    (!x.firstOfHandler && match (s.prepare m).2 with | .fault _ => true | _ => false)

/-- Members of a task that its pre-emption under way has saved already. -/
def State.savedAway (s : State) (uid : Nat) : Nat :=
  let placed (k : Nat) : Bool := s.ctxs.any fun p => match p.2.bank with | some (.saved j _) => j = k | _ => false
  ((s.saved.filter fun v => !placed v.id).flatMap (·.members)).countP fun x => x.busy && x.task.uid = uid

/-- A pending request for context `c` is taken at the boundary where it stands; with a cluster, on every member
(R269), once every member has started. -/
def State.preemptTask (s : State) (c : Nat) : State :=
  let x := s.ctx c
  let t := x.task
  let l := s.holders t.uid
  if !s.mayPreempt c then s
  else if l.length + s.savedAway t.uid ≠ t.w * t.h ∨ l.any s.holdsRequest then s
  else
    let again := s.savedAway t.uid ≠ 0 || l.any fun m => (s.ctx m).st = .save
    let s := if again then s else s.modRegion t.region fun r => { r with preempts := r.preempts + 1 }
    match t.tile with
    | some step =>
      if l.any fun m => (s.ctx m).task.released then l.foldl State.toSave s
      else s.discardStep l step
    | none => l.foldl State.toSave s

/-- A request becomes pending, unless F2 is being replaced (R465); a pending one is taken. -/
def execPreemptionRequest (c : Nat) (s : State) : Outcome :=
  .next (if (s.ctx c).preempt then s.preemptTask c else if s.fnAway 2 then s else s.requestPreempt c)

/-! ## Saves (R271, R272, R332) -/

/-- Bytes of a save area take values of the save's internal layout, which the spec does not give: free values.
[DESIGN CHOICE, unsafe: log 31] -/
def State.freeBytes (s : State) (region : Nat) (va n : Nat) : State :=
  let s := { s with free := s.free + n }
  (List.range (n / 128)).foldl (fun (s : State) i =>
    match s.vaPa (s.asidOf region) (va + 128 * i) with
    | some pa => s.writeHome region .normal pa ((List.range 128).map fun j => Config.freeByte (s.free - n + 128 * i + j))
    | none => s) s

/-- Where member `m`'s save stands (R272). -/
def Task.saveVa (t : Task) : Nat := t.saveArea.toNat + t.member * (0x6_0000 + (t.win.sum + 4095) / 4096 * 4096)

/-- The record of a saved task, made when its first member is saved. -/
def State.savedOf (s : State) (uid : Nat) : Option Saved :=
  s.saved.find? fun v => v.members.any fun x => x.busy && x.task.uid = uid

/-- Member `x`, taken from core `k`, joins its task's save; `parked` leaves its windows on the core. -/
def State.addSaved (s : State) (k : Nat) (x : Ctx) (parked : Bool) : State :=
  let t := x.task
  let n := t.w * t.h
  let v : Saved := (s.savedOf t.uid).getD
    ⟨s.nextSaved, List.replicate n {}, List.replicate n none, List.replicate n 0, t.saveArea, false⟩
  let members := v.members.set t.member x
  let v := { v with
    members := members
    windows := v.windows.set t.member (if parked then none else some (t.win.map fun n => List.replicate n none))
    homes := v.homes.set t.member k
    live := members.all Ctx.busy }
  if (s.savedOf t.uid).isSome then { s with saved := s.saved.map fun w => if w.id = v.id then v else w }
  else { s with saved := s.saved ++ [v], nextSaved := s.nextSaved + 1 }

/-- Whether a GET of the context has replies outstanding: its fragments complete before the save (R436). -/
def State.repliesDue (s : State) (x : Ctx) : Bool :=
  s.frags.any fun g => g.op = 8 && g.uid = x.task.uid && g.member = x.task.member

/-- Whether a post to the context is on its way: it is applied to the flags before the save completes (Table 8.6). -/
def State.postsDue (s : State) (x : Ctx) : Bool := s.posts.any fun p => p.uid = x.task.uid && p.member = x.task.member

/-- The save of a context completes: a release at FABRIC scope over S/V and UO, then its state leaves the core with its
deque, and its windows are parked (R271, R304, R332). [DESIGN CHOICE, unsafe: log 31] -/
def State.completeSave (s : State) (c : Nat) : State :=
  let x := s.ctx c
  if x.st ≠ .save ∨ !x.loadsDone ∨ s.repliesDue x ∨ s.postsDue x ∨ (s.core (coreOf c)).stopped then s
  else
    let s := (s.l1WriteBack (coreOf c) true).l1MergeAll (coreOf c)
    let s := if x.task.saveArea = 0 then s else s.freeBytes x.task.region x.task.saveVa 0x6_0000
    ((s.addSaved (coreOf c) (s.ctx c) true).modCtx c fun y => ({ st := .idle, bank := y.bank } : Ctx)).recount

def execSaveComplete (c : Nat) (s : State) : Outcome := .next (s.completeSave c)

/-- The windows that saved task `k` has parked on a core are written to its save area, and leave the core (R271).
[DESIGN CHOICE, unsafe: log 31] -/
def State.writeParked (s : State) (core k : Nat) : State :=
  match s.saved.find? fun v => v.id = k with
  | none => s
  | some v =>
    let bytes (x : Ctx) : List (List (Option Byte)) := (List.range 3).map fun g =>
      (List.range (nth0 x.task.win g)).map fun i =>
        Tab.get none (s.core core).spad (0x10_0000 * g + nth0 x.task.pbase g + i)
    let mine (m : Nat) : Bool := (v.members.getD m {}).busy && v.homes.getD m 0 = core && (v.windows.getD m none).isNone
    let windows := (List.range v.windows.length).map fun m =>
      if mine m then some (bytes (v.members.getD m {})) else v.windows.getD m none
    let s := (List.range v.windows.length).foldl (fun (s : State) m =>
      let t := (v.members.getD m {}).task
      if mine m && t.saveArea ≠ 0 then s.freeBytes t.region (t.saveVa + 0x6_0000) t.win.sum else s) s
    { s with saved := s.saved.map fun w => if w.id = k then { v with windows := windows } else w }

def execParkedWindowWrite (core k : Nat) (s : State) : Outcome := .next (s.writeParked core k)

/-! ## Time slices (R268) -/

/-- A slice of a core ends: a background task that has been ready for the whole of it and issued nothing is pre-empted. F2
ends no slice while it is being replaced (R465). -/
def execTimeSliceExpiry (core : Nat) (s : State) : Outcome :=
  let c := 2 * core + 1
  let x := s.ctx c
  let s := if x.busy && x.sliceReady && !x.sliceIssued && !s.fnAway 2 then s.requestPreempt c else s
  .next (if s.fnAway 2 then s else (s.modCtx c fun x => { x with sliceIssued := false, sliceReady := x.busy }))

/-! ## Retirement (R289, R290, R313) -/

/-- Spill-ring entries, then hardware entries, oldest first, go to their regions' overflow queues. -/
def State.spillOut (s : State) (c : Nat) : State :=
  let x := s.ctx c
  (x.spill ++ x.deque).foldl State.pushOverflow (s.modCtx c fun x => { x with deque := [], spill := [] })

/-- The windows of context `c` hold what they held at its last good checkpoint (Table 8.2).
[DEDUCED, unsafe: log 99] -/
def State.restoreWindows (s : State) (c : Nat) : State :=
  let x := s.ctx c
  (s.clearWindows (coreOf c) x.task.win x.task.pbase).modCore (coreOf c) fun k => { k with
    spad := x.cap.spad.foldl (fun t p =>
      let g := p.1 / 0x10_0000
      Tab.set none t (p.1 + nth0 x.task.pbase g) p.2) k.spad }

/-- A received frame that has issued no bundle stands in the deque of context `c` again, and the context is idle (R312). -/
def State.giveBack (s : State) (c : Nat) : State :=
  (if (s.ctx c).st = .save then s else s.toSave c).modCtx c fun x =>
    ({ st := .idle, deque := x.deque, spill := x.spill, bank := x.bank } : Ctx)

/-- Context `m` goes back to its last good checkpoint, out of any rerun; a pre-emption under way is requested again
(R291). -/
def State.restartOne (s : State) (m : Nat) : State :=
  let x := s.ctx m
  let s := if x.rerun.isSome then s.unhold (partner m) else s
  let s := s.modCtx m fun x => { x.rollback with rerun := none, preempt := x.preempt || decide (x.st = .save) }
  if x.closed then s else s.restoreWindows m

/-- A context and its espalier go back to their last good checkpoints. -/
def State.restart (s : State) (c : Nat) : State := (s.espCtxs c).foldl State.restartOne s

/-- What stands in a dead position's bank waits for another place. -/
def State.emptyBank (s : State) (c : Nat) : State :=
  match (s.ctx c).bank with
  | none => s
  | some (.start t a) =>
    let x : Ctx := { st := .run, task := t, a := a, cap := a, regionPc := a.pc }
    (s.addSaved (coreOf c) x false).modCtx c fun y => { y with bank := none }
  | some (.saved k _) =>
    let clear (y : Ctx) : Ctx := match y.bank with
      | some (.saved j _) => if j = k then { y with bank := none } else y
      | _ => y
    { s with
      ctxs := Tab.mapVals {} s.ctxs clear
      saved := s.saved.map fun v => if v.id = k then { v with live := v.members.all Ctx.busy } else v }

/-- What is left of a task that a dead position held a bank of: the banks of its other members are emptied, and those that
run are pre-empted too, the cluster as a whole (R269). -/
def State.emptyBanks (s : State) (uid : Nat) : State :=
  let s := (List.range Config.contexts).foldl (fun (s : State) c =>
    match (s.ctx c).bank with
    | some (.start t _) => if t.uid = uid then s.emptyBank c else s
    | _ => s) s
  (s.holders uid).foldl (fun (s : State) m => s.modCtx m fun x => { x with preempt := true }) s

/-- With no spare left the position is dead: its contexts are saved from their last good checkpoints, and region 0
loses a core (R290). -/
def State.killCore (s : State) (k : Nat) (l : List Nat) : State :=
  let s := s.modCore k fun x => { x with dead := true }
  let uids := [2 * k, 2 * k + 1].filterMap fun c => (s.bankTask c).map (·.uid)
  let s := ([2 * k, 2 * k + 1].foldl State.emptyBank s)
  let s := (l.map fun c => (s.ctx c).task.uid).foldl State.emptyBanks (uids.foldl State.emptyBanks s)
  let save (s : State) (c : Nat) : State :=
    let t := (s.ctx c).task
    if (s.ctx c).st = .save then s
    else (s.holders t.uid).foldl State.toSave
      (s.modRegion t.region fun r => { r with preempts := r.preempts + 1 })
  let s := l.foldl save s
  let s := s.modRegion 0 fun r => { r with cores := r.cores - 1 }
  s.postAll (s.liveRegions.filter fun r => (s.regionD r).level = 1) ev.deadpos k 0

/-- F4 retires core `k`: a spare of its die takes its position, with both contexts at their last good checkpoints;
what the L1 held dirty is at its home slices. A received frame not yet begun moves with its deque where its context is in
SAVE, or would be saved (R312, R313). [DEDUCED, unsafe: log 34] -/
def State.retireCore (s : State) (k : Nat) : State :=
  let all := [2 * k, 2 * k + 1].filter fun c => (s.ctx c).busy
  let regions := all.map fun c => (s.ctx c).task.region
  let back := all.filter fun c => (s.ctx c).taken.isSome && (decide ((s.ctx c).st = .save) || (s.die (dieOfCore k)).spares = 0)
  let s := back.foldl State.giveBack s
  let l := all.filter fun c => !back.contains c
  let s := l.foldl State.restart ((s.unhold (2 * k)).unhold (2 * k + 1))
  let s := (s.l1WriteBack k true).l1MergeAll k
  let s := s.modCore k fun x => { x with l1 := [], plruF := [], plruB := [], tlb := [] }
  let s := (s.spillOut (2 * k)).spillOut (2 * k + 1)
  let s := { s with retirements := s.retirements + 1 }
  let s := regions.foldl (fun (s : State) r =>
    s.postAll (s.domainPeers r) ev.domainNotice r 0 |>.post r ev.retire k 0) s
  let d := dieOfCore k
  (if 0 < (s.die d).spares then
    (s.modDie d fun x => { x with spares := x.spares - 1 }).modCore k fun x => { x with phys := 3 - (s.die d).spares }
  else s.killCore k l).recount

/-- The die reports core `k` for retirement: it stops, and F4 is told (R289, R441). [DEDUCED, unsafe: log 34] -/
def State.reportRetire (s : State) (k : Nat) : State :=
  if (s.core k).stopped || (s.core k).dead then s
  else (s.modCore k fun x => { x with stopped := true }).modNal 4 fun n => n.send (.retire k)

/-- F4 retires a core, one that stopped on its report among them; while F4 is being replaced, or the report has found no FREE
slot, the core stays stopped (R441, R465). [DEDUCED, unsafe: log 34] -/
def execCoreRetirement (core : Nat) (s : State) : Outcome :=
  .next (if core ≥ Config.cores ∨ (s.core core).dead then s
    else if s.fnAway 4 || (s.nal 4).waits.contains (.retire core) then s.reportRetire core
    else ((s.modCore core fun x => { x with stopped := false }).retireCore core).modNal 4 fun n => n.retire (.retire core))

/-! ## Data errors and reruns (R286 to R288) -/

/-- The other context of a core stops. -/
def Ctx.hold (x : Ctx) : Ctx :=
  match x.st with
  | .run => { x with st := .held false }
  | .trap => { x with st := .held true }
  | _ => x

/-- A data error in the open region of context `c`: the whole espalier rolls back and its region is run again, twice;
in a rerun, the core is retired. A confirmed region has passed its checks, and nothing of it is run again (R283).
[DESIGN CHOICE, unsafe: log 36] -/
def State.dataError (s : State) (c : Nat) : State :=
  let x := s.ctx c
  let s := { s with dataErrors := s.dataErrors + 1 }
  if (s.espCtxs c).any fun m => (s.core (coreOf m)).stopped then s
  else if x.rerun.isSome then s.reportRetire (coreOf c)
  else if (x.st ≠ .run ∧ x.st ≠ .trap) ∨ (s.espCtxs c).all fun m => (s.ctx m).closed then s
  else (s.espCtxs c).foldl (fun (s : State) m =>
    (s.modCtx m fun x => { x.rollback with rerun := some ⟨1, 0, 0⟩ }).modCtx (partner m) Ctx.hold) s

/-- An error that the checks of a context's core detect: a corrected one is counted; a clean L1 line is invalidated, to
be fetched again; any other is a data error (R286, R332). [DESIGN CHOICE, unsafe: log 36] -/
def execDataError (e : CtxError) (s : State) : Outcome :=
  let c := e.ctx
  match e.error with
  | .corrected => .next { s with eccCount := s.eccCount + 1 }
  | .operation => .next (s.dataError c)
  | .l1Line n => match s.l1Find (coreOf c) n with
    | none => .next s
    | some l => .next (if l.st = .c then s.l1Drop (coreOf c) n else s.dataError c)

/-- Whether the rerun of context `c` stands at its closing checkpoint, with every member of its espalier there. -/
def State.atClose (s : State) (c : Nat) : Bool :=
  let l := s.espCtxs c
  let lead := l.headD c
  decide ((s.prepare lead).2 = .closes) && l.all fun m => m = lead || (s.ctx m).feed = []

/-- Every member of an espalier is scheduled until its bundles of the region have issued.
[DEDUCED, unsafe: log 37] -/
def State.letDrain (s : State) (l : List Nat) : State :=
  l.foldl (fun (s : State) m => s.modCtx m fun x => { x with step := Nat.max x.step x.task.skew }) s

/-- The Y instruction of a checkpoint bundle acts on the flags, as in step 4 of R283. -/
def State.flagStep (t : State) (p : Nat × Instr) : State :=
  match p.2 with
  | .fwait f n | .fwaitAcq f n => t.subFlag f.toNat (n.toNat + 1)
  | .fbar f n => t.subFlag f.toNat (n.toNat + 1)
  | .finc f n => t.addFlag f.toNat (n.toNat + 1)
  | .fclr f => t.modArch t.cur.ctx fun a => a.setFlag f.toNat 0
  | _ => t

/-- Context `m` as the closing checkpoint captures it (R288): the lead's bundle with its issue cycle begun, after the Y
instruction's step. [DEDUCED, unsafe: log 35] -/
def State.closing (s : State) (m : Nat) : Ctx :=
  let t := (s.prepare ((s.espCtxs m).headD m)).1
  let t := (t.modCur fun k => { k with ctx := m }).openCycle m
  ((if t.cur.ckpt then t.live else []).foldl State.flagStep t).ctx m

/-- The verdict on a rerun at its closing checkpoint (R287). After the first, the count and signature of each member
are kept and the region is run once more; after the second, they agree, and the checkpoint may issue, or the core that
differs is retired. [DEDUCED, unsafe: log 35; DEDUCED, unsafe: log 37] -/
def execRerunVerdict (c : Nat) (s : State) : Outcome :=
  let l := s.espCtxs c
  if ((s.ctx c).rerun.all fun r => r.phase = 3) || l.any fun m => (s.core (coreOf m)).stopped then .next s
  else if !s.atClose c then .next (s.letDrain l)
  else if l.any fun m => (s.ctx m).rerun.any fun r => r.phase = 1 then
    .next (l.foldl (fun (t : State) m => t.modCtx m fun x =>
      { x.rollback with rerun := some ⟨2, x.regionCount, (s.closing m).signature⟩ }) s)
  else
    match l.find? fun m => !(s.ctx m).rerun.any fun r =>
        r.count = (s.ctx m).regionCount && r.sig = (s.closing m).signature with
    | some m => .next (s.reportRetire (coreOf m))
    | none =>
      let s := { s with rerunsAgreed := s.rerunsAgreed + 1 }
      .next (l.foldl (fun (s : State) m => s.modCtx m fun x =>
        { x with rerun := x.rerun.map fun r => { r with phase := 3 }, step := 0 }) s)

end Sys2Proof.Machine
end

