-- ==== Sys2Proof/Machine/Launch.lean ====
section
/-! DEFINITION. Machine/Launch.lean: from a record to a running task: the budget test, condition words, cluster
reservation, placing and resumption (spec/10_tasks_and_deques.md R295 to R297, R300, R323 to R325, spec/01 R31,
spec/09 R254, R255, R260 to R262, R273). -/

namespace Sys2Proof.Machine

/-! ## Queues and records -/

def RawRange.ent (x : RawRange) : RangeEnt := ⟨x.1, x.2⟩

/-- The ranges of a launch's frame. -/
def Launch.ents (l : Launch) : List RangeEnt := l.table.map RawRange.ent

/-- A record of queue `q` finishes dispatch (R299); the header copies follow once per 16 dispatches (R451). -/
def State.finishRecord (s : State) (q : Nat) : State :=
  let s := s.modQueue q fun x =>
    { x with
      filled := x.filled.filter fun t => t ≠ x.dispt.toNat
      dispt := x.dispt + 1
      st := if x.st = .held then .active else x.st }
  let s := { s with rrQueue := (q + 1) % 4096 }
  if (s.queue q).dispt.toNat % 16 = 0 then s.ringHeader q else s

def Walk.gs (w : BitVec 1024) (k : Nat) : Nat := (w.extractLsb' (64 + 32 * k) 32).toNat
def Walk.ts (w : BitVec 1024) (k : Nat) : Nat := (w.extractLsb' (192 + 32 * k) 32).toNat
def Walk.sreg (w : BitVec 1024) : Nat := (w.extractLsb' 160 3).toNat
/-- Steps of an operator block. -/
def Walk.steps (w : BitVec 1024) : Nat := Walk.gs w 0 * Walk.gs w 1 * Walk.gs w 2

/-- A walk whose last step has been written to a bank, or retired, finishes its record and lets its lease go.
[DEDUCED, unsafe: log 45] -/
def State.walkDone (s : State) (q : Nat) : State :=
  match s.walks.find? fun w => w.q = q with
  | none => s
  | some w =>
    if w.next < Walk.steps w.topb ∨ s.launches.any (fun l => l.q = some q) then s
    else (({ s with walks := s.walks.filter fun x => x.q ≠ q } : State).dropLease w.lease).finishRecord q

/-! ## The launches in progress -/

def Launch.is (l : Launch) (die ticket : Nat) : Bool := l.die = die && l.ticket = ticket

def State.launchOf (s : State) (die ticket : Nat) : Option Launch := s.launches.find? fun l => l.is die ticket

def State.modLaunch (s : State) (die ticket : Nat) (f : Launch → Launch) : State :=
  { s with launches := s.launches.map fun l => if l.is die ticket then f l else l }

/-- A launch is over: its record finishes, or its walk goes on. -/
def State.launchDone (s : State) (l : Launch) : State :=
  let s := { s with launches := s.launches.filter fun x => !x.is l.die l.ticket }
  match l.q with
  | none => s
  | some q => if l.coords.isSome then s.walkDone q else s.finishRecord q

/-- A launch is retired unlaunched, with the decrements of EXIT (R31, R296, R389). [DEDUCED, unsafe: log 45] -/
def State.retireLaunch (s : State) (l : Launch) (keepUnder : Bool) : State :=
  ((s.retireUnlaunched l.region (Frame.parent l.frameBits) l.cnode keepUnder).dropLease l.lease).launchDone l

def State.badLaunch (s : State) (l : Launch) (detail : Nat) : State :=
  (s.badFrame l.region detail l.ticket l.frame.toNat).retireLaunch l false

/-! ## The budget test (R31) -/

/-- The rectangles of w × h cores on a die in logical-id order, each in member order. -/
def rects (d w h : Nat) : List (List Nat) :=
  (List.range 24).filterMap fun o =>
    if o % 6 + w ≤ 6 ∧ o / 6 + h ≤ 4 then
      some ((List.range (w * h)).map fun m => coreAt d (o % 6 + m % w) (o / 6 + m / w))
    else none

/-- Dies that a region may use. -/
def State.diesOf (s : State) (region : Nat) : List Nat := (List.range 4).filter fun d => bitN (s.effDiemask region) d

/-- Whether a die has a rectangle without a dead position (R290). -/
def State.hasRect (s : State) (d w h : Nat) : Bool := (rects d w h).any fun l => l.all fun k => !(s.core k).dead

/-- The Table 1.3 bit of the budget that a task of the given shape can never meet. A CORES of 0 suspends launch.
[DEDUCED, unsafe: log 39] -/
def State.unmet (s : State) (region w h : Nat) (esp det : Bool) (sizes : List Nat) : Option Nat :=
  let cl := s.effCtxcl region
  if s.effCores region ≠ 0 ∧ s.effCores region < w * h then some 32
  else if s.diesOf region = [] then some 39
  else if !(s.diesOf region).any fun d => s.hasRect d w h then some 32
  else if cl % 4 = 0 ∨ ((esp ∨ det) ∧ cl % 2 = 0) then some 43
  else if 1024 * s.effSpad region 0 < nth0 sizes 0 then some 64
  else if 1024 * s.effSpad region 1 < nth0 sizes 1 then some 75
  else if 1024 * s.effSpad region 2 < nth0 sizes 2 then some 86
  else none

/-- BUDGET-UNSAT (R31). -/
def State.unsatLaunch (s : State) (l : Launch) (bit : Nat) : State :=
  (s.post l.region ev.budgetUnsat bit l.ticket).retireLaunch l true

def State.unmetBy (s : State) (region : Nat) (f : BitVec 2048) : Option Nat :=
  s.unmet region (Frame.w f) (Frame.h f) (decide (Frame.ew f ≠ 0)) (s.effDet region) (Frame.sizes f)

/-! ## Choosing a die and a class (R295, R254) -/

/-- Idle contexts of a class that a region allows. [DEDUCED, unsafe: log 115] -/
def State.idleOn (s : State) (region d : Nat) : Nat :=
  let cl := s.effCtxcl region
  let det := s.effDet region
  ((List.range 48).filter fun i =>
    let c := 48 * d + i
    (if isBg c then bitN cl 1 && !det else bitN cl 0) && !(s.core (coreOf c)).dead && !(s.ctx c).live &&
      (s.ctx c).bank.isNone).length

/-- The die with the most idle contexts of an allowed class, the lowest on a tie, among those that can hold the cluster.
[DEDUCED, unsafe: log 115] -/
def State.chooseDie (s : State) (region w h : Nat) : Nat :=
  let l := (s.diesOf region).filter fun d => s.hasRect d w h
  (l.foldl (fun (b : Option (Nat × Nat)) d =>
    let n := s.idleOn region d
    match b with
    | some x => if x.2 < n then some (d, n) else b
    | none => some (d, n)) none).elim 0 (·.1)

/-- The next dispatch ticket of a die. -/
def State.takeTicket (s : State) (d : Nat) : State × Nat :=
  (s.modDie d fun x => { x with ticket := x.ticket + 1 }, (s.die d).ticket.toNat)

/-- Whether a region allows a task in a class: CTXCL's bit, and the foreground only under DET and in an espalier (R254,
R260). -/
def State.classAllowed (s : State) (region : Nat) (esp det : Bool) (cls : CtxClass) : Bool :=
  match cls with
  | .fg => bitN (s.effCtxcl region) 0
  | .bg => bitN (s.effCtxcl region) 1 && !det && !esp

/-- Whether a launch may be placed in a class. -/
def State.launchAllows (s : State) (l : Launch) (cls : CtxClass) : Bool :=
  s.classAllowed l.region (decide (Frame.ew l.frameBits ≠ 0)) (s.effDet l.region) cls

/-- The class that a launch asks for, and whether the core may give the other one (R261); none while its region allows
neither. -/
def State.classOf (s : State) (l : Launch) : Option (CtxClass × Bool) :=
  if s.launchAllows l .fg then some (.fg, decide (Frame.members l.frameBits = 1) && s.launchAllows l .bg)
  else if s.launchAllows l .bg then some (.bg, false)
  else none

def ctxIn (k : Nat) (cls : CtxClass) : Nat := match cls with | .fg => 2 * k | .bg => 2 * k + 1

/-! ## Reservation (R261, R262) -/

/-- Ticket `a` is older than ticket `b`. -/
def older (a b : Nat) : Bool :=
  let d := (b + 65536 - a % 65536) % 65536
  1 ≤ d && d < 2 ^ 15

def State.reservation (s : State) (die ticket : Nat) : Option Reservation :=
  s.reservations.find? fun r => r.die = die && r.ticket = ticket

def State.modReservation (s : State) (die ticket : Nat) (f : Reservation → Reservation) : State :=
  { s with reservations := s.reservations.map fun r => if r.die = die ∧ r.ticket = ticket then f r else r }

def State.tell (s : State) (l : List Instr) : State := { s with agenda := s.agenda ++ l }

/-- The class that core `k` would grant a launch. -/
def State.classOn (s : State) (l : Launch) (k : Nat) : Option CtxClass :=
  (s.classOf l).map fun p => if p.2 && (s.ctx (2 * k)).bank.isSome then .bg else p.1

/-- Whether windows of the given sizes find their place on core `k` (R30). -/
def State.windowsFit (s : State) (k region : Nat) (sizes : List Nat) : Bool :=
  (s.placeWindows k sizes).isSome && s.spadRoom k region sizes

/-- Whether a core may take a member of a launch: its bank of the class that it would grant is empty. -/
def State.coreFits (s : State) (l : Launch) (idle : Bool) (k : Nat) : Bool :=
  !(s.core k).dead && (s.classOn l k).any fun cls =>
    let x := s.ctx (ctxIn k cls)
    x.bank.isNone && (!idle || !x.live) && s.windowsFit k l.region (Frame.sizes l.frameBits)

/-- The rectangle of a launch: the first whose contexts are all idle, else the first whose banks are all empty.
[DESIGN CHOICE, unsafe: log 38] -/
def State.chooseRect (s : State) (l : Launch) : Option (List Nat) :=
  let all := (rects l.die (Frame.w l.frameBits) (Frame.h l.frameBits)).filter fun ks => s.coresRoom l.region ks
  match all.find? fun ks => ks.all (s.coreFits l true) with
  | some ks => some ks
  | none => all.find? fun ks => ks.all (s.coreFits l false)

/-- How many tickets ago a die gave a ticket. -/
def State.ticketAge (s : State) (d ticket : Nat) : Nat := ((s.die d).ticket.toNat + 2 ^ 16 - 1 - ticket % 2 ^ 16) % 2 ^ 16

/-- The launch unit begins a reservation, or begins one again, when a rectangle is free (R261, R290); it never holds
two whose tickets differ by 2^15 or more. -/
def State.beginReservation (s : State) (l : Launch) : State :=
  let age := s.ticketAge l.die
  let clash := s.reservations.any fun r =>
    r.die = l.die && (age r.ticket + 2 ^ 15 ≤ age l.ticket || age l.ticket + 2 ^ 15 ≤ age r.ticket)
  match s.classOf l, clash, s.chooseRect l with
  | some (cls, flexible), false, some ks =>
    let n := (s.reservation l.die l.ticket).elim 0 (·.attempt)
    let r : Reservation := ⟨l.die, l.ticket, cls, flexible, ks, [], [], n, false⟩
    ({ s with reservations := s.reservations.filter (fun x => !(x.die = l.die && x.ticket = l.ticket)) ++ [r] } : State).tell
      (ks.map fun k => .reserve k l.ticket cls flexible)
  | _, _, _ => s

/-- A reservation that is refused, lost or meets a failed COMMIT releases what it holds, and waits to retry.
[DEDUCED, unsafe: log 41] -/
def State.failReservation (s : State) (die ticket : Nat) : State :=
  match s.reservation die ticket with
  | none => s
  | some r =>
    if r.waiting then s
    else (s.modReservation die ticket fun r =>
      { r with granted := [], committed := [], attempt := Nat.min 16 (r.attempt + 1), waiting := true }).tell
        (r.coresWanted.map fun k => .release k ticket)

/-- A core grants a request; the last grant sends COMMIT to every core. A request that it holds for another ticket stays. -/
def State.grantReserve (s : State) (k ticket : Nat) (cls : CtxClass) : State :=
  let d := dieOfCore k
  let s := s.modCore k fun x => { x with rlatch := .held ticket, rheld := x.rheld.filter fun h => h.1 ≠ ticket }
  let s := s.modReservation d ticket fun r => { r with granted := r.granted ++ [(k, cls)] }
  match s.reservation d ticket with
  | some r => if r.granted.length = r.coresWanted.length then s.tell (r.coresWanted.map fun k => .commit k ticket) else s
  | none => s

/-- A request waits at its core for the bank; an older one replaces it, and the one replaced is refused.
[DEDUCED, unsafe: log 41] -/
def State.holdReserve (s : State) (k ticket : Nat) (cls : CtxClass) : State :=
  match (s.core k).rheld with
  | none => s.modCore k fun x => { x with rheld := some (ticket, cls) }
  | some (t, _) =>
    if t = ticket then s
    else if older ticket t then
      (s.modCore k fun x => { x with rheld := some (ticket, cls) }).failReservation (dieOfCore k) t
    else s.failReservation (dieOfCore k) ticket

/-- A request waits at its core until a COMMITTED latch empties (R262). -/
def State.awaitLatch (s : State) (k ticket : Nat) : State :=
  s.modCore k fun x => { x with rwait := x.rwait.filter (· ≠ ticket) ++ [ticket] }

/-- RESERVE reaches a core, or one that waited there is looked at again; a dead position refuses it (R290).
[DEDUCED, unsafe: log 41; DEDUCED, unsafe: log 113] -/
def execReserve (core ticket : Nat) (cls : CtxClass) (flexible : Bool) (s : State) : Outcome :=
  let bankFull (c : CtxClass) : Bool := (s.ctx (ctxIn core c)).bank.isSome
  let other := bankFull cls && flexible && cls = .fg && !bankFull .bg
  let cls' := if other then .bg else cls
  let d := dieOfCore core
  .next (match s.reservation d ticket with
  | none => s
  | some r =>
    if r.waiting || !r.coresWanted.contains core || r.granted.any (fun p => p.1 = core) then s
    else if (s.core core).dead then s.failReservation d ticket
    else
      let s := s.modCore core fun x => { x with rwait := x.rwait.filter (· ≠ ticket) }
      match (s.core core).rlatch with
      | .empty => if bankFull cls' then s.holdReserve core ticket cls else s.grantReserve core ticket cls'
      | .held t =>
        if older ticket t then (s.grantReserve core ticket cls').tell [.lost d t] else s.failReservation d ticket
      | .committed _ => s.awaitLatch core ticket)

/-- A core took a latch from this reservation. -/
def execLost (die ticket : Nat) (s : State) : Outcome := .next (s.failReservation die ticket)

/-- RELEASE empties a latch in either state. -/
def execRelease (core ticket : Nat) (s : State) : Outcome :=
  .next (s.modCore core fun x =>
    { x with
      rlatch := match x.rlatch with
        | .held t => if t = ticket then .empty else .held t
        | .committed t => if t = ticket then .empty else .committed t
        | .empty => .empty
      rheld := x.rheld.filter fun h => h.1 ≠ ticket
      rwait := x.rwait.filter (· ≠ ticket) })

/-- A launch whose die has lost its last rectangle for it goes to another die, with a ticket of that die; one that can no
longer be placed at all is treated under R31 (R290). [DESIGN CHOICE, unsafe: log 38] -/
def State.relocate (s : State) (l : Launch) : State :=
  match s.unmetBy l.region l.frameBits with
  | some bit => s.unsatLaunch l bit
  | none =>
    let (s, t) := s.takeTicket (s.chooseDie l.region (Frame.w l.frameBits) (Frame.h l.frameBits))
    let d := s.chooseDie l.region (Frame.w l.frameBits) (Frame.h l.frameBits)
    { s with
      reservations := s.reservations.filter fun r => !(r.die = l.die && r.ticket = l.ticket)
      launches := s.launches.map fun x => if x.is l.die l.ticket then { x with die := d, ticket := t } else x }

/-- A launch that waits for its cluster begins a reservation, or retries one that failed. -/
def execReservationRetry (die ticket : Nat) (s : State) : Outcome :=
  .next (match s.launchOf die ticket with
  | none => s
  | some l =>
    if l.stage ≠ .reserve || (s.reservation die ticket).any (fun r => !r.waiting) then s
    else if !s.hasRect die (Frame.w l.frameBits) (Frame.h l.frameBits) ||
        decide ((s.regionD 0).cores < Frame.members l.frameBits) then s.relocate l
    else s.beginReservation l)

/-! ## Placing (R295 step 6, R255, R297, R324) -/

/-- The initial s registers of a tile step (R324). -/
def Launch.coordRegs (l : Launch) (a : Arch) : Arch :=
  match l.coords with
  | some (r, ws) => { a with s := (List.range ws.length).foldl (fun t k => Tab.set 0 t (r + k) (ws.getD k 0)) a.s }
  | none => a

/-- The task of a launch, with the ranges and tensors of its lease. -/
def State.launchTask (s : State) (l : Launch) : Task :=
  let g := (s.leases.find? fun x => x.id = l.lease)
  let t := frameTask l.frameBits l.frame.toNat s.nextTask l.ticket l.region l.lease (s.effDet l.region)
    (g.elim [] (·.ranges)) (g.elim [] (·.tensors))
  { t with cnode := l.cnode, tile := if l.coords.isSome then some l else none }

/-- The class that core `k` granted a reservation. -/
def Reservation.classAt (r : Reservation) (k : Nat) : CtxClass := ((r.granted.find? fun p => p.1 = k).map (·.2)).getD r.cls

/-- Whether the budgets still allow a reservation that every core has granted, before its first COMMIT (R25, R34). -/
def State.budgetsAllow (s : State) (l : Launch) (r : Reservation) : Bool :=
  s.coresRoom l.region r.coresWanted && bitN (s.effDiemask l.region) l.die &&
    r.coresWanted.all fun k => s.launchAllows l (r.classAt k) && s.spadRoom k l.region (Frame.sizes l.frameBits)

/-- Windows are placed on every member and every shadow bank is written; none while the windows do not fit or a bank is
full (R255). [DEDUCED, unsafe: log 42] -/
def State.placeLaunch (s : State) (l : Launch) (r : Reservation) : Option State :=
  let t := s.launchTask l
  match r.coresWanted.mapM fun k =>
      if (s.ctx (ctxIn k (r.classAt k))).bank.isSome then none else s.placeWindows k t.win with
  | none => none
  | some bases =>
    let first := r.coresWanted.headD 0
    let write (s : State) (m : Nat) : State :=
      let k := r.coresWanted.getD m 0
      let cls := r.classAt k
      let t := { t with pbase := bases.getD m [], die := l.die, ox := colOf first, oy := rowOf first, member := m }
      let a := l.coordRegs (freshArch l.frameBits l.frame.toNat t.ranges l.image m)
      ((s.clearWindows k t.win t.pbase).modCtx (ctxIn k cls) fun x => { x with bank := some (.start t a) }).modCore k fun x =>
        { x with rlatch := .empty }
    let s := (List.range r.coresWanted.length).foldl write s
    let s := { s with
      nextTask := s.nextTask + 1
      reservations := s.reservations.filter fun x => !(x.die = r.die && x.ticket = r.ticket) }
    some (s.launchDone l)

/-- COMMIT reaches a core: its latch is COMMITTED, or the reservation fails. Once every core has committed, the task is
placed; the budgets are looked at before the first COMMIT, and a dead position fails it at any time (R34, R290). -/
def execCommit (core ticket : Nat) (s : State) : Outcome :=
  let d := dieOfCore core
  .next (match s.reservation d ticket, s.launchOf d ticket with
  | some r, some l =>
    if r.waiting || r.granted.length ≠ r.coresWanted.length || !r.coresWanted.contains core then s
    else
      let latch := (s.core core).rlatch
      if (latch ≠ .held ticket ∧ latch ≠ .committed ticket) ∨ (r.coresWanted.any fun k => (s.core k).dead) ∨
          (r.committed = [] ∧ !s.budgetsAllow l r) then s.failReservation d ticket
      else
        let s := s.modCore core fun x => { x with rlatch := .committed ticket }
        let r := if r.committed.contains core then r else { r with committed := r.committed ++ [core] }
        let s := s.modReservation d ticket fun _ => r
        if r.committed.length = r.coresWanted.length then (s.placeLaunch l r).getD s else s
  | _, _ => s)

/-! ## Condition words (R295 step 4) -/

def Launch.waits (l : Launch) : List (Nat × Nat) :=
  ([0, 1].map fun k => (Frame.waitA l.frameBits k, Frame.waitV l.frameBits k)).filter fun p => p.1 ≠ 0

/-- A launch that holds its lease goes on. -/
def Launch.leased (l : Launch) (lease : Nat) : Launch :=
  { l with lease := lease, stage := if l.waits = [] then .reserve else .cond }

/-- The condition words of launch `k` are at their thresholds; one that may not be read retires it. -/
def execLaunchConditionMet (k : Nat) (s : State) : Outcome :=
  .next (match s.launches[k]? with
  | none => s
  | some l =>
    if l.stage ≠ .cond then s
    else
      let ranges := (s.leases.find? fun x => x.id = l.lease).elim [] (·.ranges)
      let asid := s.asidOf l.region
      if !l.waits.all fun p => ranges.any fun g => g.grants p.1 8 Need.read then s.badLaunch l 7
      else
        let s := l.waits.foldl (fun (s : State) p =>
          (s.vaPa asid p.1).elim s fun pa => ((s.walkReads l.region asid p.1).readHome l.region .normal pa 8).1) s
        let met (p : Nat × Nat) : Bool := match s.vaPa asid p.1 with
          | some pa => p.2 ≤ s.homeNat pa 8
          | none => false
        if l.waits.all met then s.modLaunch l.die l.ticket fun x => { x with stage := .reserve } else s)

/-! ## Resumption (R254, R271, R273) -/

/-- The cores of a saved task placed with member 0 in context `c`. -/
def savedRect (t : Task) (c : Nat) : Option (List Nat) :=
  let k := coreOf c
  if colOf k + t.w ≤ 6 ∧ rowOf k + t.h ≤ 4 then
    some ((List.range (t.w * t.h)).map fun m => coreAt (dieOfCore k) (colOf k + m % t.w) (rowOf k + m / t.w))
  else none

/-- Whether a saved task may resume with member 0 in context `c`, with its windows' bases; a window parked in place
keeps its own. [DEDUCED, unsafe: log 40] -/
def State.resumeFits (s : State) (v : Saved) (c : Nat) : Option (List (Nat × List Nat)) :=
  let t := (v.members.getD 0 {}).task
  let class1 := s.classAllowed t.region (decide (t.ew ≠ 0)) t.det (if isBg c then .bg else .fg)
  match savedRect t c with
  | none => none
  | some ks =>
    let free (k : Nat) : Bool := !(s.core k).dead && (s.core k).rlatch = .empty &&
      (s.ctx (2 * k + c % 2)).bank.isNone
    if !v.live || !class1 || c ≥ Config.contexts || (s.regionD t.region).halted || !bitN (s.effDiemask t.region) (dieOf c) ||
        !ks.all free || !s.coresRoom t.region ks then none
    else (List.range ks.length).mapM fun m =>
      let k := ks.getD m 0
      let y := (v.members.getD m {}).task
      if (v.windows.getD m none).isNone ∧ v.homes.getD m 0 = k then
        if s.spadRoom k y.region [] then some (k, y.pbase) else none
      else if s.spadRoom k y.region y.win then (s.placeWindows k y.win).map fun b => (k, b)
      else none

/-- A saved task that can no longer be placed is treated under R31 (R290); what its deque holds goes to the overflow queues,
the stolen frame that it had not begun with it. -/
def State.dropSaved (s : State) (v : Saved) (bit : Nat) : State :=
  let x := v.members.getD 0 {}
  let t := x.task
  let s := { s with saved := s.saved.filter fun w => w.id ≠ v.id }
  let s := v.members.foldl (fun (s : State) x => (x.spill ++ x.deque).foldl State.pushOverflow s) s
  if x.taken.isSome then s.recount
  else
  let s := s.post t.region ev.budgetUnsat bit t.ticket
  ((s.retireUnlaunched t.region t.parent t.cnode true).dropLease t.lease).recount

/-- The launch unit names save `k` in the banks of the contexts that it resumes in, from context `c` on; windows still
parked elsewhere are written first. [DEDUCED, unsafe: log 33; DEDUCED, unsafe: log 40] -/
def execResumption (k c : Nat) (s : State) : Outcome :=
  .next (match s.saved.find? fun v => v.id = k with
  | none => s
  | some v =>
    let t := (v.members.getD 0 {}).task
    match s.unmet t.region t.w t.h (decide (t.ew ≠ 0)) t.det t.win with
    | some bit => if v.live then s.dropSaved v bit else s
    | none =>
      match s.resumeFits v c with
      | none => s
      | some l =>
        let s := (List.range l.length).foldl (fun (s : State) m =>
          let home := v.homes.getD m 0
          if (v.windows.getD m none).isNone ∧ home ≠ (l.getD m (0, [])).1 then s.writeParked home k else s) s
        let put (v : Saved) : Saved := { v with
          live := false
          members := (List.range v.members.length).map fun m =>
            let y := v.members.getD m {}
            { y with task := { y.task with pbase := (l.getD m (0, [])).2 } } }
        let s := { s with saved := s.saved.map fun w => if w.id = k then put w else w }
        (List.range l.length).foldl (fun (s : State) m =>
          s.modCtx (2 * (l.getD m (0, [])).1 + c % 2) fun x => { x with bank := some (.saved k m) }) s)

/-! ## Stealing (R309 to R312) and overflow queues (R300, R314) -/

/-- A context with no work of its own and an empty bank. -/
def State.thief (s : State) (c : Nat) : Bool :=
  let x := s.ctx c
  c < Config.contexts && !(s.core (coreOf c)).dead && !x.live && !s.frozen c && x.bank.isNone && x.deque.isEmpty && x.spill.isEmpty

/-- Whether context `c` may take an entry of region `r` (R310). -/
def State.mayTake (s : State) (c r : Nat) : Bool :=
  s.classAllowed r false (s.effDet r) (if isBg c then .bg else .fg) && s.coresRoom r [coreOf c]

/-- Whether the frame of an entry resumes its continuation (R318). -/
def State.resumes (s : State) (e : DqEnt) : Bool :=
  (s.vaPa (s.asidOf e.region) (joinPa e.frame.toNat)).any fun pa => bitN (s.homeNat pa 8) 33

/-- A stolen entry starts; one that has to wait goes to the top of the thief's deque (R312). -/
def State.startTaken (s : State) (c : Nat) (e : DqEnt) : State :=
  let again := s.resumes e
  match s.startEntry c e with
  | (s, .waits) => s.modCtx c fun x => { x with deque := e :: x.deque }
  | (s, .started) => (s.modCtx c fun x => { x with taken := some (e, again) }).recount
  | (s, .gone) => s.recount

/-- STEAL from one deque: its oldest entry, from the spill ring first. -/
def State.stealFrom (s : State) (v thief : Nat) : Option State :=
  let x := s.ctx v
  match x.spill, x.deque with
  | e :: l, _ => if s.mayTake thief e.region then some ((s.modCtx v fun x => { x with spill := l }).startTaken thief e) else none
  | [], e :: l => if s.mayTake thief e.region then some ((s.modCtx v fun x => { x with deque := l }).startTaken thief e) else none
  | [], [] => none

/-- STEAL reaches a core: its foreground deque is asked first. [DESIGN CHOICE, unsafe: log 83] -/
def State.stealCore (s : State) (victim thief : Nat) : Option State :=
  if victim = coreOf thief ∨ (s.core victim).dead ∨ dieOfCore victim ≠ dieOf thief then none
  else match s.stealFrom (2 * victim) thief with
    | some t => some t
    | none => s.stealFrom (2 * victim + 1) thief

def execSteal (victim thief : Nat) (s : State) : Outcome :=
  .next (if s.thief thief then (s.stealCore victim thief).getD s else s)

/-- The victims of a round, in order. [DESIGN CHOICE, unsafe: log 83] -/
def victims (thief : Nat) : List Nat :=
  let k := coreOf thief
  let d := dieOfCore k
  let x := colOf k
  let y := rowOf k
  let near := (if x + 1 < 6 then [coreAt d (x + 1) y] else []) ++ (if y + 1 < 4 then [coreAt d x (y + 1)] else []) ++
    (if 0 < x then [coreAt d (x - 1) y] else []) ++ (if 0 < y then [coreAt d x (y - 1)] else [])
  near ++ ((List.range 23).map fun i => d * 24 + (k % 24 + 1 + i) % 24).filter fun v => !near.contains v

/-- The oldest entry of a region's overflow queue starts in context `c`; one whose windows do not fit stays when it was
dispatched, and goes to the thief's deque when it was stolen (R312). -/
def State.takeOverflow (s : State) (r c : Nat) (steal : Bool) : Option State :=
  match Tab.get [] s.overflow r with
  | [] => none
  | e :: l =>
    let t : State := { s with overflow := Tab.set [] s.overflow r l }
    if !s.mayTake c r || !bitN (s.effDiemask r) (dieOf c) || (s.regionD r).halted then none
    else if steal then some (t.startTaken c e)
    else match t.startEntry c e with
      | (_, .waits) => none
      | (s, _) => some s.recount

/-- A round of an IDLE context: the cores in order, then the overflow queues, until one gives a frame.
[DESIGN CHOICE, unsafe: log 83] -/
def execStealRound (thief : Nat) (s : State) : Outcome :=
  .next (if s.thief thief then
    match (victims thief).findSome? fun v => s.stealCore v thief with
    | some t => t
    | none => (s.liveRegions.findSome? fun r => s.takeOverflow r thief true).getD s
  else s)

def execOverflowQueueDispatch (region c : Nat) (s : State) : Outcome :=
  .next (if s.thief c then (s.takeOverflow region c false).getD s else s)

/-! ## Space held by parked windows (R271) -/

/-- The state as it would be with the parked windows of die `d` written out. -/
def State.withoutParked (s : State) (d : Nat) : State :=
  { s with saved := s.saved.map fun v => { v with
      windows := (v.windows.zip v.homes).map fun p => if p.1.isNone && dieOfCore p.2 = d then some [] else p.1 } }

/-- The writes that empty core `k` of parked windows. -/
def State.parkedOn (s : State) (k : Nat) : List Instr :=
  (s.saved.filter fun v => (v.windows.zip v.homes).any fun p => p.1.isNone && p.2 = k).map fun v => .parkedWindowWrite k v.id

/-- The window sizes of the entry that a context with no task would pop next. -/
def State.nextSizes (s : State) (c : Nat) : Option (Nat × List Nat) :=
  ((s.ctx c).refill.deque.getLast?).bind fun e => (s.vaPa (s.asidOf e.region) e.frame.toNat).map fun pa =>
    (e.region, Frame.sizes (BitVec.ofNat 2048 (s.homeNat pa 256)))

/-- The writes that make room on core `k` for windows of the given sizes; none where they fit already, or would not fit. -/
def State.roomOn (s : State) (k region : Nat) (sizes : List Nat) : List Instr :=
  if !s.windowsFit k region sizes && (s.withoutParked (dieOfCore k)).windowsFit k region sizes then s.parkedOn k else []

/-- The parked windows that stand in the way of a launch, or of a deque's next entry, on the cores where it lacks the
space. [DESIGN CHOICE, unsafe: log 31] -/
def State.parkedInWay (s : State) : List Instr :=
  (s.launches.filter fun l => l.stage = .reserve).flatMap (fun l =>
    if (s.chooseRect l).isSome then []
    else ((s.withoutParked l.die).chooseRect l).elim [] fun ks =>
      ks.flatMap fun k => s.roomOn k l.region (Frame.sizes l.frameBits)) ++
  (s.ctxs.map (·.1)).flatMap fun c =>
    if (s.ctx c).live then [] else (s.nextSizes c).elim [] fun p => s.roomOn (coreOf c) p.1 p.2

/-! ## Pre-emption for priority (R27, R269) -/

/-- Whether context `c` runs a task of lower effective PRIO than `p`, with none of that PRIO in its bank. -/
def State.outranked (s : State) (p c : Nat) : Bool :=
  (s.ctx c).busy && decide (s.effPrio (s.ctx c).task.region < p) &&
    (s.bankTask c).all fun t => decide (s.effPrio t.region < p)

/-- Full banks whose task outranks the task that runs. -/
def State.bankVictims (s : State) : List Nat :=
  (s.ctxs.filter fun p => p.2.busy && (s.bankTask p.1).any fun t => s.effPrio p.2.task.region < s.effPrio t.region).map (·.1)

/-- The contexts that a waiting launch would have emptied: those of the first rectangle whose full banks it outranks.
[DESIGN CHOICE, unsafe: log 38] -/
def State.launchVictims (s : State) (l : Launch) : List Nat :=
  let p := s.effPrio l.region
  let classes : List CtxClass := (s.classOf l).elim [] fun q => if q.2 then [q.1, .bg] else [q.1]
  let at1 (k : Nat) : Option Nat := (classes.map (ctxIn k)).find? fun c => (s.ctx c).bank.isSome && s.outranked p c
  let may (k : Nat) : Bool := s.coreFits l false k || (!(s.core k).dead && (at1 k).isSome)
  if l.stage ≠ .reserve || (s.reservation l.die l.ticket).any (fun r => !r.waiting) || (s.chooseRect l).isSome then []
  else match (rects l.die (Frame.w l.frameBits) (Frame.h l.frameBits)).find? fun ks =>
      s.coresRoom l.region ks && ks.all may with
    | some ks => (ks.filter fun k => !s.coreFits l false k).filterMap at1
    | none => []

/-- The contexts that a saved task would have emptied. [DESIGN CHOICE, unsafe: log 38] -/
def State.savedVictims (s : State) (v : Saved) : List Nat :=
  let t := (v.members.getD 0 {}).task
  let p := s.effPrio t.region
  let at1 (c k : Nat) : Nat := 2 * k + c % 2
  let may (c k : Nat) : Bool := !(s.core k).dead && ((s.ctx (at1 c k)).bank.isNone || s.outranked p (at1 c k))
  let ok (c : Nat) : Option (List Nat) := (savedRect t c).bind fun ks =>
    if s.classAllowed t.region (decide (t.ew ≠ 0)) t.det (if isBg c then .bg else .fg) && bitN (s.effDiemask t.region) (dieOf c) &&
        s.coresRoom t.region ks && ks.all (may c) then some (ks.map (at1 c)) else none
  if !v.live || (List.range Config.contexts).any fun c => (s.resumeFits v c).isSome then []
  else (((List.range Config.contexts).findSome? ok).getD []).filter fun c => (s.ctx c).bank.isSome

/-- The idle context in which the oldest entry of a region's overflow queue can start: one that every budget allows, and whose
core has room for the windows (R300, R314). -/
def State.overflowPlace (s : State) (r : Nat) : Option Nat :=
  (List.range Config.contexts).find? fun c => s.thief c && (s.takeOverflow r c false).isSome

/-- The context that a region's overflow queue would have emptied. [DESIGN CHOICE, unsafe: log 38] -/
def State.overflowVictims (s : State) (r : Nat) : List Nat :=
  let cs := List.range Config.contexts
  if Tab.get [] s.overflow r = [] || (s.overflowPlace r).isSome then []
  else (cs.find? fun c => (s.ctx c).bank.isNone && s.outranked (s.effPrio r) c && s.mayTake c r &&
    bitN (s.effDiemask r) (dieOf c)).toList

/-- The contexts that F2 asks for because a task of a higher effective PRIO finds no context. -/
def State.priorityVictims (s : State) : List Nat :=
  s.bankVictims ++ s.launches.flatMap s.launchVictims ++ s.saved.flatMap s.savedVictims ++
    (s.overflow.map (·.1)).flatMap s.overflowVictims

end Sys2Proof.Machine
end

