-- ==== Sys2Proof/Machine/Records.lean ====
section
/-! DEFINITION. Machine/Records.lean: operator records and lease grants (spec/15_firmware_host_trust.md R454, R455, R459,
spec/10_tasks_and_deques.md R295, R299, R323, R324, spec/13_translation_and_leases.md R388 to R390, R397). -/

namespace Sys2Proof.Machine

/-! ## Fetching a record (R299, R451, R454, R455, R457) -/

namespace Rec
def kind (r : BitVec 512) : Nat := (r.extractLsb' 0 8).toNat
/-- Bits [127:64]: the address that every kind but 0 names. -/
def addr (r : BitVec 512) : Nat := (r.extractLsb' 64 64).toNat
def word2 (r : BitVec 512) : Nat := (r.extractLsb' 128 64).toNat
def len (r : BitVec 512) : Nat := (r.extractLsb' 128 32).toNat
def dies (r : BitVec 512) : Nat := (r.extractLsb' 160 4).toNat
def vec (r : BitVec 512) : Nat := (r.extractLsb' 194 11).toNat
def node (r : BitVec 512) : Nat := (r.extractLsb' 192 64).toNat
end Rec

/-- A TASK, WALK or LEASE record of queue `q` is in dispatch. -/
def State.inDispatch (s : State) (q : Nat) : Bool :=
  s.launches.any (fun l => l.q = some q) || s.walks.any (fun w => w.q = q) || s.grantsF3.any (fun g => g.launch.q = some q)

/-- A queue whose region is halted stops (R28, Table 15.8). [DEDUCED, unsafe: log 53] -/
def State.stopQueue (s : State) (q reason : Nat) : State :=
  (s.modQueue q fun x => { x with st := .stopped, denied := decide (reason = 1) }).post (s.queue q).owner ev.qstop reason q

/-- The record of ticket DISPT, when the queue may dispatch it, or waits in it. The pending-wake bit is cleared before the ring
is read, and a record that is not filled leaves the queue EMPTY, with its header written.
[DEDUCED, unsafe: log 50] -/
def State.nextRecord (s : State) (q : Nat) : State × Option (BitVec 512) :=
  let x := s.queue q
  if !(x.live || x.st = .held) || x.st = .stopped || x.st = .fetchWait || s.inDispatch q ||
      (x.st = .empty && !s.wakes.contains q) then (s, none)
  else
    let s := if x.st = .empty then s.modQueue q fun x => { x with st := .active } else s
    if x.st ≠ .held && (s.regionD x.owner).halted then (s.stopQueue q 2, none)
    else
      let s : State := { s with wakes := s.wakes.filter (fun k => k ≠ q) }
      let s := if x.headerDue then s.ringHeader q else s
      let va := x.slotVa x.dispt.toNat
      if (s.queue q).st = .fetchWait then (s, none)
      else match s.ringPa x.owner va with
      | none => (s.ringMissing q va true, none)
      | some pa =>
        let (s, b) := (s.walkReads x.owner (s.asidOf x.owner) va).readHome x.owner .normal pa 64
        let r := BitVec.ofNat 512 (ofBytes b)
        if recordFilled r x.dispt then
          let s := if Rec.kind r = 0 then s else s.walkReads x.owner (s.asidOf x.owner) (Rec.addr r)
          (s.modQueue q fun x => { x with st := .active }, some r)
        else ((s.ringHeader q).modQueue q fun x => { x with st := if x.st = .active then .empty else x.st }, none)

/-- What the record of queue `q` does when it is of a kind. -/
def State.onRecord (s : State) (q : Nat) (is : Nat → Bool) (f : State → BitVec 512 → State) : Outcome :=
  match s.nextRecord q with
  | (t, some r) => .next (if is (Rec.kind r) then f t r else s)
  | (t, none) => .next t

/-- A record that F1 performs waits while F1 is being replaced (R465). -/
def State.throughF1 (f : State → Nat → BitVec 512 → State) (s : State) (q : Nat) (r : BitVec 512) : State :=
  if s.fnAway 1 then s.modQueue q fun x => { x with st := .held } else f s q r

/-- BADREC (R454): the record has no other effect. [DEDUCED, unsafe: log 44] -/
def State.badRecord (s : State) (q : Nat) (r : BitVec 512) : State :=
  (s.post (s.queue q).owner ev.badrec (Rec.kind r) (s.queue q).dispt.toNat).finishRecord q

/-- The record in dispatch waits. -/
def State.holdQueue (s : State) (q : Nat) : State := s.modQueue q fun x => { x with st := .held }

/-- The home address of a VA of the owner of queue `q`. -/
def State.queuePa (s : State) (q va : Nat) : Option Nat := s.vaPa (s.asidOf (s.queue q).owner) va

/-! ## Leases held by records -/

/-- The lease that a LEASE record holds against a frame. [DEDUCED, unsafe: log 47] -/
def State.heldLease (s : State) (region va : Nat) : Option Lease :=
  s.leases.find? fun g => g.record.isSome && g.region = region && g.frame.toNat = va

/-- A TASK of the frame has retired, or a LEASE drops it: what a LEASE record holds against the frame is let go (R454). -/
def State.dropHeld (s : State) (region va : Nat) : State :=
  match s.heldLease region va with
  | some g => (s.modLease g.id fun x => { x with record := none }).dropLease g.id
  | none => s

/-- F3 is asked for a lease (R388, R441). [DEDUCED, unsafe: log 47] -/
def State.askGrant (s : State) (l : Launch) (isRecord isWalk : Bool) : State :=
  ({ s with
    grantsF3 := s.grantsF3 ++ [⟨s.nextLease, l, isRecord, isWalk, [], [], none⟩]
    nextLease := s.nextLease + 1 } : State).modNal 3 fun n => n.send (.grant s.nextLease)

/-- Step 3 of R295. -/
def State.launchLease (s : State) (l : Launch) : State :=
  match s.heldLease l.region l.frame.toNat with
  | some g =>
    let s := s.modLease g.id fun x => { x with holders := x.holders + 1, record := none }
    { s with launches := s.launches ++ [l.leased g.id] }
  | none => s.askGrant l false false

/-! ## TASK and WALK (R295, R323, R324) -/

def FrameView.rawTable (v : FrameView) : List RawRange := (v.table.getD []).map fun e => (e.bits, e.desc)

/-- A launch of the frame that queue `q` names, once it is read. -/
def FrameView.launch (v : FrameView) (q : Option Nat) (d ticket region : Nat) : Launch :=
  { q := q, die := d, ticket := ticket, region := region, frame := BitVec.ofNat 64 v.addr, frameBits := v.bits
    table := v.rawTable, image := v.image.getD [], stage := .lease, lease := 0, cnode := Frame.cnode v.bits, coords := none }

/-- The die of a frame's launch, from its cluster as it stands in memory. -/
def State.dieFor (s : State) (region pa : Nat) : Nat :=
  let f := BitVec.ofNat 2048 (s.homeNat pa 256)
  s.chooseDie region (Frame.w f) (Frame.h f)

/-- A frame address that names bytes which the address space does not map (R454). [DEDUCED, unsafe: log 44] -/
def State.frameUnmapped (s : State) (q va : Nat) : Bool :=
  decide (va % 256 = 0 ∧ va < 2 ^ 56) && (s.queuePa q va).isNone

def State.taskRecord (s : State) (q : Nat) (r : BitVec 512) : State :=
  let region := (s.queue q).owner
  let va := Rec.addr r
  if s.frameUnmapped q va then s.badRecord q r
  else
    let d := ((s.queuePa q va).map (s.dieFor region)).getD (s.chooseDie region 1 1)
    let (s, t) := s.takeTicket d
    let (s, seen) := s.readFrame false d region va
    match seen with
    | .bad => ((s.frameData region t va).dropHeld region va).finishRecord q
    | .unreadable => (((s.badFrame region 1 t va).taskDone region).dropHeld region va).finishRecord q
    | .view v =>
      let l := v.launch (some q) d t region
      match s.frameDetail (s.asidOf region) none v with
      | some x => (s.dropHeld region va).badLaunch l x
      | none => match s.unmetBy region v.bits with
        | some bit => (s.dropHeld region va).unsatLaunch l bit
        | none => (s.launchLease l).holdQueue q

def execTask (q : Nat) (s : State) : Outcome := s.onRecord q (fun k => k = 1) fun s r => s.taskRecord q r

/-- The template's first broken condition, or the TOPB's (R324). [DEDUCED, unsafe: log 45] -/
def State.templateDetail (s : State) (region : Nat) (topb : BitVec 1024) (v : FrameView) : Option Nat :=
  let bad := decide (Walk.sreg topb < 1 ∨ 6 < Walk.sreg topb)
  match s.frameDetail (s.asidOf region) none v with
  | some x => some (if bad then Nat.min x 4 else x)
  | none => if bad then some 4 else none

def State.walkRecord (s : State) (q : Nat) (r : BitVec 512) : State :=
  let region := (s.queue q).owner
  let va := Rec.addr r
  match s.queuePa q va with
  | none => s.badRecord q r
  | some pa =>
    if va % 128 ≠ 0 then s.badRecord q r
    else
      let (s, b) := s.readHome region .normal pa 128
      let topb := BitVec.ofNat 1024 (ofBytes b)
      let fva := (topb.extractLsb' 0 64).toNat
      let d := ((s.queuePa q fva).map (s.dieFor region)).getD (s.chooseDie region 1 1)
      let t := (s.die d).ticket.toNat
      let (s, seen) := s.readFrame false d region fva
      match seen with
      | .bad => (s.frameData region t fva).finishRecord q
      | .unreadable => ((s.badFrame region 1 t fva).taskDone region).finishRecord q
      | .view v =>
        let step : Word := topb.extractLsb' 320 64
        let l : Launch := { v.launch (some q) d t region with cnode := if step = 0 then Frame.cnode v.bits else step }
        match s.templateDetail region topb v with
        | some x => s.badLaunch l x
        | none =>
          if Walk.steps topb = 0 then s.finishRecord q
          else
            let w : Walk := ⟨q, d, region, topb, l, 0, 0⟩
            (({ s with walks := s.walks ++ [w] } : State).askGrant l false true).holdQueue q

/-- The coordinates of step `j`, scaled (R324). -/
def Walk.coordsOf (topb : BitVec 1024) (j : Nat) : List Word :=
  let g := Walk.gs topb
  let at3 : List Nat := [j % g 0, j / g 0 % g 1, j / (g 0 * g 1)]
  (List.range 3).map fun k => BitVec.ofNat 64 (nth0 at3 k * Walk.ts topb k)

/-- The walker emits the next step. [DEDUCED, unsafe: log 45; DESIGN CHOICE, unsafe: log 46] -/
def State.walkStep (s : State) (w : Walk) : State :=
  let f := w.template.frameBits
  let d := s.chooseDie w.region (Frame.w f) (Frame.h f)
  let (s, t) := s.takeTicket d
  let l : Launch := { w.template with
    die := d, ticket := t, coords := some (Walk.sreg w.topb, Walk.coordsOf w.topb w.next) }
  let s : State := { s with walks := s.walks.map fun (x : Walk) => if x.q = w.q then { x with next := x.next + 1 } else x }
  let s := s.modLease w.lease fun x => { x with holders := x.holders + 1 }
  match s.unmetBy w.region f with
  | some bit => s.unsatLaunch { l with lease := w.lease } bit
  | none => { s with launches := s.launches ++ [l.leased w.lease] }

/-- A WALK record begins, or emits its next step once its lease is granted and no step of it waits.
[DESIGN CHOICE, unsafe: log 46] -/
def execWalk (q : Nat) (s : State) : Outcome :=
  match s.walks.find? fun w => w.q = q with
  | some w =>
    .next (if s.grantsF3.any (fun g => g.launch.q = some q) || s.launches.any (fun l => l.q = some q) ||
        Walk.steps w.topb ≤ w.next then s else s.walkStep w)
  | none => s.onRecord q (fun k => k = 2) fun s r => s.walkRecord q r

/-! ## WAIT, SIGNAL, BIND, LEASE (Table 15.7) -/

/-- The home address of the 8-aligned word that a WAIT or SIGNAL names. [DEDUCED, unsafe: log 44] -/
def State.recordWord (s : State) (q : Nat) (r : BitVec 512) : Option Nat :=
  if Rec.addr r % 8 ≠ 0 then none else s.queuePa q (Rec.addr r)

def State.waitRecord (s : State) (q : Nat) (r : BitVec 512) : State :=
  match s.recordWord q r with
  | none => s.badRecord q r
  | some pa =>
    let (s, b) := s.readHome (s.queue q).owner .normal pa 8
    if Rec.word2 r ≤ ofBytes b then s.finishRecord q else s.holdQueue q

def execWait (q : Nat) (s : State) : Outcome := s.onRecord q (fun k => k = 3) fun s r => s.waitRecord q r

def State.signalRecord (s : State) (q : Nat) (r : BitVec 512) : State :=
  match s.recordWord q r with
  | none => s.badRecord q r
  | some pa =>
    let region := (s.queue q).owner
    let s := if r.getLsbD 192 then s.homeUpdate region pa 8 fun w => (w + Rec.word2 r) % 2 ^ 64
      else s.writeHome region .normal pa (bytesOf 8 (Rec.word2 r))
    let s := if r.getLsbD 193 then s.msix region (Rec.vec r) else s
    s.finishRecord q

def execSignal (q : Nat) (s : State) : Outcome := s.onRecord q (fun k => k = 4) fun s r => s.signalRecord q r

/-- A line comes into its home slice under KEEP (R333). -/
def State.bindLine (s : State) (region line : Nat) : State :=
  let d := homeDie (line * 128)
  let s := s.sliceRead region .keep line (BitVec.allOnes 128)
  match s.l2Find d line with
  | some l =>
    let keeps := ((s.die d).l2.filter fun x => l2Set x.line = l2Set line && x.keep).length
    if l.keep || keeps ≥ 8 then s else s.l2Put d { l with keep := true }
  | none => s

def State.bindRecord (s : State) (q : Nat) (r : BitVec 512) : State :=
  let n := if Rec.len r = 0 then 0 else (Rec.addr r % 128 + Rec.len r + 127) / 128
  let vas := (List.range n).map fun i => Rec.addr r / 128 * 128 + 128 * i
  match vas.mapM (s.queuePa q) with
  | none => s.badRecord q r
  | some pas =>
    (pas.foldl (fun (s : State) pa =>
      if paKind pa = .hbm && bitN (Rec.dies r) (homeDie pa) then s.bindLine (s.queue q).owner (pa / 128) else s) s).finishRecord q

def execBind (q : Nat) (s : State) : Outcome := s.onRecord q (fun k => k = 5) fun s r => State.throughF1 State.bindRecord s q r

/-- A LEASE record: ask F3 for the frame's lease, or drop it (R388). A broken frame is reported, and nothing retires.
[DEDUCED, unsafe: log 47] -/
def State.leaseRecord (s : State) (q : Nat) (r : BitVec 512) : State :=
  let region := (s.queue q).owner
  let va := Rec.addr r
  let t := (s.queue q).dispt.toNat
  match r.getLsbD 128, s.heldLease region va with
  | true, _ => (s.dropHeld region va).finishRecord q
  | false, some _ => s.finishRecord q
  | false, none =>
    if s.frameUnmapped q va then s.badRecord q r
    else
      let d := ((s.queuePa q va).map (s.dieFor region)).getD (s.chooseDie region 1 1)
      let (s, seen) := s.readFrame false d region va
      match seen with
      | .view v => match s.frameDetail (s.asidOf region) none v with
        | some x => (s.badFrame region x t va).finishRecord q
        | none => (s.askGrant (v.launch (some q) d t region) true false).holdQueue q
      | _ => (s.badFrame region 1 t va).finishRecord q

def execLease (q : Nat) (s : State) : Outcome := s.onRecord q (fun k => k = 6) fun s r => State.throughF1 State.leaseRecord s q r

/-- An empty record has no effect; one of an unknown kind posts BADREC; both finish at once (R299, R454). -/
def execEmptyRecord (q : Nat) (s : State) : Outcome :=
  s.onRecord q (fun k => k = 0 || 7 < k) fun s r => if Rec.kind r = 0 then s.finishRecord q else s.badRecord q r

/-! ## The grant (R388 to R390) -/

/-- How the check of a grant's pages ends. -/
inductive GStep where
  | ok | waits
  | refuse (range reason va : Nat)
  deriving DecidableEq, Repr

def pinKey (asid va : Nat) : Nat := asid * 2 ^ 57 + va

def State.pinCount (s : State) (asid va : Nat) : Nat := Tab.get 0 s.pins (pinKey asid va)

def State.migrating (s : State) (asid va : Nat) : Bool := s.migrations.any fun m => m.asid = asid && m.va = va

def State.modGrant (s : State) (id : Nat) (f : Grant → Grant) : State :=
  { s with grantsF3 := s.grantsF3.map fun g => if g.id = id then f g else g }

/-- A page that a grant needs is asked for once (Table 13.6). -/
def State.askPage (s : State) (g : Grant) (range asid va : Nat) : State :=
  if s.pageReqs.any fun p => p.grant = some g.id then s
  else
    let s := { s with pageReqs := s.pageReqs ++ [(⟨asid, va, some g.id, none⟩ : PageReq)] }
    s.post g.launch.region ev.pagereq range g.launch.ticket (va + asid * 2 ^ 64)

/-- One page of a range: its right, its type and its pin. What has passed is not looked at again, and a page that the grant
has pinned for another range of it cannot move. [DEDUCED, unsafe: log 48] -/
def State.grantPage (s : State) (id range asid va plog : Nat) (need : Need) (tensor : Bool) : State × GStep :=
  match s.grantsF3.find? fun g => g.id = id with
  | none => (s, .waits)
  | some g =>
    if g.passed.contains (range, va) then (s, .ok)
    else
      let mine := g.pages.contains (asid, va, plog)
      let pass (s : State) : State := s.modGrant id fun g => { g with passed := g.passed ++ [(range, va)] }
      let (s, w) := s.translate g.launch.die none g.launch.region asid va need.onLeaf
      match w with
      | .unmapped => (s, .refuse range 1 va)
      | .absent mig =>
        if mig || s.migrating asid va then (s, .waits)
        else if g.denied = some va then (s, .refuse range 2 va)
        else (s.askPage g range asid va, .waits)
      | .leaf x =>
        if !mine && s.migrating asid va then (s, .waits)
        else if paKind (pteFrame x) = .unmapped then (s, .refuse range 1 va)
        else if !need.onLeaf x then (s, .refuse range 3 va)
        else if tensor && decide ((s.seg asid va).mtype ≠ 0) then (s, .refuse range 4 va)
        else if mine then (pass s, .ok)
        else if s.pinCount asid va ≥ 65535 then (s, .waits)
        else
          let s := { s with pins := Tab.set 0 s.pins (pinKey asid va) (s.pinCount asid va + 1) }
          (pass (s.modGrant id fun g => { g with pages := g.pages ++ [(asid, va, plog)] }), .ok)

/-- `n` pages from `va` on, in turn. [DEDUCED, unsafe: log 48] -/
def State.grantPages (s : State) (id range asid plog : Nat) (need : Need) (tensor : Bool) : Nat → Nat → State × GStep
  | _, 0 => (s, .ok)
  | va, n + 1 =>
    match s.grantPage id range asid va plog need tensor with
    | (s, .ok) => s.grantPages id range asid plog need tensor (va + 2 ^ plog) n
    | r => r

/-- The bytes that an entry covers: those of the range, or of the tensor's data. -/
def RangeEnt.span (e : RangeEnt) : Nat × Nat :=
  if e.kind = 1 then (e.base, e.len) else match e.desc with
    | some d => (Desc.dbase d, Desc.bytes d)
    | none => (e.base, 0)

/-- A stretch of VA that a grant pins: range number, base, length, rights, whether it is a tensor's. -/
structure Stretch where
  range : Nat
  base : Nat
  len : Nat
  need : Need
  tensor : Bool
  deriving DecidableEq, Repr

/-- The ranges of a frame in order, then its save area, as range 0 (R272). [DEDUCED, unsafe: log 48] -/
def Launch.stretches (l : Launch) : List Stretch :=
  let f := l.frameBits
  let save := (Frame.savearea f).toNat
  ((numbered l.ents).map fun p => ⟨p.1, p.2.span.1, p.2.span.2, ⟨p.2.r, p.2.w, p.2.x⟩, decide (p.2.kind = 2)⟩) ++
    (if save = 0 then [] else [⟨0, save, Frame.saveSize f * Frame.members f, Need.write, false⟩])

def State.grantStretches (s : State) (id asid : Nat) : List Stretch → State × GStep
  | [] => (s, .ok)
  | x :: l =>
    let g := s.seg asid x.base
    if x.len = 0 then s.grantStretches id asid l
    else if !g.valid || g.plog = 0 then (s, .refuse x.range 1 x.base)
    else
      let first := x.base / 2 ^ g.plog
      let n := (x.base + x.len - 1) / 2 ^ g.plog - first + 1
      match s.grantPages id x.range asid g.plog x.need x.tensor (first * 2 ^ g.plog) n with
      | (s, .ok) => s.grantStretches id asid l
      | r => r

/-- A malformed entry, or two tensors of equal TID (R388). -/
def State.grantMalformed (s : State) (asid : Nat) (l : List RangeEnt) : Bool :=
  let tids := l.filterMap fun e => if e.kind = 2 then e.desc.map Desc.tid else none
  !l.all (s.rangeOk asid) || decide (¬ tids.Nodup)

/-- Entries that the tile tables of a lease take. -/
def tileNeed (l : List RangeEnt) : Nat := (l.map fun e => if e.kind = 2 then (e.desc.elim 0 Desc.tiles) else 0).sum

def tilePool : Nat := 2 ^ 24

/-- The tile table of a tensor range (R396). -/
def State.buildTensor (s : State) (asid idx : Nat) (e : RangeEnt) (d : BitVec 1024) : Tensor :=
  { idx := idx, desc := e.base, tid := Desc.tid d, ndim := Desc.ndim d, elog := Desc.elog d, layout := Desc.layout d
    dbase := Desc.dbase d
    extent := (List.range 6).map (Desc.extent d)
    tlog := (List.range 6).map (Desc.tlog d)
    tiles := (List.range (Desc.tiles d)).map fun n => ((s.vaPa asid (Desc.dbase d + n * 2 ^ Desc.tbLog d)).getD 0) / 128
    r := e.r, w := e.w }

def State.buildTensors (s : State) (asid : Nat) (l : List RangeEnt) : List Tensor :=
  (numbered l).filterMap fun p => if p.2.kind = 2 then p.2.desc.map (s.buildTensor asid p.1 p.2) else none

/-- Whether LEASEQ of the region and of its ancestors, and the module, have room for one lease more (R30, Table 13.7).
[DEDUCED, unsafe: log 48] -/
def State.leaseRoom (s : State) (region : Nat) : Bool :=
  decide (s.leases.length < 16384) &&
    (s.lineage 8 region).all fun a => decide ((s.leases.filter fun l => s.within a l.region).length < s.effLeaseq a)

def State.unpin (s : State) (pages : List (Nat × Nat × Nat)) : State :=
  { s with pins := pages.foldl (fun t p =>
      let key := pinKey p.1 p.2.1
      Tab.set 0 t key (Tab.get 0 t key - 1)) s.pins }

/-- A grant that ends without a lease gives its pins back. [DEDUCED, unsafe: log 48] -/
def State.endGrant (s : State) (g : Grant) : State :=
  let pages := ((s.grantsF3.find? fun x => x.id = g.id).elim [] (·.pages))
  (({ s with
    grantsF3 := s.grantsF3.filter fun x => x.id ≠ g.id
    pageReqs := s.pageReqs.filter fun p => p.grant ≠ some g.id } : State).unpin pages).modNal 3 fun n =>
      n.retire (.grant g.id)

/-- What waits for a grant retires, or its record finishes (R389). -/
def State.dropGrant (s : State) (g : Grant) : State :=
  let s := s.endGrant g
  let l := g.launch
  if g.isRecord then match l.q with | some q => s.finishRecord q | none => s
  else
    let s := if g.isWalk then { s with walks := s.walks.filter fun w => l.q ≠ some w.q } else s
    s.retireLaunch l false

/-- The lease is granted (R388). -/
def State.makeLease (s : State) (g : Grant) : State :=
  let l := g.launch
  let asid := s.asidOf l.region
  let pages := ((s.grantsF3.find? fun x => x.id = g.id).elim [] (·.pages))
  let lease : Lease :=
    { id := g.id, region := l.region, ticket := l.ticket, frame := l.frame, ranges := vaRanges l.ents
      tensors := s.buildTensors asid l.ents, pages := pages, holders := if g.isRecord then 0 else 1
      record := if g.isRecord then l.q else none }
  let s := ({ s with leases := s.leases ++ [lease], grantsF3 := s.grantsF3.filter fun x => x.id ≠ g.id } : State).modNal 3
    fun n => n.retire (.grant g.id)
  let s : State :=
    if g.isRecord then match l.q with | some q => s.finishRecord q | none => s
    else if g.isWalk then { s with walks := s.walks.map fun w => if l.q = some w.q then { w with lease := g.id } else w }
    else { s with launches := s.launches ++ [l.leased g.id] }
  s.recount

/-- Grant `k` goes on as far as it can, once its message has a slot of F3's mailbox; it is TAKEN while it waits. -/
def execLeaseGrant (k : Nat) (s : State) : Outcome :=
  .next (match s.grantsF3[k]? with
  | none => s
  | some g =>
    if !(s.nal 3).has (.grant g.id) || s.fnAway 3 then s else
    let wait (s : State) : State := s.modNal 3 fun n => n.take (.grant g.id)
    let l := g.launch
    let asid := s.asidOf l.region
    let refused (s : State) (range reason va : Nat) : State :=
      (s.post l.region ev.leaserefused (range + reason * 16) l.ticket (va + asid * 2 ^ 64)).dropGrant g
    if s.grantMalformed asid l.ents then (s.badFrame l.region 8 l.ticket l.frame.toNat).dropGrant g
    else if !s.leaseRoom l.region then wait s
    else match s.grantStretches g.id asid l.stretches with
      | (s, .waits) => wait s
      | (s, .refuse range reason va) => refused s range reason va
      | (s, .ok) =>
        let need := tileNeed l.ents
        let used := ((s.leases.flatMap (·.tensors)).map fun t => t.tiles.length).sum
        if tilePool < need then
          refused s (((numbered l.ents).find? fun p => decide (p.2.kind = 2)).elim 0 (·.1)) 5 0
        else if tilePool < used + need then wait s
        else s.makeLease g)

/-! ## F3's answer to PAGEREQ (R388, R451) -/

/-- The address of the leaf of a VA, when the tables above it are there. -/
def State.leafAddr (s : State) (asid va : Nat) : Option Nat :=
  let l := (s.walkRoot asid va).1
  if l.length = (s.seg asid va).levels then l.getLast? else none

/-- The region that owns an address space, which F3 serves when it writes its tables (R338). -/
def State.spaceOwner (s : State) (asid : Nat) : Nat := (Tab.get none s.spaces asid).elim 0 (·.region)

/-- A new page table, with no entry: its frame is F3's choice, which the spec leaves open.
[DESIGN CHOICE, safe: log 51] -/
def State.newTable (s : State) (region : Nat) : State × Nat :=
  let t := Config.tablePage s.tables % 2 ^ 27 * 4096
  ((({ s with tables := s.tables + 1 } : State).forgetUnder t 4096).writeHome region .normal t (List.replicate 4096 0), t)

/-- The address of the leaf below table `t` at level `l`; F3 makes the tables that are not there (R383).
[DESIGN CHOICE, safe: log 51] -/
def State.makeTables (s : State) (region : Nat) (g : Seg) (va : Nat) : Nat → Nat → State × Nat
  | 0, t => (s, t + 8 * g.index va 0)
  | l + 1, t =>
    let a := t + 8 * g.index va (l + 1)
    let (s, b) := s.readHome region .normal a 8
    let x := BitVec.ofNat 64 (ofBytes b)
    if pteValid x g.plog (l + 1) then s.makeTables region g va l (pteFrame x)
    else
      let (s, u) := s.newTable region
      (s.writeHome region .normal a (bytesOf 8 (u + 1))).makeTables region g va l u

/-- F3 writes a leaf, with the tables above it; none where no walk can reach the VA. -/
def State.putLeaf (s : State) (asid va : Nat) (leaf : Word) : Option State :=
  let g := s.seg asid va
  if g.mapped va && 1 ≤ g.levels && va < 2 ^ 57 then
    let region := s.spaceOwner asid
    let (s, a) := s.makeTables region g va (g.levels - 1) g.root
    some (s.writeHome region .normal a (bytesOf 8 leaf.toNat))
  else none

/-- F3 maps a page that is not present, with a leaf that Table 11.3 allows in its segment. -/
def State.mapPage (s : State) (asid va : Nat) (leaf : Word) : Option State :=
  match (s.walkRoot asid va).2.2 with
  | .absent _ =>
    let g := s.seg asid va
    let s := s.walkReads (s.spaceOwner asid) asid va
    if pteValid leaf g.plog 0 && typeFits g.mtype (pteFrame leaf) then s.putLeaf asid va leaf else none
  | .leaf _ => some s
  | .unmapped => none

/-- Whether F3 has a request before it: a grant's own, or a queue's whose message has a slot (R441). -/
def State.askedOf (s : State) (p : PageReq) : Bool := p.queue.all fun q => (s.nal 3).has (.page q p.va)

/-- F3 answers request `k`: a leaf maps the page, none denies it. -/
def execPagereq (k : Nat) (leaf : Option Word) (s : State) : Outcome :=
  .next (match s.pageReqs[k]? with
  | none => s
  | some p =>
    if !s.askedOf p || s.fnAway 3 then s else
    let t := ({ s with pageReqs := dropNth s.pageReqs k } : State).answerPage p
    match leaf with
    | some x => match t.mapPage p.asid p.va x with
      | none => s
      | some t => match p.queue with
        | some q => t.modQueue q fun x => if x.st = .fetchWait then { x with st := .active } else x
        | none => t
    | none => match p.queue, p.grant with
      | some q, _ => t.stopQueue q 1
      | none, some id => t.modGrant id fun g => { g with denied := some p.va }
      | none, none => t)

/-! ## Migration (R397) -/

/-- A page is pinned by leases, or as an X page of an XALL segment (R390, R395). [DEDUCED, unsafe: log 52] -/
def State.pinned (s : State) (asid va : Nat) : Bool :=
  decide (s.pinCount asid va ≠ 0) ||
    ((s.seg asid va).xall && (match (s.walkRoot asid va).2.2 with | .leaf x => pteX x | _ => false))

/-- The leaf of a page in migration, which MIG makes not valid, as it stands at its home. -/
def State.rawLeaf (s : State) (a : Nat) : Word := BitVec.ofNat 64 (s.homeNat a 8)

/-- A migration ends: its page is no longer pending. -/
def State.endMigration (s : State) (asid page : Nat) : State :=
  { s with migrations := s.migrations.filter fun m => !(m.asid = asid && m.va = page) }

/-- The completion nodes of a page that has been copied stand in its new frame. -/
def State.moveUnder (s : State) (old new n : Nat) : State :=
  { s with under := s.under.map fun a => if old ≤ a && a < old + n then a - old + new else a }

/-- The next step of a page's migration, whose leaf stands at `a` (R397): MIG is set and the translations are removed once
nothing pins the page, it is copied once no access uses one that was removed, and the new leaf is written.
[DEDUCED, unsafe: log 52] -/
def State.migrateStep (s : State) (m : Migration) (a : Nat) : State :=
  let region := s.spaceOwner m.asid
  let g := s.seg m.asid m.va
  let x := s.rawLeaf a
  let goTo (s : State) (n : MigStep) : State :=
    { s with migrations := s.migrations.map fun y => if y.asid = m.asid ∧ y.va = m.va then { y with step := n } else y }
  match m.step with
  | .marked =>
    if s.pinned m.asid m.va then s
    else goTo ((s.writeHome region .normal a (bytesOf 8 (x ||| 0x10).toNat)).performInvl m.asid false m.va 1) .closed
  | .closed =>
    if s.invlBusy m.asid false m.va 1 then s
    else
      let (s, b) := s.readHome region .normal (pteFrame x) (2 ^ g.plog)
      let s := (s.forgetUnder m.frame (2 ^ g.plog)).writeHome region .normal m.frame b
      goTo (s.moveUnder (pteFrame x) m.frame (2 ^ g.plog)) .copied
  | .copied =>
    let leaf := (x &&& ~~~0x10).toNat - pteFrame x + m.frame
    (s.writeHome region .normal a (bytesOf 8 leaf)).endMigration m.asid m.va

/-- F3 moves a page, not of device type, to the frame at physical address `frame`: the page is marked, and then moved step by
step. [DEDUCED, unsafe: log 52] -/
def execMigration (asid va frame : Nat) (s : State) : Outcome :=
  let g := s.seg asid va
  let page := va / 2 ^ g.plog * 2 ^ g.plog
  .next (if s.fnAway 3 then s else match s.leafAddr asid page with
  | none => s
  | some a => match s.migrations.find? fun m => m.asid = asid && m.va = page with
    | some m => (s.walkReads (s.spaceOwner asid) asid page).migrateStep m a
    | none =>
      if g.mtype = 1 ∨ g.plog = 0 ∨ frame % 2 ^ g.plog ≠ 0 ∨ !typeFits g.mtype frame ∨ !pteValid (s.rawLeaf a) g.plog 0 then s
      else { s with migrations := s.migrations ++ [{ asid := asid, va := page, frame := frame }] })

/-- A marked page that was still pinned 1 ms later: F3 withdraws (R397). [DEDUCED, unsafe: log 52] -/
def execMigfail (asid va : Nat) (s : State) : Outcome :=
  let g := s.seg asid va
  let page := va / 2 ^ g.plog * 2 ^ g.plog
  .next (if s.fnAway 3 then s else if s.migrations.any (fun m => m.asid = asid && m.va = page && m.step = .marked) && s.pinned asid page then
    (s.endMigration asid page).post (s.spaceOwner asid) ev.migfail
      (Seg.sizeCode (s.rafEntry asid va)) 0 (page + asid * 2 ^ 64)
  else s)

/-! ## SUMMARY (R459) -/

/-- A measurement register (R460): its extensions in turn from 32 zero bytes. -/
def State.measOf (s : State) (k : Nat) : BitVec 256 :=
  (s.meas.getD k []).foldl (fun (m : BitVec 256) x =>
    let d := match x with
      | .image i => Config.imageDigest i
      | .digest d => d
      | .log fn cause version => Config.attest 0 [fn, cause, version]
    BitVec.ofNat 256 (ofBytes (sha3 (bytesOf 32 m.toNat ++ bytesOf 32 d.toNat)))) 0

/-- The pending records of a region's event ring, oldest first. -/
def State.pendingEvents (s : State) (r : Nat) : List (List Byte) :=
  match s.region r with
  | none => []
  | some x =>
    let base := x.evqbase
    let head := s.homeNat (base + 8) 4
    let n := (s.homeNat base 4 + 2 ^ 32 - head) % 2 ^ 32
    if base = 0 ∨ 2 ^ x.evqsize < n then []
    else (List.range n).map fun i => s.homeRead (base + 64 + 64 * ((head + i) % 2 ^ x.evqsize)) 64

/-- The code of a queue state, in the order of Table 15.8. -/
def QState.code : QState → Nat
  | .empty => 0
  | .active => 1
  | .held => 2
  | .fetchWait => 3
  | .stopped => 4

/-- The code of a slot state of live replacement, in the order of Table 15.12. -/
def GraftSt.code : GraftSt → Nat
  | .stock => 0
  | .loaded => 1
  | .handover => 2
  | .trial => 3
  | .committed => 4
  | .reverted => 5

/-- What Table 15.10 lists of function `fn`: its number, slot state, stock version, graft version and stock digest. -/
def State.summaryFunction (s : State) (fn : Nat) : List Nat :=
  let n := s.nal fn
  let (version, digest) := n.stock.getD (Config.stockVersion fn, Config.imageDigest (1 + fn))
  [fn, n.graft.code, version, n.graftVersion, digest.toNat]

def State.summaryQueue (s : State) (k : Nat) : List Nat :=
  let x := s.queue k
  [k, x.st.code, x.nextt.toNat, x.dispt.toNat, (s.wakes.contains k).toNat]

/-- What Table 15.10 lists of a region: its id, parent, VALID, domain halted, and the totals of its subtree (R32). -/
def State.summaryRegion (s : State) (r : Nat) : List Nat :=
  let x := s.regionD r
  let total (f : Region → Nat) : Nat := ((s.subtree r).map fun a => f (s.regionD a)).sum
  [r, x.parent, 1, x.halted.toNat, total (·.coresheld.toNat), total (·.leasesheld.toNat), total (·.spillheld.toNat)]

/-- What Table 15.10 lists of a lease; the VA of a lease that a window holds is the window's base. -/
def State.summaryLease (s : State) (l : Lease) : List Nat :=
  let va := ((s.windows.find? fun p => p.2.valid && p.2.lease = l.id).map fun p => p.2.base).getD l.frame.toNat
  [va, l.region, l.ticket, l.ranges.length + l.tensors.length, l.pages.length]

/-- The error counters of section 5, in the order of Table 15.10. -/
def State.summaryErrors (s : State) : List Nat :=
  [s.eccCount, s.dataErrors, s.rerunsAgreed, s.retirements] ++ s.dies.map (·.spares) ++
    [((List.range Config.cores).filter fun k => (s.core k).dead).length, s.dataFaults,
      (s.hbm.map fun p => p.2.alerts.toNat).sum]

/-- An entry of `n` bytes of section `j` (R459). [DEDUCED, safe: log 49] -/
def summaryBytes (j n : Nat) (v : List Nat) : List Byte :=
  (List.range n).map fun i => (Config.summaryEntry j v).getD i 0

/-- Sections 0 to 7 over a subtree (Table 15.10): the entry count, the bytes of one entry, and the entries' bytes.
[DEDUCED, safe: log 49] -/
def State.sections (s : State) (owner : Nat) : List (Nat × Nat × List Byte) :=
  let rs := s.subtree owner
  let queues := s.queues.filter fun p => p.2.live && rs.contains p.2.owner
  let leases := s.leases.filter fun l => rs.contains l.region
  let faults := (rs.flatMap s.pendingEvents).filter fun e => [0x10, 0x11, 0x12, 0x06].contains (e.headD 0).toNat
  [(8, 64, (List.range 8).flatMap fun fn => summaryBytes 0 64 (s.summaryFunction fn)),
   (16, 32, (List.range 16).flatMap fun k => bytesOf 32 (s.measOf k).toNat),
   (queues.length, 16, queues.flatMap fun p => summaryBytes 2 16 (s.summaryQueue p.1)),
   (rs.length, 32, rs.flatMap fun r => summaryBytes 3 32 (s.summaryRegion r)),
   (leases.length, 32, leases.flatMap fun l => summaryBytes 4 32 (s.summaryLease l)),
   (1, 256, summaryBytes 5 256 s.summaryErrors),
   (48, 32, (List.range 48).flatMap fun p => bytesOf 32 ((s.port p).block s.epoch)),
   (faults.length, 64, faults.flatten)]

/-- The header of a SUMMARY record. [DEDUCED, safe: log 49] -/
def State.summaryHeader (s : State) (owner seq len : Nat) (l : List (Nat × Nat × List Byte)) : List Byte :=
  let sizes := l.map fun p => p.1 * p.2.1
  let total := 256 + sizes.sum
  let pairs := packN 64 ((List.range 8).map fun j => 256 + (sizes.take j).sum + (l.getD j (0, 0, [])).1 * 2 ^ 32)
  bytesOf 256 (1 + (decide (len < total)).toNat * 2 ^ 16 + Nat.min total len * 2 ^ 32 + seq % 2 ^ 64 * 2 ^ 64 +
    s.modid % 2 ^ 15 * 2 ^ 128 + owner * 2 ^ 144 + pairs * 2 ^ 192)

/-- Bytes written at VAs of an address space, line by line; none when some line is not mapped. -/
def State.writeVa (s : State) (region va : Nat) (b : List Byte) : Option State :=
  let asid := s.asidOf region
  (lineParts va b.length).foldlM (fun (p : State × Nat) x =>
    (p.1.vaPa asid (va + p.2)).map fun pa => (p.1.writeHome region .normal pa ((b.drop p.2).take x.2.2), p.2 + x.2.2))
    (s, 0) |>.map (·.1)

def State.summaryRecord (s : State) (q : Nat) (r : BitVec 512) : State :=
  let owner := (s.queue q).owner
  if !(s.queue q).ctrl || decide (Rec.addr r % 4096 ≠ 0) then s.badRecord q r
  else
    let l := s.sections owner
    let seq := s.snapseq + 1
    let head := s.summaryHeader owner seq (Rec.len r) l
    let b := l.flatMap (·.2.2)
    match ({ s with snapseq := seq } : State).writeVa owner (Rec.addr r) ((head ++ b).take (Rec.len r)) with
    | none => s.badRecord q r
    | some t => (t.complete owner (Rec.node r)).finishRecord q

def execSummary (q : Nat) (s : State) : Outcome := s.onRecord q (fun k => k = 7) fun s r => State.throughF1 State.summaryRecord s q r

end Sys2Proof.Machine
end

