-- ==== Sys2Proof/Machine/Dram.lean ====
section
/-! DEFINITION. Machine/Dram.lean: the HBM controllers: admission, activations, alerts and back-off
(spec/11_caches_and_bandwidth.md R339, R344 to R348), and uncorrectable lines (R495). -/

namespace Sys2Proof.Machine

/-! ## Credit (R339) -/

def State.modHbm (s : State) (k : Nat) (f : Hbm → Hbm) : State := s.setHbm k (f (s.hbmAt k))

/-- HBMSH of a class on the die of a stack. -/
def State.classShare (s : State) (stack cos : Nat) : Nat := ((s.die (stack / 2)).cos.getD cos {}).hbmsh

/-- A full bucket, in 1/256 bytes. -/
def bucketFull : Nat := 16384 * 256

/-- What the bucket of a class lacks at time `t`: it gains HBMSH × 31.25 bytes per ns, and half of that from throttling
stage 1 on for a region that is not deterministic (Table 19.2). [DEDUCED, unsafe: log 55] -/
def State.bucketLack (s : State) (stack cos : Nat) (det : Bool) (t : Nat) : Nat :=
  let h := s.hbmAt stack
  let rate := s.classShare stack cos * (if 1 ≤ s.power.stage && !det then 4000 else 8000)
  Tab.get 0 h.credit cos - rate * (t - Tab.get 0 h.creditAt cos)

def State.lacks (s : State) (stack : Nat) (q : HbmReq) (t : Nat) : Nat := s.bucketLack stack q.cos (s.effDet q.region) t

/-- The buckets of a controller keep the levels that they have now, before a share or the rate changes (R339).
[DEDUCED, unsafe: log 55] -/
def State.settleBuckets (s : State) (stack : Nat) : State :=
  let det (i : Nat) : Bool := s.liveRegions.any fun r => s.cosOf r (stack / 2) = i && s.effDet r
  ((s.hbmAt stack).credit.map (·.1)).foldl (fun (s : State) i =>
    let n := s.bucketLack stack i (det i) s.now
    s.modHbm stack fun h => { h with credit := Tab.set 0 h.credit i n, creditAt := Tab.set 0 h.creditAt i s.now }) s

/-- Whether waiting request `k` of a controller may be admitted at time `t`: the oldest of its class, with credit. -/
def State.mayAdmit (s : State) (stack k t : Nat) : Bool :=
  let h := s.hbmAt stack
  match h.waiting[k]? with
  | none => false
  | some q =>
    let share := s.classShare stack q.cos
    !((h.waiting.take k).any fun x => x.cos = q.cos) &&
      (if share = 256 then true
      else if share = 0 then (h.waiting ++ h.admitted).all fun x => x.cos = q.cos
      else s.lacks stack q t + 256 * q.bytes ≤ bucketFull)

/-- A back-off that is over ends: its row is closed, and each request that waited adds its wait to BOWAIT (R346). -/
def Hbm.settle (h : Hbm) (bank t : Nat) : Hbm :=
  let b := Tab.get {} h.banks bank
  match b.backoff with
  | none => h
  | some e =>
    if t < e then h
    else
      let add (w : Tab Word) (q : HbmReq) : Tab Word :=
        let j := homeSlice q.pa
        Tab.set 0 w j (Tab.get 0 w j + BitVec.ofNat 64 (q.waited e t))
      { h with
        bowait := (h.admitted.filter fun q => q.bankKey = bank).foldl add h.bowait
        banks := Tab.set {} h.banks bank { b with backoff := none, openRow := none } }

/-- The row that a bank holds open at time `t` (R344): none after 100 ns of idleness, or while it backs off.
[DEDUCED, unsafe: log 55] -/
def HbmBank.rowAt (b : HbmBank) (t : Nat) : Option Nat :=
  if b.backing t || b.lastUse + 100 ≤ t then none else b.openRow

/-- An access to the open row of a bank. [DEDUCED, unsafe: log 55] -/
def Hbm.use (h : Hbm) (bank t : Nat) : Hbm :=
  { h with banks := Tab.set {} h.banks bank { Tab.get {} h.banks bank with lastUse := t } }

/-- Admit request `k`: its bytes leave the bucket and count in HBMBYTES (R32), and it waits to be scheduled.
[DEDUCED, unsafe: log 55] -/
def State.hbmAdmit (s : State) (stack k t : Nat) : State :=
  let t := Nat.max s.now t
  if !s.mayAdmit stack k t then s
  else match (s.hbmAt stack).waiting[k]? with
    | none => s
    | some q =>
      let lack := s.lacks stack q t
      let free := decide (s.classShare stack q.cos = 256 ∨ s.classShare stack q.cos = 0)
      let take (h : Hbm) : Hbm :=
        let h := if free then h else
          { h with
            credit := Tab.set 0 h.credit q.cos (lack + 256 * q.bytes)
            creditAt := Tab.set 0 h.creditAt q.cos t }
        { h with waiting := dropNth h.waiting k, admitted := h.admitted ++ [{ q with arrived := t }] }
      (({ s with now := t } : State).modHbm stack take).modRegion q.region fun r =>
        { r with hbmbytes := r.hbmbytes + BitVec.ofNat 64 q.bytes }

def execHbmRequestAdmit (stack k t : Nat) (s : State) : Outcome := .next (s.hbmAdmit stack k t)

/-! ## Activation (R344 to R347) -/

/-- A region's threshold (R348). -/
def State.rowThreshold (s : State) (region : Nat) : Nat :=
  ((s.rowthr.find? fun p => p.1 = region).map (·.2)).getD 2048

/-- The neighbours of a row that exist, which are refreshed. -/
def neighbours (row : Nat) : Nat :=
  ((if 2 ≤ row then 1 else 0) + (if 1 ≤ row then 1 else 0)) +
    ((if row + 1 ≤ 65535 then 1 else 0) + (if row + 2 ≤ 65535 then 1 else 0))

/-- The activation of a row for a request. -/
def State.activateRow (s : State) (stack t : Nat) (q : HbmReq) : State :=
  let row := homeRow q.pa
  let key := q.bankKey * 65536 + row
  let h := s.hbmAt stack
  let n := Nat.min 0xFFFF ((Tab.get 0 h.cnt key).toNat + 1)
  let alert := decide (s.rowThreshold q.region ≤ n)
  let s := s.modHbm stack fun h =>
    { h with
      actcnt := h.actcnt + 1
      cnt := Tab.set 0 h.cnt key (if alert then 0 else BitVec.ofNat 16 n)
      alerts := if alert then h.alerts + 1 else h.alerts
      rfmcnt := if alert then h.rfmcnt + BitVec.ofNat 64 (neighbours row) else h.rfmcnt
      banks := Tab.set {} h.banks q.bankKey
        { openRow := some row, lastUse := t, lastAct := some t, backoff := if alert then some (t + 48 + 240) else none } }
  if alert then
    s.post q.region ev.rowalert (stack + homeChn q.pa * 2 ^ 3 + homeBank q.pa * 2 ^ 9 + row * 2 ^ 13) (q.pa / 128 * 128)
  else s

/-- Whether an admitted request finds its row open at time `t`. -/
def Hbm.hits (h : Hbm) (t : Nat) (q : HbmReq) : Bool :=
  (Tab.get ({} : HbmBank) h.banks q.bankKey).rowAt t = some (homeRow q.pa)

/-- Whether an admitted request's bank may activate its row at time `t`: 48 ns or more after its last activation, and not
while it backs off (R344, R346). -/
def Hbm.mayActivate (h : Hbm) (t : Nat) (q : HbmReq) : Bool :=
  let b := Tab.get ({} : HbmBank) h.banks q.bankKey
  !b.backing t && !b.lastAct.any fun a => t < a + 48

/-- The request that a controller serves next at time `t`: the oldest that has waited 2 µs, else the oldest that hits an open
row, else the oldest whose bank can act (R344). [DEDUCED, unsafe: log 56] -/
def Hbm.nextServed (h : Hbm) (t : Nat) : Option Nat :=
  let find (p : HbmReq → Bool) : Option Nat := h.admitted.findIdx? p
  let may (q : HbmReq) : Bool := h.hits t q || h.mayActivate t q
  (find fun q => q.arrived + 2000 ≤ t && may q).or ((find (h.hits t)).or (find (h.mayActivate t)))

/-- Admitted request `k` is served at time `t`, when it is the next one: from the open row, or by an activation.
[DEDUCED, unsafe: log 56] -/
def State.hbmServe (s : State) (stack k t : Nat) : State :=
  let t := Nat.max s.now t
  if (s.hbmAt stack).nextServed t ≠ some k then s
  else match (s.hbmAt stack).admitted[k]? with
    | none => s
    | some q =>
      let hit := (s.hbmAt stack).hits t q
      let s := ({ s with now := t } : State).modHbm stack fun h =>
        { h.settle q.bankKey t with admitted := dropNth h.admitted k }
      if hit then s.modHbm stack fun h => h.use q.bankKey t else s.activateRow stack t q

def execActivation (stack k t : Nat) (s : State) : Outcome := .next (s.hbmServe stack k t)

def execBackoffEnd (stack chn bank t : Nat) (s : State) : Outcome :=
  let t := Nat.max s.now t
  .next (({ s with now := t } : State).modHbm stack fun h => h.settle (chn * 16 + bank) t)

/-- Periodic refresh of a row (R345). -/
def execPeriodicRefresh (stack chn bank row : Nat) (s : State) : Outcome :=
  .next (s.modHbm stack fun h => { h with cnt := Tab.set 0 h.cnt (rowKey chn bank row) 0 })

/-- A row closes after 100 ns of idleness (R344). [DEDUCED, unsafe: log 55] -/
def execRowIdleClose (stack chn bank t : Nat) (s : State) : Outcome :=
  let t := Nat.max s.now t
  .next (({ s with now := t } : State).modHbm stack fun h =>
    let b := Tab.get {} h.banks (chn * 16 + bank)
    if b.lastUse + 100 ≤ t then { h with banks := Tab.set {} h.banks (chn * 16 + bank) { b with openRow := none } } else h)

/-! ## Uncorrectable lines (R495) -/

/-- The stored data of a line becomes uncorrectable. [DEDUCED, safe: log 57] -/
def execHbmLineUncorrectable (pa : Nat) (s : State) : Outcome :=
  if paKind pa ≠ .hbm then .fault (.unmappedPhysical pa)
  else .next (if s.badLines.contains (pa / 128) then s else { s with badLines := s.badLines ++ [pa / 128] })

end Sys2Proof.Machine
end

