-- ==== Sys2Proof/Machine/Regions.lean ====
section
/-! DEFINITION. Machine/Regions.lean: host messages and their replies (spec/15_firmware_host_trust.md R441 to R443, R446), and
the region tree: creation, update, destruction, class-of-service entries (spec/01_device_and_regions.md R21 to R26, R28,
R32, R34, R35, spec/11 R338). -/

namespace Sys2Proof.Machine

/-! ## Control and accounting blocks (Tables 1.3, 1.6) -/

/-- A region control block, as a number of 1024 bits. -/
def Region.rcb (x : Region) (r : Nat) : Nat :=
  r + x.parent * 2 ^ 12 + x.level * 2 ^ 24 + 2 ^ 27 + x.prio * 2 ^ 28 + x.cores * 2 ^ 32 + x.diemask * 2 ^ 39 +
    x.ctxcl * 2 ^ 43 + x.det.toNat * 2 ^ 45 + x.domhalt.toNat * 2 ^ 46 + x.domain * 2 ^ 48 + x.spada * 2 ^ 64 +
    x.spadb * 2 ^ 75 + x.spadc * 2 ^ 86 + x.waymask.toNat * 2 ^ 128 + x.hbmsh * 2 ^ 192 + x.fabsh * 2 ^ 201 +
    x.spillq * 2 ^ 256 + x.leaseq * 2 ^ 280 + x.ovr.toNat * 2 ^ 304 + x.evqbase * 2 ^ 320 + x.evqsize * 2 ^ 368 +
    packN 6 x.cos * 2 ^ 376 + x.cnode * 2 ^ 400

/-- A region accounting block, as a number of 1024 bits. -/
def Region.account (x : Region) : Nat :=
  x.fgcyc.toNat + x.bgcyc.toNat * 2 ^ 64 + x.bundles.toNat * 2 ^ 128 + x.hbmbytes.toNat * 2 ^ 192 +
    x.fabbytes.toNat * 2 ^ 256 + x.coresheld.toNat * 2 ^ 320 + x.leasesheld.toNat * 2 ^ 336 +
    x.spillheld.toNat * 2 ^ 352 + x.tasksdone.toNat * 2 ^ 384 + x.faults.toNat * 2 ^ 448 +
    x.preempts.toNat * 2 ^ 480 + x.evdrop.toNat * 2 ^ 512

/-- One byte of the two tables: 4096 control blocks, then 4096 accounting blocks. A region that is destroyed has VALID = 0
(R35); what the rest of its two blocks then reads as, the spec does not say: they read as zero here.
[DEDUCED, unsafe: log 86] -/
def State.tableByte (s : State) (off : Nat) : Byte :=
  let r := off / 128 % 4096
  match s.region r with
  | some x => BitVec.ofNat 8 ((if off < 2 ^ 19 then x.rcb r else x.account) / 2 ^ (8 * (off % 128)))
  | none => 0

/-! ## Replies (R442, R446) -/

/-- What a message is answered: a status of Table 15.2, and arguments. -/
structure Answer where
  status : Nat
  args : Nat := 0
  deriving DecidableEq, Repr

namespace Answer
def ok (args : Nat := 0) : Answer := ⟨0, args⟩
def noSpace : Answer := ⟨1, 0⟩
def refused : Answer := ⟨2, 0⟩
def denied : Answer := ⟨3, 0⟩
def busy : Answer := ⟨4, 0⟩
def badMsg : Answer := ⟨5, 0⟩
end Answer

/-- A request as the host writes it (Table 15.2): F0 sets FUNC, SRC is F0, and the reserved bits, REPLY and STATUS say
nothing of a request. ARGS has a layout for SET-POWERCAP alone (R488); the other operations' arguments come with the
bits. [DEDUCED, unsafe: log 60] -/
def Req.ofMessage (f : Nat) (m : BitVec 512) (args : ReqArgs) : Req :=
  let op := (m.extractLsb' 0 8).toNat
  { op := op, dest := (m.extractLsb' 8 3).toNat, tag := (m.extractLsb' 16 16).toNat
    region := (m.extractLsb' 32 12).toNat, func := f
    args := if op = 0x60 then .setPowercap (m.extractLsb' 64 12).toNat else args }

/-- A reply as it is written to the ring (R442). Every reply to REGION-CREATE (operation 0x01) reports the base of the
region tables in bits [127:64] (R32), below the new id. [DEDUCED, unsafe: log 60] -/
def Req.reply (q : Req) (a : Answer) : BitVec 512 :=
  let a := if q.op % 256 = 1 then { a with args := Config.rcbBase % 2 ^ 64 + a.args % 2 ^ 64 * 2 ^ 64 } else a
  BitVec.ofNat 512 (q.op % 256 + q.dest % 8 * 2 ^ 8 + 2 ^ 14 + q.tag % 2 ^ 16 * 2 ^ 16 + q.region % 4096 * 2 ^ 32 +
    q.func % 128 * 2 ^ 44 + a.status * 2 ^ 56 + a.args % 2 ^ 448 * 2 ^ 64)

def Func.ringFull (x : Func) : Bool := decide (2 ^ x.replylog.toNat ≤ (x.replytail - x.replyhead).toNat)

/-- Where the next reply is written, by host address (R446). -/
def Func.replyAddr (x : Func) : Nat := x.replybase.toNat + 64 * (x.replytail.toNat % 2 ^ x.replylog.toNat)

/-- The physical address of host memory at a host address (Table 11.3). [DEDUCED, unsafe: log 116] -/
def hostPa (a : Nat) : Nat := 0xC_0000_0000_0000 + a % 2 ^ 50

/-- A reply goes to the ring of its function in host memory, or is held while the ring is full or F0 is being replaced. -/
def State.sendReply (s : State) (f : Nat) (m : BitVec 512) : State :=
  let x := s.func f
  if x.heldReplies ≠ [] ∨ x.ringFull ∨ s.fnAway 0 then s.modFunc f fun y => { y with heldReplies := y.heldReplies ++ [m] }
  else
    let s := (s.homeWrite (hostPa x.replyAddr) (bytesOf 64 m.toNat)).emit (.reply f x.replyAddr m)
    (s.modFunc f fun y => { y with replytail := y.replytail + 1 }).raiseVec f x.replyvec.toNat

/-! ## Mailboxes (R441, R443, R446) -/

/-- The function that serves an operation (Table 15.3). [DEDUCED, unsafe: log 59] -/
def servingOf (op : Nat) : Option Nat :=
  match op with
  | 0x01 | 0x02 | 0x03 | 0x10 | 0x11 => some 2
  | 0x20 | 0x21 | 0x22 | 0x23 | 0x24 => some 3
  | 0x30 => some 5
  | 0x40 | 0x41 => some 0
  | 0x50 => some 7
  | 0x60 => some 6
  | _ => none

/-- F0 takes the message of a function, answers it, or posts it in the serving function's mailbox when that has room.
[DEDUCED, unsafe: log 67] -/
def State.takeMbox (s : State) (f : Nat) : State :=
  let x := s.func f
  match x.mbox with
  | none => s
  | some q =>
    let q := { q with func := f }
    let clear (s : State) : State := s.modFunc f fun y => { y with mbox := none }
    if x.heldReplies ≠ [] ∨ s.fnAway 0 then s
    else if !s.within (if f = 0 then 0 else x.region) q.region then (clear s).sendReply f (Req.reply q .denied)
    else match servingOf q.op with
      | none => (clear s).sendReply f (Req.reply q .badMsg)
      | some fn =>
        if (s.nal fn).mail.length ≥ 32 then s
        else (clear s).modNal fn fun n => n.send (.host q)

def State.takeMboxes (s : State) : State := (s.funcs.map (·.1)).foldl State.takeMbox s

/-- A function serves a message: its effects, then its reply; without an answer it stays TAKEN. The messages of a function
that is being replaced wait in its mailbox (R465). [DEDUCED, unsafe: log 59] -/
def State.serve (s : State) (fn : Nat) (q : Req) (f : State → State × Option Answer) : State :=
  if s.fnAway fn then s
  else match f s with
  | (t, some a) => ((t.modNal fn fun n => n.retire (.host q)).sendReply q.func (Req.reply q a)).takeMboxes
  | (t, none) => t.modNal fn fun n => n.take (.host q)

/-- A message whose region must exist. [DEDUCED, unsafe: log 59] -/
def State.ofRegion (s : State) (q : Req) (f : Region → State × Option Answer) : State × Option Answer :=
  match s.region q.region with
  | some x => f x
  | none => (s, some .refused)

/-! ## Class-of-service entries (R26, R338) -/

/-- The distinct pairs of way mask and HBMSH on a die, in region order. -/
def State.cosPairs (s : State) (d : Nat) : List (Nat × Nat) :=
  (s.liveRegions.map fun r => (s.effWays r d, s.effHbmsh r)).eraseDups

def Cos.pair (x : Cos) : Nat × Nat := (x.ways.toNat, x.hbmsh)

/-- The index of each pair: that of an entry that has it, else the lowest entry that no pair keeps.
[DEDUCED, unsafe: log 71] -/
def cosIndex (old : List Cos) (pairs : List (Nat × Nat)) : List ((Nat × Nat) × Nat) :=
  let kept := pairs.filterMap fun p => (old.findIdx? fun x => x.used && x.pair = p).map fun i => (p, i)
  let fresh := pairs.filter fun p => !kept.any fun k => k.1 = p
  let holes := (List.range 64).filter fun i => !kept.any fun k => k.2 = i
  kept ++ fresh.zip holes

/-- F2 writes the class-of-service table of a die, and the COS fields; a class first given an entry has full buckets
(R339). [DEDUCED, unsafe: log 71] -/
def State.setCosDie (s : State) (d : Nat) : State :=
  let old := (s.die d).cos
  let l := cosIndex old (s.cosPairs d)
  let entry (i : Nat) : Cos := match l.find? fun k => k.2 = i with
    | some k => ⟨BitVec.ofNat 16 k.1.1, k.1.2, true⟩
    | none => {}
  let new := (List.range 64).filter fun i => (entry i).used && !(old.getD i {}).used
  let refill (h : Hbm) : Hbm := new.foldl (fun (h : Hbm) i => { h with credit := Tab.set 0 h.credit i 0 }) h
  let s := (s.settleBuckets (2 * d)).settleBuckets (2 * d + 1)
  let s := s.modDie d fun x => { x with cos := (List.range 64).map entry }
  let s := (s.modHbm (2 * d) refill).modHbm (2 * d + 1) refill
  let idx (s : State) (r : Nat) : Nat := (l.find? fun k => k.1 = (s.effWays r d, s.effHbmsh r)).elim 0 (·.2)
  s.liveRegions.foldl (fun (s : State) r => s.modRegion r fun x => { x with cos := x.cos.set d (idx s r) }) s

def State.setCos (s : State) : State := [0, 1, 2, 3].foldl State.setCosDie s

/-- R26: no region may be left deterministic without foreground contexts, and no die with more than 64 pairs. -/
def State.budgetsOk (s : State) : Bool :=
  (s.liveRegions.all fun r => !s.effDet r || bitN (s.effCtxcl r) 0) && [0, 1, 2, 3].all fun d => decide ((s.cosPairs d).length ≤ 64)

/-! ## REGION-CREATE (R21 to R23, R378) -/

/-- The lowest address-space id from 1 that is not assigned. [DESIGN CHOICE, unsafe: log 58] -/
def State.freeAsid (s : State) : Nat := ((List.range 4097).find? fun a => a ≠ 0 && (Tab.get none s.spaces a).isNone).getD 4097

/-- A region gets its own address space, with every segment unmapped. -/
def State.giveSpace (s : State) (r : Nat) (raf : List (BitVec 128)) : State :=
  let a := s.freeAsid
  ({ s with spaces := Tab.set none s.spaces a (some ⟨r, (List.range 16).map fun k => Seg.kept (raf.getD k 0)⟩) } : State).modRegion r
    fun x => { x with asid := some a }

/-- The reply holds the new id, above the base of the tables (`Req.reply`).
[DESIGN CHOICE, unsafe: log 58; DEDUCED, unsafe: log 60] -/
def State.createRegion (s : State) (q : Req) (parent : Nat) : State × Option Answer :=
  let f := if q.func = 0 then 0 else (s.func q.func).region
  match s.region parent with
  | none => (s, some .refused)
  | some p =>
    if !s.within f parent then (s, some .denied)
    else if p.level ≥ 7 then (s, some .noSpace)
    else match (List.range 4096).find? fun r => (s.region r).isNone with
      | none => (s, some .noSpace)
      | some r =>
        let s := s.setRegion r { parent := parent, level := p.level + 1 }
        let s := if p.level = 0 then s.giveSpace r [] else s
        (s.setCos, some (.ok r))

def execRegionCreate (q : Req) (s : State) : Outcome :=
  .next (s.serve 2 q fun s => match q.args with
    | .regionCreate p => s.createRegion q p
    | _ => (s, some .badMsg))

/-! ## REGION-UPDATE (R22, R24, R26, R28, R34) -/

/-- A field takes a value of Table 1.3's range. -/
def Region.put (x : Region) (f : RcbField × Nat) : Option Region :=
  let v := f.2
  let when (ok : Bool) (y : Region) : Option Region := if ok then some y else none
  match f.1 with
  | .prio => when (v < 16) { x with prio := v }
  | .cores => when (v ≤ 96) { x with cores := v }
  | .diemask => when (v < 16) { x with diemask := v }
  | .ctxcl => when (v < 4) { x with ctxcl := v }
  | .det => when (v < 2) { x with det := decide (v = 1) }
  | .domhalt => when (v < 2) { x with domhalt := decide (v = 1) }
  | .domain => when (v < 256) { x with domain := v }
  | .spada => when (v ≤ 1024) { x with spada := v }
  | .spadb => when (v ≤ 1024) { x with spadb := v }
  | .spadc => when (v ≤ 1024) { x with spadc := v }
  | .waymask => when (v < 2 ^ 64) { x with waymask := BitVec.ofNat 64 v }
  | .hbmsh => when (v ≤ 256) { x with hbmsh := v }
  | .fabsh => when (v ≤ 256) { x with fabsh := v }
  | .spillq => when (v ≤ 4096) { x with spillq := v }
  | .leaseq => when (v ≤ 4095) { x with leaseq := v }
  | .ovr => when (v < 2 ^ 15) { x with ovr := BitVec.ofNat 15 v }
  | .evqbase => when (v < 2 ^ 48 && v % 64 = 0) { x with evqbase := v }
  | .evqsize => when (4 ≤ v && v ≤ 15) { x with evqsize := v }
  | .cnode => when (v < 2 ^ 48) { x with cnode := v }

/-- Whether what the subtree of `a` runs, without the tasks `gone`, fits CORES and the scratchpad ceilings of `a`. -/
def State.holdingFits (s : State) (a : Nat) (gone : List Nat) : Bool :=
  let on (k : Nat) : List Task := [2 * k, 2 * k + 1].flatMap fun c =>
    let x := s.ctx c
    (if x.busy && s.within a x.task.region && !gone.contains x.task.uid then [x.task] else []) ++
      ((s.bankTask c).filter fun t => s.within a t.region).toList
  decide (((List.range Config.cores).filter fun k => on k ≠ []).length ≤ s.effCores a) &&
    (List.range Config.cores).all fun k => (List.range 3).all fun g =>
      decide (((on k).map fun t => nth0 t.win g).sum ≤ 1024 * s.effSpad a g)

/-- Tasks to pre-empt, youngest first, until the holding of the subtree fits. [DEDUCED, unsafe: log 62] -/
def State.victimsOf (s : State) (r : Nat) : List (Nat × Nat × Nat) → List Nat → List Nat
  | [], _ => []
  | (c, uid, _) :: l, gone =>
    if (s.subtree r).all fun a => s.holdingFits a gone then []
    else if gone.contains uid then s.victimsOf r l gone
    else c :: s.victimsOf r l (uid :: gone)

/-- R34: the subtree's running tasks that F2 pre-empts, in descending ticket order, until the holding fits; those that leave
already are counted first, and one without a slot for its save is passed by (R272). [DEDUCED, unsafe: log 62] -/
def State.reclaims (s : State) (r : Nat) : List Nat :=
  let l := s.ctxs.filter fun p => p.2.busy && s.within r p.2.task.region
  let leaves (x : Ctx) : Bool := x.preempt || decide (x.st = .save)
  let stay := (l.filter fun p => !leaves p.2 && s.mayPreempt p.1 && s.slotFree p.1).map fun p =>
    (p.1, p.2.task.uid, p.2.task.ticket)
  let young := stay.mergeSort fun a b => a.2.2 = b.2.2 || older b.2.2 a.2.2
  s.victimsOf r young ((l.filter fun p => leaves p.2).map fun p => p.2.task.uid)

/-- F2 requests the pre-emptions of R34. [DEDUCED, unsafe: log 62] -/
def State.fitHoldings (s : State) (r : Nat) : State := (s.reclaims r).foldl State.requestPreempt s

/-- What F2 asks for at any time: what outranked tasks hold, and what budgets no longer cover (R34, R269). -/
def State.preemptions (s : State) : List Nat :=
  ((s.priorityVictims ++ (s.liveRegions.filter fun r => !s.holdingFits r []).flatMap s.reclaims).eraseDups).filter fun c =>
    s.mayPreempt c && !(s.ctx c).preempt && s.slotFree c

/-- Queues that stopped for a reason that has gone are ACTIVE again (Table 15.8). [DEDUCED, unsafe: log 62] -/
def State.wakeQueues (s : State) (ok : Queue → Bool) : State :=
  { s with queues := Tab.mapVals {} s.queues fun x =>
      if x.live && x.st = .stopped && ok x then { x with st := .active, denied := false } else x }

/-- A domain's dispatch resumes (R28). -/
def State.resumeDomain (s : State) (r : Nat) : State :=
  let all := r :: s.domainPeers r
  let s := all.foldl (fun (s : State) x => s.modRegion x fun y => { y with halted := false }) s
  s.wakeQueues fun x => all.contains x.owner && !x.denied

def State.updateRegion (s : State) (q : Req) (fields : List (RcbField × Nat)) (resume : Bool) : State × Option Answer :=
  s.ofRegion q fun x =>
    match fields.foldlM (fun y f => y.put f) x with
    | none => (s, some .refused)
    | some y =>
      let t := s.settleFab.setRegion q.region y
      if !t.budgetsOk then (s, some .refused)
      else
        let t := t.setCos.fitHoldings q.region
        let t := t.wakeQueues fun x => x.denied && decide (x.owner = q.region)
        (if resume then t.resumeDomain q.region else t, some .ok)

def execRegionUpdate (q : Req) (s : State) : Outcome :=
  .next (s.serve 2 q fun s => match q.args with
    | .regionUpdate l resume => s.updateRegion q l resume
    | _ => (s, some .badMsg))

/-! ## REGION-DESTROY (R35) -/

/-- The launch unit forgets a region's launches, walks, grants and reservations. -/
def State.dropLaunches (s : State) (r : Nat) : State :=
  let mine := s.launches.filter fun l => l.region = r
  let s := mine.foldl (fun (s : State) l => s.failReservation l.die l.ticket) s
  let s := (s.grantsF3.filter fun g => g.launch.region = r).foldl State.endGrant s
  { s with
    reservations := s.reservations.filter fun x => !mine.any fun l => l.die = x.die && l.ticket = x.ticket
    launches := s.launches.filter fun l => l.region ≠ r
    walks := s.walks.filter fun w => w.region ≠ r }

/-- A context loses a task of a region: its snapshot is discarded. -/
def State.dropTask (s : State) (r c : Nat) : State :=
  let x := s.ctx c
  let keep (e : DqEnt) : Bool := e.region ≠ r
  let bank := match x.bank with
    | some (.start t a) => if t.region = r then none else some (.start t a)
    | some (.saved k m) =>
      if s.saved.any fun v => v.id = k && v.members.any (fun y => y.task.region = r) then none else some (.saved k m)
    | none => none
  if x.busy && x.task.region = r then
    let s := (s.drainReleased c).unhold (partner c)
    s.modCtx c fun x => ({ st := .idle, deque := x.deque.filter keep, spill := x.spill.filter keep, bank := bank } : Ctx)
  else s.modCtx c fun x => { x with deque := x.deque.filter keep, spill := x.spill.filter keep, bank := bank }

/-- The contents of one region's deques, saves, leases and windows are discarded. [DEDUCED, unsafe: log 61] -/
def State.dropHoldings (s : State) (r : Nat) : State :=
  let s := (List.range Config.contexts).foldl (fun (s : State) c => s.dropTask r c) s
  let keep (x : Ctx) : Ctx :=
    { x with deque := x.deque.filter fun e => e.region ≠ r, spill := x.spill.filter fun e => e.region ≠ r }
  let gone := s.leases.filter fun l => l.region = r
  let s := gone.foldl (fun (s : State) l => s.unpin l.pages) s
  { s with
    saved := (s.saved.filter fun v => !v.members.any fun x => x.busy && x.task.region = r).map fun v =>
      { v with members := v.members.map keep }
    overflow := Tab.set [] s.overflow r []
    leases := s.leases.filter fun l => l.region ≠ r
    suspended := s.suspended.filter fun u => !gone.any fun l => l.id = u.lease
    windows := Tab.mapVals {} s.windows fun w => if w.valid && w.region = r then { w with valid := false, gen := w.gen + 1 } else w
    rowthr := s.rowthr.filter fun p => p.1 ≠ r }

/-- An address space is destroyed with its cached translations (R378). -/
def State.dropSpace (s : State) (a : Nat) : State :=
  let s := s.performInvl a true 0 0
  let s := (s.pageReqs.filter fun p => p.asid = a).foldl State.answerPage s
  { s with
    spaces := Tab.set none s.spaces a none
    migrations := s.migrations.filter fun m => m.asid ≠ a
    pageReqs := s.pageReqs.filter fun p => p.asid ≠ a }

/-- One region ends, in the steps of R35. [DEDUCED, unsafe: log 61] -/
def State.endRegion (s : State) (r : Nat) : State :=
  let x := s.regionD r
  let s := { s with queues := Tab.mapVals {} s.queues fun q => if q.live && q.owner = r then { q with st := .stopped } else q }
  let s := (s.dropLaunches r).dropHoldings r
  let s := match x.asid with | some a => s.dropSpace a | none => s
  let s := { s with
    funcs := Tab.mapVals {} s.funcs fun f =>
      if f.bound && f.region = r && r ≠ 0 then { f with bound := false, bar2 := [], bar2Leases := [] } else f
    regions := Tab.set none s.regions r none }
  s.post x.parent ev.regionEnd r 0

/-- A live queue's capability names function `f` (R444). -/
def State.funcInUse (s : State) (f : Nat) : Bool := s.queues.any fun p => p.2.live && p.2.func = f

def State.destroyRegion (s : State) (q : Req) : State × Option Answer :=
  s.ofRegion q fun _ =>
    let all := (s.subtree q.region).mergeSort fun a b => (s.regionD b).level ≤ (s.regionD a).level
    if q.region = 0 then (s, some .refused)
    else if s.funcs.any fun p => decide (p.1 ≠ 0) && p.2.bound && all.contains p.2.region && s.funcInUse p.1 then
      (s, some .busy)
    else ((all.foldl State.endRegion s).setCos.recount, some .ok)

def execRegionDestroy (q : Req) (s : State) : Outcome :=
  .next (s.serve 2 q fun s => match q.args with
    | .regionDestroy => s.destroyRegion q
    | _ => (s, some .badMsg))

end Sys2Proof.Machine
end

