-- ==== Sys2Proof/Machine/Host.lean ====
section
/-! DEFINITION. Machine/Host.lean: the other host messages (spec/15_firmware_host_trust.md R443, R444, R448 to R450, R458,
spec/13 R378, spec/14 R420, R427, R429, spec/11 R348) and the host link's apertures and registers (spec/15 R444 to R449,
R453, R456, spec/00 R8). -/

namespace Sys2Proof.Machine

/-! ## QUEUE-CREATE and QUEUE-DESTROY (R450, R458) -/

/-- The reply holds the capability in ARGS[255:0]. [DESIGN CHOICE, unsafe: log 58; DEDUCED, unsafe: log 60] -/
def State.createQueue (s : State) (q : Req) (x : Queue) : State × Option Answer :=
  s.ofRegion q fun _ =>
    if x.base % 64 ≠ 0 ∨ x.base ≥ 2 ^ 57 ∨ x.logsz < 4 ∨ 15 < x.logsz ∨ 128 ≤ x.func then (s, some .refused)
    else match (List.range 4096).find? fun k => !(s.queue k).live && (s.queue k).st ≠ .held with
      | none => (s, some .noSpace)
      | some k =>
        let x := { x with owner := q.region, gen := (s.queue k).gen, live := true }
        (s.setQueue k x, some (.ok (x.cap k).toNat))

def execQueueCreate (q : Req) (s : State) : Outcome :=
  .next (s.serve 2 q fun s => match q.args with
    | .queueCreate va logsz ticketMode push wake ctrl func anyf =>
      s.createQueue q { base := va, logsz := logsz, ticketMode := ticketMode, push := push, wake := wake, ctrl := ctrl, func := func, anyf := anyf }
    | _ => (s, some .badMsg))

/-- The leases that LEASE records of a queue hold are released. -/
def State.dropRecordLeases (s : State) (k : Nat) : State :=
  (s.leases.filter fun l => l.record = some k).foldl (fun (s : State) l =>
    (s.modLease l.id fun x => { x with record := none }).dropLease l.id) s

/-- The generation advances at once; the message is answered when the record in dispatch has finished.
[DEDUCED, unsafe: log 63] -/
def State.destroyQueue (s : State) (q : Req) (k : Nat) : State × Option Answer :=
  let x := s.queue k
  let begun := (s.nal 2).mail.any fun p => p.1 = .host q && p.2
  if !begun && (!x.live || x.owner ≠ q.region) then (s, some .refused)
  else
    let s := if begun then s else
      { s.setQueue k { x with live := false, gen := x.gen + 1 } with wakes := s.wakes.filter fun w => w ≠ k }
    if (s.queue k).st = .held then (s, none)
    else ((s.dropRecordLeases k).setQueue k { gen := (s.queue k).gen }, some .ok)

def execQueueDestroy (q : Req) (s : State) : Outcome :=
  .next (s.serve 2 q fun s => match q.args with
    | .queueDestroy k => s.destroyQueue q k
    | _ => (s, some .badMsg))

/-! ## AS-CREATE (R378 to R380) -/

def rafEntryOk (e : BitVec 128) : Bool := let g := Seg.ofBits e; !g.valid || g.ok

/-- Whether pins hold what segment `k` of an address space translates: a lease's, or those of an XALL segment's X pages, which
last as long as the space (R390, R395). [DEDUCED, unsafe: log 64] -/
def State.segmentPinned (s : State) (a k : Nat) : Bool :=
  (s.pins.any fun p => p.1 / 2 ^ 57 = a && p.1 % 2 ^ 57 / 2 ^ 53 = k && p.2 ≠ 0) ||
    (let g := s.seg a (k * 2 ^ 53); g.valid && g.xall)

/-- A region gets an address space of its own, with the given segments; one that has its own gets the segments, unless pins
hold one that would change. [DEDUCED, unsafe: log 64] -/
def State.createSpace (s : State) (q : Req) (raf : List (BitVec 128)) : State × Option Answer :=
  s.ofRegion q fun x =>
    if raf.length > 16 || !raf.all rafEntryOk then (s, some .refused)
    else match x.asid with
      | some a =>
        let y : Space := ⟨q.region, (List.range 16).map fun k => Seg.kept (raf.getD k 0)⟩
        let changes (k : Nat) : Bool := y.raf.getD k 0 ≠ s.rafEntry a (k * 2 ^ 53)
        if (List.range 16).any fun k => changes k && s.segmentPinned a k then (s, some .busy)
        else
        ({ s.performInvl a true 0 0 with spaces := Tab.set none s.spaces a (some y) }, some .ok)
      | none => if s.freeAsid > 4096 then (s, some .noSpace) else (s.giveSpace q.region raf, some .ok)

def execAsCreate (q : Req) (s : State) : Outcome :=
  .next (s.serve 3 q fun s => match q.args with
    | .asCreate raf => s.createSpace q raf
    | _ => (s, some .badMsg))

/-! ## Leases that messages take (R429, R448) -/

/-- Whether a page of a VA range is in migration, or can take no further pin: what would pin it waits (R390, R397). -/
def State.pinWaits (s : State) (region va n : Nat) : Bool :=
  let asid := s.asidOf region
  let g := s.seg asid va
  g.plog ≠ 0 && decide (va + n ≤ 2 ^ 57) &&
    (pagesOf va n g.plog).any fun p => s.migrating asid p || decide (65535 ≤ s.pinCount asid p)

/-- The pages of a VA range, when each is mapped as a normal page with the rights, at a physical address that exists
(R335). [DEDUCED, unsafe: log 65] -/
def State.pinList (s : State) (region va n : Nat) (need : Need) : Option (List (Nat × Nat × Nat)) :=
  let asid := s.asidOf region
  let g := s.seg asid va
  let ok (p : Nat) : Bool := match (s.walkRoot asid p).2.2 with
    | .leaf x => need.onLeaf x && paKind (pteFrame x) ≠ .unmapped
    | _ => false
  if !g.valid || g.plog = 0 || g.mtype ≠ 0 || va + n > 2 ^ 57 || va / 2 ^ 53 ≠ (va + n - 1) / 2 ^ 53 then none
  else if (pagesOf va n g.plog).all ok then some ((pagesOf va n g.plog).map fun p => (asid, p, g.plog)) else none

/-- F3 takes a lease over a VA range for a window or a host window entry. [DEDUCED, unsafe: log 65] -/
def State.rangeLease (s : State) (region va n : Nat) (need : Need) : State × Option Answer × Nat :=
  if !s.leaseRoom region then (s, some .noSpace, 0)
  else match s.pinList region va n need with
    | none => (s, some .refused, 0)
    | some pages =>
      let l : Lease :=
        { id := s.nextLease, region := region, ticket := 0, frame := BitVec.ofNat 64 va
          ranges := [⟨1, va, n, need.r, need.w, false⟩], tensors := [], pages := pages, holders := 1, record := none }
      let pins := pages.foldl (fun t p => Tab.set 0 t (pinKey p.1 p.2.1) (Tab.get 0 t (pinKey p.1 p.2.1) + 1)) s.pins
      (({ s with leases := s.leases ++ [l], nextLease := s.nextLease + 1, pins := pins } : State).recount, none, l.id)

/-! ## Windows (R429, R430) -/

/-- The reply holds the sealed handle in ARGS[255:0].
[DESIGN CHOICE, unsafe: log 58; DEDUCED, unsafe: log 60; DEDUCED, unsafe: log 65] -/
def State.createWindow (s : State) (q : Req) (va bound : Nat) (wr rd ad : Bool) : State × Option Answer :=
  s.ofRegion q fun _ =>
    if bound = 0 ∨ 2 ^ 40 ≤ bound then (s, some .refused)
    else match (List.range 4096).find? fun k => !(s.window k).valid with
      | none => (s, some .noSpace)
      | some k =>
        if s.pinWaits q.region va bound then (s, none)
        else match s.rangeLease q.region va bound ⟨rd || ad, wr || ad, false⟩ with
        | (s, some a, _) => (s, some a)
        | (s, none, id) =>
          let s := s.modWindow k fun w =>
            { w with valid := true, region := q.region, base := va, bound := bound, rejects := 0, lease := id }
          (s, some (.ok (Handle.make va bound wr rd ad q.region k (s.window k).gen s.modid).toNat))

def execWindowCreate (q : Req) (s : State) : Outcome :=
  .next (s.serve 3 q fun s => match q.args with
    | .windowCreate va bound wr rd ad => s.createWindow q va bound wr rd ad
    | _ => (s, some .badMsg))

/-- Every arrival that has passed its check has been performed within its own step. -/
def State.destroyWindow (s : State) (q : Req) (k : Nat) : State × Option Answer :=
  let w := s.window k
  if 4096 ≤ k || !w.valid || w.region ≠ q.region then (s, some .refused)
  else (((s.modWindow k fun w => { w with valid := false, gen := w.gen + 1 }).dropLease w.lease).recount, some .ok)

def execWindowDestroy (q : Req) (s : State) : Outcome :=
  .next (s.serve 3 q fun s => match q.args with
    | .windowDestroy k => s.destroyWindow q k
    | _ => (s, some .badMsg))

/-! ## MAP-DEVICE (R349, R420, R449, R494) -/

/-- The blocks of the device apertures that may be mapped, with their sizes: the controllers', the ports', the sensor block
and the wake catcher. [DEDUCED, unsafe: log 66] -/
def deviceBlocks : List (Nat × Nat) :=
  [(0x8_0000_0000_0000, 0x8000), (0x8_0001_0000_0000, 0x3000), (0x8_0002_0000_0000, 0x1_0000), (0x8_0003_0000_0000, 0x1000)]

/-- Whether device bytes lie in one block that may be mapped, or in a peer window of the region.
[DEDUCED, unsafe: log 66] -/
def State.mappable (s : State) (region pa n : Nat) : Bool :=
  (deviceBlocks.any fun b => b.1 ≤ pa && pa + n ≤ b.1 + b.2) ||
    (match Tab.get none s.peers ((pa - 0xA_0000_0000_0000) / 2 ^ 32) with
      | some w => 0xA_0000_0000_0000 ≤ pa && pa < 0xA_0040_0000_0000 && w.region = region && pa % 2 ^ 32 + n ≤ w.size
      | none => false)

/-- The leaves of device pages from `va` on; none where a page is not of device type, or where pins hold another
translation (R335, R390). [DEDUCED, unsafe: log 66] -/
def State.mapDevicePages (s : State) (asid plog : Nat) : Nat → Nat → Nat → Option State
  | _, _, 0 => some s
  | va, pa, n + 1 =>
    let leaf : Word := BitVec.ofNat 64 (pa + 7)
    let held := s.pinned asid va && (s.walkRoot asid va).2.2 ≠ .leaf leaf
    if held || !typeFits 1 pa then none
    else match s.putLeaf asid va leaf with
      | none => none
      | some s => s.mapDevicePages asid plog (va + 2 ^ plog) (pa + 2 ^ plog) n

/-- F3 maps device pages with R and W in one segment of device type. [DEDUCED, unsafe: log 66] -/
def State.mapDevice (s : State) (q : Req) (va pa n : Nat) : State × Option Answer :=
  s.ofRegion q fun _ =>
    let asid := s.asidOf q.region
    let g := s.seg asid va
    let pages := (n + 2 ^ g.plog - 1) / 2 ^ g.plog
    if n = 0 || !s.mappable q.region pa n then (s, some .badMsg)
    else if va ≥ 2 ^ 57 || g.mtype ≠ 1 || !g.mapped va || va % 2 ^ g.plog ≠ 0 || pa % 2 ^ g.plog ≠ 0 ||
        va / 2 ^ 53 ≠ (va + pages * 2 ^ g.plog - 1) / 2 ^ 53 then (s, some .refused)
    else match s.mapDevicePages asid g.plog va pa pages with
      | none => (s, some .refused)
      | some t => (t, some .ok)

def execMapDevice (q : Req) (s : State) : Outcome :=
  .next (s.serve 3 q fun s => match q.args with
    | .mapDevice va pa n => s.mapDevice q va pa n
    | _ => (s, some .badMsg))

/-! ## SET-ROWTHR (R348) -/

/-- A threshold of 2048 removes the region from the table. -/
def State.setThreshold (s : State) (q : Req) (t : Nat) : State × Option Answer :=
  s.ofRegion q fun _ =>
    let rest := s.rowthr.filter fun p => p.1 ≠ q.region
    if t < 32 ∨ 2048 < t then (s, some .refused)
    else if t = 2048 then ({ s with rowthr := rest }, some .ok)
    else if rest.length ≥ 16 then (s, some .noSpace)
    else ({ s with rowthr := rest ++ [(q.region, t)] }, some .ok)

def execSetRowthr (q : Req) (s : State) : Outcome :=
  .next (s.serve 3 q fun s => match q.args with
    | .setRowthr t => s.setThreshold q t
    | _ => (s, some .badMsg))

/-! ## LINK-PROTECT (R427) -/

/-- The keys of a link that is UP are agreed with its peer, and both directions are sealed from the next packet on. -/
def State.protectLink (s : State) (k : Nat) : State × Option Answer :=
  if (s.port k).st ≠ .up then (s, some .refused)
  else if (s.port k).prot then (s, some .ok)
  else if s.fnAway 7 then (s, none)
  else (s.modPort k fun p => p.protect (dirId s.modid k), some .ok)

def execLinkProtect (q : Req) (s : State) : Outcome :=
  .next (s.serve 5 q fun s => match q.args with
    | .linkProtect k => s.protectLink k
    | _ => (s, some .badMsg))

/-! ## VF-BIND and PEER-WINDOW (R444, R448, R449) -/

/-- The leases that pin host window entries, in turn. -/
def State.entryLeases (s : State) (region : Nat) : List (Nat × Nat × Bool × Bool) → State × Option Answer × List Nat
  | [] => (s, none, [])
  | e :: l =>
    if e.2.1 = 0 then s.entryLeases region l
    else match s.rangeLease region e.1 (e.2.1 * 4096) ⟨e.2.2.1, e.2.2.2, false⟩ with
      | (s, some a, _) => (s, some a, [])
      | (s, none, id) => match s.entryLeases region l with
        | (s, a, ids) => (s, a, id :: ids)

/-- A VF is bound to a top-level region with its host window entries, or unbound. A pin count that its entries together would
take past 65 535 makes it wait (R390). [DEDUCED, unsafe: log 65] -/
def State.bindVf (s : State) (q : Req) (f : Nat) (bind : Bool) (entries : List (Nat × Nat × Bool × Bool)) :
    State × Option Answer :=
  if q.func ≠ 0 then (s, some .denied)
  else if f = 0 ∨ 128 ≤ f then (s, some .refused)
  else if !bind then
    if s.funcInUse f then (s, some .busy)
    else
      let s := (s.func f).bar2Leases.foldl State.dropLease s
      ((s.modFunc f fun x => { x with bound := false, region := 0, bar2 := [], bar2Leases := [] }).recount, some .ok)
  else match s.region q.region with
    | none => (s, some .refused)
    | some x =>
      if x.level ≠ 1 ∨ (s.func f).bound ∨ 16 < entries.length then (s, some .refused)
      else if entries.any fun e => e.2.1 ≠ 0 && s.pinWaits q.region e.1 (e.2.1 * 4096) then (s, none)
      else match s.entryLeases q.region entries with
        | (_, some a, _) => (s, some a)
        | (t, none, ids) =>
          if t.pins.any fun p => 65535 < p.2 then (s, none)
          else (t.modFunc f fun x => { x with bound := true, region := q.region, bar2 := entries, bar2Leases := ids }, some .ok)

def execVfBind (q : Req) (s : State) : Outcome :=
  .next (s.serve 0 q fun s => match q.args with
    | .vfBind f bind l => s.bindVf q f bind l
    | _ => (s, some .badMsg))

def State.makePeer (s : State) (q : Req) (k bus size : Nat) : State × Option Answer :=
  if q.func ≠ 0 then (s, some .denied)
  else s.ofRegion q fun _ =>
    if 64 ≤ k || !((List.range 33).any fun i => 12 ≤ i && size = 2 ^ i) then (s, some .refused)
    else ({ s with peers := Tab.set none s.peers k (some ⟨q.region, bus, size⟩) }, some .ok)

def execPeerWindow (q : Req) (s : State) : Outcome :=
  .next (s.serve 0 q fun s => match q.args with
    | .peerWindow k bus size => s.makePeer q k bus size
    | _ => (s, some .badMsg))

/-! ## The mailbox and the reply ring (R445, R446) -/

/-- The host link of a module that has power and has come up. -/
def State.linkUp (s : State) : Bool := !s.power.tripped && !s.power.lost && s.power.stuck.isNone

/-- The PF, or a bound VF (R444). -/
def State.isBound (s : State) (f : Nat) : Bool := f = 0 || (f < 128 && (s.func f).bound)

/-- A function that answers. -/
def State.answers (s : State) (f : Nat) : Bool := s.linkUp && s.isBound f

def execMboxWrite (f : Nat) (m : HostMessage) (whole : Bool) (s : State) : Outcome :=
  .next (if !s.answers f || !whole || (s.func f).mbox.isSome then s
    else (s.modFunc f fun x => { x with mbox := some (Req.ofMessage f m.message m.args) }).takeMbox f)

/-- Held replies go out while the ring has room. `fuel` is their number. -/
def State.sendHeld (s : State) (f : Nat) : Nat → State
  | 0 => s
  | n + 1 =>
    let x := s.func f
    match x.heldReplies with
    | [] => s
    | m :: l => if x.ringFull ∨ s.fnAway 0 then s else ((s.modFunc f fun y => { y with heldReplies := [] }).sendReply f m |>.modFunc f fun y => { y with heldReplies := l }).sendHeld f n

def execReplyheadWrite (f v : Nat) (s : State) : Outcome :=
  .next (if !s.answers f then s
    else
      let s := s.modFunc f fun x => { x with replyhead := BitVec.ofNat 32 v }
      (s.sendHeld f (s.func f).heldReplies.length).takeMbox f)

/-- Function control (Table 15.5); its reserved fields read as zero (R10). -/
def Func.control (x : Func) (f : Nat) : Nat :=
  f % 2 ^ 7 + (x.bound || f = 0).toNat * 2 ^ 7 + x.region % 2 ^ 12 * 2 ^ 8 + x.mbox.isSome.toNat * 2 ^ 64 + x.wakerej.toNat * 2 ^ 128 +
    x.qarej.toNat * 2 ^ 160 + x.replybase.toNat * 2 ^ 192 + x.replylog.toNat * 2 ^ 256 + x.replyvec.toNat * 2 ^ 260 +
    x.replytail.toNat * 2 ^ 288 + x.replyhead.toNat * 2 ^ 320

/-- Held replies of every function go out as far as they can. -/
def State.sendAllHeld (s : State) : State :=
  s.funcs.foldl (fun (s : State) p => if p.2.heldReplies = [] then s else s.sendHeld p.1 p.2.heldReplies.length) s

/-- What the host reads in the 4 bytes at `off` of BAR0 of a function (Tables 15.4, 15.5): function control, a vector's
message address, data and control word, the pending bits; all ones elsewhere and from an unbound function.
[PRESUMED, unsafe: log 69] -/
def State.bar0Read (s : State) (f off : Nat) : BitVec 32 :=
  let x := s.func f
  if !s.answers f then BitVec.allOnes 32
  else if off < 0x1000 then BitVec.ofNat 32 (x.control f / 2 ^ (8 * off))
  else if 0x1_0000 ≤ off ∧ off < 0x1_8000 then
    let vec := (off - 0x1_0000) / 16
    if off % 16 = 12 then BitVec.ofNat 32 (!x.unmasked.contains vec).toNat
    else BitVec.ofNat 32 ((Tab.get 0 x.msi vec).toNat / 2 ^ (8 * (off % 16)))
  else if 0x1_8000 ≤ off ∧ off < 0x1_8100 then
    BitVec.ofNat 32 (packN 1 ((List.range 32).map fun i => (x.pendingVec.contains (8 * (off - 0x1_8000) + i)).toNat))
  else BitVec.allOnes 32

/-- RC: the value is returned and the counter clears (R8). -/
def execWakerejRead (f : Nat) (s : State) : Outcome :=
  let t := s.emit (.regData f (s.bar0Read f 16))
  .next (if s.answers f then t.modFunc f fun x => { x with wakerej := 0 } else t)

def execQarejRead (f : Nat) (s : State) : Outcome :=
  let t := s.emit (.regData f (s.bar0Read f 20))
  .next (if s.answers f then t.modFunc f fun x => { x with qarej := 0 } else t)

/-! ## Other register writes (R8, R10, Tables 15.4, 15.5) -/

/-- Vector control of an MSI-X table entry: bit 0 masks; an unmasked pending vector is raised (R447).
[PRESUMED, unsafe: log 69] -/
def State.maskVec (s : State) (f vec : Nat) (mask : Bool) : State :=
  if mask then s.modFunc f fun x => { x with unmasked := x.unmasked.filter (fun v => v ≠ vec) }
  else
    let due := (s.func f).pendingVec.contains vec
    let s := s.modFunc f fun x =>
      { x with
        unmasked := if x.unmasked.contains vec then x.unmasked else x.unmasked ++ [vec]
        pendingVec := x.pendingVec.filter (fun v => v ≠ vec) }
    if due then s.raiseVec f vec else s

/-- The upper or lower half of an MSI-X table entry: message address, or message data below vector control.
[PRESUMED, unsafe: log 69] -/
def State.writeVec (s : State) (f vec : Nat) (upper : Bool) (v : Word) : State :=
  if upper then
    (s.modFunc f fun x => { x with
      msi := Tab.set 0 x.msi vec (v.extractLsb' 0 32 ++ (Tab.get 0 x.msi vec).extractLsb' 0 64) }).maskVec f vec (v.getLsbD 32)
  else s.modFunc f fun x => { x with msi := Tab.set 0 x.msi vec ((Tab.get 0 x.msi vec).extractLsb' 64 32 ++ v) }

/-- An 8-byte write to BAR0 of a function, at an offset that has no row of its own. [PRESUMED, unsafe: log 69] -/
def State.bar0Store (s : State) (f off : Nat) (v : Word) : State :=
  if !s.answers f then s
  else if off = 24 then s.modFunc f fun x => { x with replybase := v &&& ~~~0x3F }
  else if off = 32 then
    s.modFunc f fun x => { x with replylog := v.extractLsb' 0 4, replyvec := v.extractLsb' 4 11 }
  else if 0x1_0000 ≤ off ∧ off < 0x1_8000 ∧ off % 8 = 0 then
    s.writeVec f ((off - 0x1_0000) / 16) (decide (off % 16 = 8)) v
  else s

/-- Configuration space of a function: BAR2's size, by PCI's code of 2^20 bytes and up, where R448 allows it.
[PRESUMED, unsafe: log 118] -/
def State.resizeBar (s : State) (f : Nat) (v : Word) : State :=
  let code := (v.extractLsb' 0 6).toNat
  if s.linkUp && decide (10 ≤ code ∧ code ≤ 19) then s.modFunc f fun x => { x with bar2log := 20 + code } else s

/-- One extension of a measurement register (R460). -/
def State.extend (s : State) (k : Nat) (x : MeasItem) : State :=
  { s with meas := s.meas.set k (s.meas.getD k [] ++ [x]) }

/-- A register that only Nalvel writes: F2 writes the channel weights of die `k` (Table 11.6), or, with 4, F7 extends MEAS11
with region-0 policy number `v` (R460). [DESIGN CHOICE, unsafe: log 98; DESIGN CHOICE, unsafe: log 117] -/
def State.nalvelStore (s : State) (k : Nat) (v : Word) : State :=
  if k < 4 then
    if s.fnAway 2 then s
    else s.modDie k fun x => { x with
      wreq := v.toNat % 16, wwb := v.toNat / 16 % 16, word := v.toNat / 256 % 16, wput := v.toNat / 4096 % 16 }
  else if k = 4 && !s.fnAway 7 then s.extend 11 (.digest (Config.policyDigest v.toNat))
  else s

/-- Space 0 is the device apertures, by offset from their base, as an 8-byte device write; space f + 1 is BAR0 of
function f; space f + 129 its configuration space; the five from 257 on are registers that only Nalvel writes. A register
that its access code does not let be written ignores the write. [DEDUCED, safe: log 70] -/
def execRegisterWrite (space off : Nat) (v : Word) (s : State) : Outcome :=
  match space with
  | 0 =>
    let pa := 0x8_0000_0000_0000 + off
    if paKind pa ≠ .device then .fault (.unmappedPhysical pa) else .next (s.registerStore pa 8 v)
  | f + 1 => .next (if f < 128 then s.bar0Store f off v
      else if f < 256 then s.resizeBar (f - 128) v
      else s.nalvelStore (f - 256) v)

/-! ## The apertures (R453, R456) -/

/-- The catcher takes a wake whenever the module has input power, after a trip too (R456, R491). -/
def execWakeWrite (f : Nat) (cap : BitVec 256) (s : State) : Outcome :=
  .next (if s.power.lost || s.power.stuck.isSome || !s.isBound f then s else s.stageWake (some f) cap)

def execDeviceWakeStore (c off n : Nat) (v : Word) (s : State) : Outcome := .next (s.wakeStore c off n v)

/-- The region whose name a function pushes and writes under. -/
def State.funcRegion (s : State) (f : Nat) : Nat := if f = 0 then 0 else (s.func f).region

/-- A push of a function; one that waits for room stays at the aperture. [DEDUCED, unsafe: log 67] -/
def State.aperturePush (s : State) (f : Nat) (cap : BitVec 256) (r : BitVec 512) : State :=
  if !s.capLive cap then s.modFunc f fun x => { x with qarej := x.qarej + 1 }
  else match s.hubPush (s.funcRegion f) cap r none with
    | some t => t
    | none => let t := s.pushMissing cap none; { t with aperture := t.aperture ++ [(f, cap, r)] }

/-- The oldest waiting aperture push tries again; it has been unsealed, and is discarded once its queue is destroyed (R458).
[DEDUCED, unsafe: log 67] -/
def State.retryAperture (s : State) : State :=
  match s.aperture with
  | [] => s
  | (f, cap, r) :: l =>
    let s : State := { s with aperture := l }
    if s.capLive cap then s.aperturePush f cap r else s

def execQueueApertureWrite (f n : Nat) (data : BitVec 1024) (s : State) : Outcome :=
  .next (if !s.answers f then s
    else if n ≠ 128 ∨ data.extractLsb' 768 256 ≠ 0 then s.modFunc f fun x => { x with qarej := x.qarej + 1 }
    else s.aperturePush f (data.extractLsb' 0 256) (data.extractLsb' 256 512))

/-! ## BAR2 (R448, R32) -/

/-- Where `n` bytes at BAR2 offset `off` of a function lie, or none for an Unsupported Request. -/
def State.bar2Pas (s : State) (f off n : Nat) (write : Bool) : Option (List Nat) :=
  if 2 ^ (s.func f).bar2log < off + n then none
  else if f = 0 then some ((List.range n).map fun i => off + i)
  else match (s.func f).bar2[off / 2 ^ 32]? with
    | none => none
    | some (va, len, r, w) =>
      let at0 := off % 2 ^ 32
      if at0 + n > len * 4096 || !(if write then w else r) then none
      else (List.range n).mapM fun i => s.vaPa (s.asidOf (s.func f).region) (va + at0 + i)

/-- Whether an address lies in the region tables, which only Nalvel writes (R22, R32). [DEDUCED, unsafe: log 68] -/
def inTables (pa : Nat) : Bool := decide (Config.rcbBase ≤ pa ∧ pa < Config.rcbBase + 2 ^ 20)

/-- Runs of addresses that follow each other within one line. -/
def paRuns : List Nat → List (Nat × Nat)
  | [] => []
  | a :: l => match paRuns l with
    | (b, n) :: r => if b = a + 1 ∧ a / 128 = b / 128 then (a, n + 1) :: r else (a, 1) :: (b, n) :: r
    | [] => [(a, 1)]

def State.bar2Byte (s : State) (f pa : Nat) : Byte :=
  if f = 0 && inTables pa then s.tableByte (pa - Config.rcbBase) else s.homeByte pa

/-- A host or peer access: performed at the home slices. [DEDUCED, unsafe: log 68] -/
def execBar2Access (f : Nat) (write : Bool) (off : Nat) (data : List Byte) (n : Nat) (s : State) : Outcome :=
  let region := s.funcRegion f
  let size := if write then data.length else n
  .next (if !s.answers f then (if write then s else s.emit (.bar2Data f (List.replicate n 0xFF)))
    else match s.bar2Pas f off size write with
      | none => s.emit (.bar2Fail f)
      | some pas =>
        let s := if f = 0 then s else (lineParts off size).foldl (fun (s : State) p =>
          ((s.func f).bar2[off / 2 ^ 32]?).elim s fun e =>
            s.walkReads region (s.asidOf region) (e.1 + (p.1 * 128 + p.2.1) % 2 ^ 32)) s
        if write then
          let l := (pas.zip data).filter fun p => !(f = 0 && inTables p.1)
          let s := (paRuns (l.map (·.1))).foldl (fun (s : State) p =>
            s.sliceWrite region .normal (p.1 / 128) (lineMask (p.1 % 128) p.2)) s
          l.foldl (fun (s : State) p => s.setHomeByte p.1 p.2) s
        else
          let runs := paRuns pas
          let s := runs.foldl (fun (s : State) p =>
            s.sliceRead region .normal (p.1 / 128) (lineMask (p.1 % 128) p.2)) s
          if runs.any fun p => s.lineBad (p.1 / 128) (lineMask (p.1 % 128) p.2) then s.emit (.bar2Fail f)
          else s.emit (.bar2Data f (pas.map (s.bar2Byte f))))

/-! ## Peer reads (R449) -/

/-- Load `k` of context `c`, of a peer device, gets no completion within 50 ms: it reads as all ones and raises DATA.
[DEDUCED, unsafe: log 68] -/
def execPeerReadTimeout (c k : Nat) (s : State) : Outcome :=
  .next (match (s.ctx c).loads[k]? with
  | none => s
  | some o =>
    let peer := ((s.vaPa (s.asidAt c) o.va.toNat).bind s.peerAt).isSome
    if !o.ext || o.bad.isSome || !peer then s
    else
      let bad : FaultRec := ⟨0x08, 1, 0, o.pc, o.va, 0⟩
      s.modCtx c fun x => { x with
        loads := x.loads.set k { o with bad := some bad }
        a := x.a.write (o.wrExt (2 ^ (8 * o.size) - 1)) })

end Sys2Proof.Machine
end

