-- ==== Sys2Proof/Machine/Trust.lean ====
section
/-! DEFINITION. Machine/Trust.lean: live replacement (spec/15_firmware_host_trust.md R462 to R465), measurement and
attestation (R460, R461). -/

namespace Sys2Proof.Machine

/-! ## Measurement (R460) -/

/-- Version and digest of the image that a function's stock slot holds. -/
def State.stockOf (s : State) (fn : Nat) : Nat × BitVec 256 :=
  ((s.nal fn).stock).getD (Config.stockVersion fn, Config.imageDigest (fn + 1))

/-! ## GRAFT (R462) -/

/-- The reply comes when the signature has been checked. An image that HBM does not hold is refused.
[DEDUCED, unsafe: log 72] -/
def State.beginGraft (s : State) (q : Req) (fn addr len : Nat) : State × Option Answer :=
  let inUse := (List.range 8).any fun k => decide ((s.nal k).graft ≠ .stock) || ((s.nal k).graftReq).isSome
  if q.func ≠ 0 then (s, some .denied)
  else if 8 ≤ fn ∨ 0x80_0000_0000 < addr + len then (s, some .refused)
  else if (s.nal fn).graftReq = some q then (s, none)
  else if inUse then (s, some .busy)
  else (s.modNal fn fun n => { n with graftReq := some q }, none)

def execGraft (q : Req) (s : State) : Outcome :=
  .next (s.serve 7 q fun s => match q.args with
    | .graft fn addr len => s.beginGraft q fn addr len
    | _ => (s, some .badMsg))

/-- SHA3-256 of the image that a GRAFT names. -/
def State.imageAt (s : State) (q : Req) : BitVec 256 :=
  match q.args with
  | .graft _ addr len => BitVec.ofNat 256 (ofBytes (sha3 (s.homeRead addr len)))
  | _ => 0

/-- F7 has checked the signature, which covers the digest that comes with it: with a good one over the image that HBM holds,
LOADED, the image copied; else STOCK with the reply REFUSED. [DEDUCED, unsafe: log 72] -/
def execGraftVerified (fn : Nat) (good : Bool) (version : Nat) (digest : BitVec 256) (s : State) : Outcome :=
  .next (match (s.nal fn).graftReq, s.fnAway 7 with
  | some q, false =>
    let good := good && digest = s.imageAt q
    let s := s.modNal fn fun n => { n with graftReq := none }
    let s := if good then s.modNal fn fun n =>
        { n with graft := .loaded, graftVersion := version, graftDigest := digest }
      else s
    s.serve 7 q fun s => (s, some (if good then .ok else .refused))
  | _, _ => s)

/-- The stock's TAKEN messages are POSTED again, ahead of the rest and in their order. [DEDUCED, unsafe: log 72] -/
def Nalvel.giveBack (n : Nalvel) : Nalvel :=
  { n with mail := ((n.mail.filter (·.2)).map fun p => (p.1, false)) ++ n.mail.filter fun p => !p.2 }

/-- The hand-over record (Table 15.13). [DEDUCED, unsafe: log 72] -/
def handoffRecord (schema fn : Nat) (seq stockver : Nat) (body : List Byte) : List Byte :=
  bytesOf 64 (schema % 2 ^ 16 + fn % 8 * 2 ^ 16 + body.length % 2 ^ 32 * 2 ^ 32 + (crc32c body).toNat * 2 ^ 64 +
    seq % 2 ^ 32 * 2 ^ 96 + stockver % 2 ^ 64 * 2 ^ 128) ++ body

/-- The function's 64 KiB Nalvel area. -/
def areaOf (fn : Nat) : Nat := Config.nalvelArea fn % 2 ^ 23 * 0x10000

/-- The stock quiesces: its TAKEN messages return, it writes its record and halts. The graft starts when the hub next turns
to it. [DEDUCED, unsafe: log 72] -/
def execHandover (fn schema len : Nat) (body : List Byte) (s : State) : Outcome :=
  let n := s.nal fn
  .next (if n.graft ≠ .loaded ∨ body.length ≠ len ∨ 65472 < len then s
  else (s.modNal fn fun n => { n.giveBack with graft := .handover, seq := n.seq + 1 }).writeHome 0 .normal (areaOf fn)
    (handoffRecord schema fn (n.seq + 1) (s.stockOf fn).1 body))

/-- COMMIT: the graft becomes the stock. A later write finds no trial and is ignored (R464).
[DEDUCED, unsafe: log 72] -/
def execCommitRegisterWrite (fn : Nat) (s : State) : Outcome :=
  let n := s.nal fn
  .next (if n.graft ≠ .trial then s
  else
    (s.modNal fn fun n => { n with graft := .committed, stock := some (n.graftVersion, n.graftDigest) }).extend 15
      (.log fn 0 n.graftVersion))

/-- Reversion: the graft halts, its TAKEN messages return, the stock is measured again, and REVERT goes to every region; the
stock resumes when the hub next turns to it. [DEDUCED, unsafe: log 72] -/
def State.revert (s : State) (fn cause : Nat) : State :=
  if (s.nal fn).graft ≠ .trial then s
  else
    let (version, digest) := s.stockOf fn
    let s := s.modNal fn fun n => { n.giveBack with graft := .reverted }
    let s := (s.extend (1 + fn) (.digest digest)).extend 15 (.log fn cause version)
    s.postAll s.liveRegions ev.revert (fn + cause * 16) version

def execRefuse (fn : Nat) (s : State) : Outcome := .next (s.revert fn 3)

/-- A graft of schema `n` accepts a record of schema n or n - 1 whose body has its CRC (R463). -/
def acceptsRecord (n : Nat) (head body : List Byte) : Bool :=
  let schema := ofBytes (head.take 2)
  (schema = n || schema + 1 = n) && ofBytes ((head.drop 8).take 4) = (crc32c body).toNat

/-- The graft starts at its entry: MEAS(1 + function) and MEAS15 are extended, REMEASURE goes to every region, and the graft
reads the record, which it may refuse (R462, R463). [DEDUCED, unsafe: log 72] -/
def State.startGraft (s : State) (fn : Nat) : State :=
  let n := s.nal fn
  let s := s.modNal fn fun n => { n with graft := .trial, trialStart := s.now, beat := 0 }
  let s := (s.extend (1 + fn) (.digest n.graftDigest)).extend 15 (.log fn 0 n.graftVersion)
  let s := s.postAll s.liveRegions ev.remeasure (fn + (1 + fn) * 16) n.graftVersion
  let (s, head) := s.readHome 0 .normal (areaOf fn) 64
  let (s, body) := s.readHome 0 .normal (areaOf fn + 64) (Nat.min 65472 (ofBytes ((head.drop 4).take 4)))
  if acceptsRecord (Config.graftSchema n.graftDigest) head body then s else s.revert fn 3

/-- Whole milliseconds of the trial at time `t`. -/
def Nalvel.trialMs (n : Nalvel) (t : Nat) : Nat := (t - n.trialStart) / 1000000

/-- The watchdog: three whole milliseconds in a row with no heartbeat revert with cause 2, 500 ms without COMMIT with cause
1, whichever comes first (R464). -/
def State.watch (s : State) (fn : Nat) : State :=
  let n := s.nal fn
  let ms := n.trialMs s.now
  if n.graft ≠ .trial then s
  else if n.beat + 3 ≤ Nat.min ms 500 then s.revert fn 2
  else if 500 ≤ ms then s.revert fn 1
  else s

/-- The 500 ms of a trial are over. The watchdog acts at the hub's next turn, so that a COMMIT of the same hub cycle prevails
(R464). [DESIGN CHOICE, unsafe: log 9] -/
def execTrialExpiry (fn : Nat) (s : State) : Outcome :=
  let n := s.nal fn
  .next (if n.graft = .trial then { s with now := Nat.max s.now (n.trialStart + 500000000) } else s)

/-- A heartbeat marks the millisecond that it falls in. [DESIGN CHOICE, unsafe: log 9] -/
def execHeartbeat (fn t : Nat) (s : State) : Outcome :=
  let t := Nat.max s.now t
  .next (({ s with now := t } : State).modNal fn fun n =>
    if n.graft = .trial then { n with beat := n.trialMs t + 1 } else n)

/-- The watchdog looks at time `t`. -/
def execHeartbeatMissed (fn t : Nat) (s : State) : Outcome :=
  .next (({ s with now := Nat.max s.now t } : State).watch fn)

/-- What follows in a function's replacement: the graft starts, the watchdog looks at its trial, or the stock, old or new,
goes on. -/
def State.replacement (s : State) (fn : Nat) : State :=
  match (s.nal fn).graft with
  | .handover => s.startGraft fn
  | .trial => s.watch fn
  | .committed | .reverted => s.modNal fn fun n => { n with graft := .stock }
  | .stock | .loaded => s

/-- The replacements go on, at the hub's turn. -/
def State.replacements (s : State) : State := (List.range 8).foldl State.replacement s

/-! ## SPDM (R461) -/

def State.spdmOf (s : State) (f : Nat) : Spdm := Tab.get {} s.spdm f
def State.modSpdm (s : State) (f : Nat) (g : Spdm → Spdm) : State :=
  { s with spdm := Tab.set {} s.spdm f (g (s.spdmOf f)) }

/-- The function number that stands for the management connector (R494). -/
def mgmt : Nat := 128

/-- Whether a request reaches F7: every function has its DOE mailbox, bound or not; the management interface keeps power
after a trip and in a module whose bring-up has stopped (R461, R491, R493, R494). -/
def State.spdmReaches (s : State) (f : Nat) : Bool := if f < 128 then s.linkUp else f = mgmt && !s.power.lost

/-- F7 is being replaced: ResponseNotReady. [PRESUMED, unsafe: log 74] -/
def State.f7Away (s : State) : Bool := decide ((s.nal 7).graft = .handover ∨ (s.nal 7).graft = .trial)

/-- ERROR (SPDM 1.3): ResponseNotReady 0x42, UnexpectedRequest 0x04, InvalidRequest 0x01, DecryptError 0x06.
[PRESUMED, unsafe: log 74] -/
def State.spdmError (s : State) (f code : Nat) : State := s.emit (.doe f 0x7F [BitVec.ofNat 256 code])

/-- F7 answers a request that reaches it, when the requests that must come before it have been answered.
[PRESUMED, unsafe: log 74] -/
def State.spdmAnswer (s : State) (f : Nat) (ready : Spdm → Bool) (go : State → State) : Outcome :=
  .next (if !s.spdmReaches f then s
    else if s.f7Away then s.spdmError f 0x42
    else if !ready (s.spdmOf f) then s.spdmError f 0x04
    else go s)

/-- GET_VERSION begins a new connection. -/
def execGetVersion (f : Nat) (s : State) : Outcome :=
  s.spdmAnswer f (fun _ => true) fun s =>
    (s.modSpdm f fun x => { versionDone := true, keyGen := x.keyGen }).emit (.doe f 0x04 [0x1300])

def execGetCapabilities (f : Nat) (s : State) : Outcome :=
  s.spdmAnswer f (·.versionDone) fun s =>
    (s.modSpdm f fun x => { x with capsDone := true }).emit (.doe f 0x61 [Config.attest 1 []])

/-- ML-DSA-65, SHA3-256, ECDHE on P-384 and AES-256-GCM. -/
def execNegotiateAlgorithms (f : Nat) (s : State) : Outcome :=
  s.spdmAnswer f (·.capsDone) fun s =>
    (s.modSpdm f fun x => { x with algsDone := true }).emit (.doeAlgorithms f [.mlDsa65, .sha3256, .ecdheP384, .aes256Gcm])

/-- The digest of the chain in slot 0. -/
def execGetDigests (f : Nat) (s : State) : Outcome :=
  s.spdmAnswer f (·.algsDone) fun s => s.emit (.doe f 0x01 [Config.attest 3 []])

/-- Slot 0 holds the chain to the device identity key; no other slot holds one. -/
def execGetCertificate (f slot : Nat) (s : State) : Outcome :=
  s.spdmAnswer f (·.algsDone) fun s =>
    if slot = 0 then s.emit (.doe f 0x02 [Config.attest 4 []]) else s.spdmError f 0x01

/-- SHA3-256 of the control block of a function's region and of those of its ancestors, the region's first. -/
def State.rcbDigest (s : State) (r : Nat) : BitVec 256 :=
  BitVec.ofNat 256 (ofBytes (sha3 ((s.lineage 8 r).flatMap fun x => bytesOf 128 ((s.regionD x).rcb x))))

/-- Measurement blocks as function `f` sees them: 0 to 15 the registers, 16 for a bound VF its region's control blocks. -/
def State.measBlock (s : State) (f k : Nat) : Option (BitVec 256) :=
  if k < 16 then some (s.measOf k)
  else if k = 16 ∧ f ≠ 0 ∧ s.isBound f then some (s.rcbDigest (s.func f).region)
  else none

def State.measBlocks (s : State) (f : Nat) : List (BitVec 256) := (List.range 17).filterMap (s.measBlock f)

/-- A challenge is answered with a signature over the nonce and the measurements. [DESIGN CHOICE, safe: log 73] -/
def execChallenge (f slot : Nat) (nonce : BitVec 256) (s : State) : Outcome :=
  s.spdmAnswer f (·.algsDone) fun s =>
    if slot = 0 then
      s.emit (.doe f 0x03 [nonce, Config.attest 5 (nonce.toNat :: (s.measBlocks f).map (·.toNat))])
    else s.spdmError f 0x01

/-- GET_MEASUREMENTS: one block by its number, or, for 0xFF, every block. [DESIGN CHOICE, safe: log 73] -/
def execGetMeasurements (f which : Nat) (s : State) : Outcome :=
  s.spdmAnswer f (·.algsDone) fun s =>
    if which = 0xFF then s.emit (.doe f 0x60 (s.measBlocks f))
    else match s.measBlock f which with
      | some m => s.emit (.doe f 0x60 [m])
      | none => s.spdmError f 0x01

def execKeyExchange (f : Nat) (s : State) : Outcome :=
  s.spdmAnswer f (·.algsDone) fun s =>
    let s := s.modSpdm f fun x => { x with session := true, established := false, keyGen := x.keyGen + 1 }
    s.emit (.doe f 0x64 [Config.attest 6 [f, (s.spdmOf f).keyGen]])

/-- FINISH establishes the session when the requester's MAC is right. [DESIGN CHOICE, safe: log 73] -/
def execFinish (f : Nat) (macOk : Bool) (s : State) : Outcome :=
  s.spdmAnswer f (·.session) fun s =>
    if macOk then
      let s := s.modSpdm f fun x => { x with established := true }
      s.emit (.doe f 0x65 [Config.attest 7 [f, (s.spdmOf f).keyGen]])
    else (s.modSpdm f fun x => { x with session := false, established := false }).spdmError f 0x06

def execKeyUpdate (f : Nat) (s : State) : Outcome :=
  s.spdmAnswer f (·.established) fun s =>
    (s.modSpdm f fun x => { x with keyGen := x.keyGen + 1 }).emit (.doe f 0x69 [])

def execEndSession (f : Nat) (s : State) : Outcome :=
  s.spdmAnswer f (·.established) fun s =>
    (s.modSpdm f fun x => { x with session := false, established := false }).emit (.doe f 0x6C [])

end Sys2Proof.Machine
end

