-- ==== Sys2Proof/Machine/Power.lean ====
section
/-! DEFINITION. Machine/Power.lean: the power cap, throttling, trips, module reset, sensors and the management connector
(spec/19_module_power_bringup.md R487 to R494, spec/15_firmware_host_trust.md R456). -/

namespace Sys2Proof.Machine

/-! ## SET-POWERCAP (R488) -/

def State.setCap (s : State) (q : Req) (w : Nat) : State × Option Answer :=
  if q.func ≠ 0 then (s, some .denied)
  else if w < 1500 ∨ 3400 < w then (s, some .refused)
  else ({ s with power := { s.power with cap := w } }, some .ok)

def execSetPowercap (q : Req) (s : State) : Outcome :=
  .next (s.serve 6 q fun s => match q.args with
    | .setPowercap w => s.setCap q w
    | _ => (s, some .badMsg))

/-! ## Throttling (R489, R490) -/

/-- Pairs of a quantity and its limit: input power and the cap, junctions and 100 °C, stacks and 95 °C.
[DEDUCED, unsafe: log 75] -/
def Reading.limits (r : Reading) (cap : Nat) : List (Nat × Nat) :=
  (r.pin, cap) :: (r.thub, 100) :: (r.tdie.map fun t => (t, 100)) ++ r.thbm.map fun t => (t, 95)

/-- A junction at 115 °C or a stack at 105 °C (Table 19.1). -/
def Reading.trips (r : Reading) : Bool :=
  decide (115 ≤ r.thub) || (r.tdie.any fun t => decide (115 ≤ t)) || r.thbm.any fun t => decide (105 ≤ t)

def overLimit (l : List (Nat × Nat)) : Bool := l.any fun p => p.2 < p.1
/-- Every quantity is 5 % below its limit. [DEDUCED, unsafe: log 75] -/
def calmLimits (l : List (Nat × Nat)) : Bool := l.all fun p => 100 * p.1 ≤ 95 * p.2

/-- The hottest core die, the lowest number on a tie. -/
def Reading.hottest (r : Reading) : Nat :=
  (List.range 4).foldl (fun b d => if nth0 r.tdie b < nth0 r.tdie d then d else b) 0

/-- THROTTLE goes to every top-level region. -/
def State.throttleEvent (s : State) (stage : Nat) (entry : Bool) : State :=
  s.postAll (s.liveRegions.filter fun r => (s.regionD r).level = 1) 0x50 (stage + entry.toNat * 16) 0

def State.setMhz (s : State) (d mhz : Nat) : State := s.modDie d fun x => { x with mhz := mhz }

/-- A stage comes into force; the buckets keep their levels. -/
def State.setStage (s : State) (n : Nat) : State :=
  let s := ((List.range 8).foldl State.settleBuckets s).settleFab
  { s with power := { s.power with stage := n } }

/-- The next throttling action. [DEDUCED, unsafe: log 75] -/
def State.throttle (s : State) (r : Reading) : State :=
  let d := Reading.hottest r
  let lower (s : State) : State := s.setMhz d ((s.die d).mhz - 50)
  match s.power.stage with
  | 0 => (s.setStage 1).throttleEvent 1 true
  | 1 => (lower (s.setStage 2)).throttleEvent 2 true
  | 2 =>
    if 700 < (s.die d).mhz then lower s
    else ((List.range 4).foldl (fun (s : State) d => s.setMhz d 700) (s.setStage 3)).throttleEvent 3 true
  | 3 =>
    let s := s.setStage 4
    ({ s with power := { s.power with l2mhz := 1000 } } : State).throttleEvent 4 true
  | _ => s

/-- One step of leaving the stage in force; the 10 ms begin again when it has been left. [DEDUCED, unsafe: log 75] -/
def State.relax (s : State) (t : Nat) : State :=
  let left (s : State) (n : Nat) : State :=
    let s := s.setStage (n - 1)
    ({ s with power := { s.power with calmSince := some t } } : State).throttleEvent n false
  match s.power.stage with
  | 4 => left { s with power := { s.power with l2mhz := 1400 } } 4
  | 3 => left s 3
  | 2 =>
    let s := (List.range 4).foldl (fun (s : State) d => s.setMhz d (Nat.min 1050 ((s.die d).mhz + 50))) s
    if (List.range 4).all fun d => (s.die d).mhz = 1050 then left s 2 else s
  | 1 => left s 1
  | _ => s

/-! ## Trips (R491, R456) -/

/-- What remains of a module whose dies have lost power. [DEDUCED, unsafe: log 76] -/
def State.dark (s : State) : State :=
  { dies := List.replicate 4 {}, free := s.free, now := s.now, hostMem := s.hostMem, modid := s.modid, outbox := s.outbox
    cores := Tab.mapVals {} s.cores fun k => { dead := k.dead, phys := k.phys } }

/-- A trip: the alert, and only the wake catcher with what it unseals by, the measurement registers and the management
interface keep power (R456, R491). [DEDUCED, unsafe: log 76] -/
def State.trip (s : State) : State :=
  let t : State := { s.dark with
    dies := s.dies.map fun d => { spares := d.spares }
    wakes := s.wakes, staged := s.staged, withheld := s.withheld, meas := s.meas, spdm := s.spdm
    queues := Tab.mapVals {} s.queues fun q => { q with st := .stopped }
    funcs := Tab.mapVals {} s.funcs fun f => { bound := f.bound, region := f.region }
    power := { s.power with tripped := true } }
  t.emit .alert

def execThermalTrip (s : State) : Outcome := .next s.trip

/-! ## Comparisons (R489) -/

/-- One comparison of F6, and the trip of a limit that is reached; F6's own actions wait while it is being replaced (R465).
[DEDUCED, unsafe: log 75] -/
def execPowerComparison (r : Reading) (t : Nat) (s : State) : Outcome :=
  let t := Nat.max s.now t
  let s : State := { s with now := t }
  let l := Reading.limits r s.power.cap
  .next (if Reading.trips r then s.trip
    else if s.fnAway 6 then s
    else if overLimit l then ({ s with power := { s.power with calmSince := none } } : State).throttle r
    else if !calmLimits l then { s with power := { s.power with calmSince := none } }
    else match s.power.calmSince with
      | none => { s with power := { s.power with calmSince := some t } }
      | some t0 => if t0 + 10000000 ≤ t then s.relax t else s)

/-! ## Reset and loss of power (R493) -/

/-- Everything loses power. [DEDUCED, unsafe: log 76] -/
def execInputPowerLoss (s : State) : Outcome :=
  .next { s.dark with
    dies := s.dies.map fun d => { spares := d.spares }
    meas := List.replicate 16 []
    power := { lost := true } }

/-- The core that stands at a position, as the self-test numbers it. -/
def State.testId (s : State) (k : Nat) : Nat :=
  if (s.core k).phys = 0 then k else 96 + 2 * dieOfCore k + ((s.core k).phys - 1)

/-- A spare that has passed the self-test takes position `k`; without one the position is dead (R493 step 5, R290). -/
def State.mapSpare (s : State) (n k : Nat) : State :=
  let d := dieOfCore k
  match (List.range 2).find? fun j => 2 - (s.die d).spares ≤ j && !Config.selfTestFails n (96 + 2 * d + j) with
  | some j => (s.modDie d fun x => { x with spares := 1 - j }).modCore k fun x => { x with phys := j + 1 }
  | none => (s.modDie d fun x => { x with spares := 0 }).modCore k fun x => { x with dead := true }

/-- The self-test of every position that is not dead. -/
def State.selfTest (s : State) (n : Nat) : State :=
  (List.range Config.cores).foldl (fun (s : State) k =>
    if !(s.core k).dead && Config.selfTestFails n (s.testId k) then s.mapSpare n k else s) s

/-- Module reset and the bring-up sequence, whose self-test is number `n`: the Reset values, HBM of zeros, region 0 alone.
Positions that were marked dead stay dead, and dead ones lower region 0's CORES; host memory is not touched.
[DEDUCED, unsafe: log 76; DESIGN CHOICE, safe: log 102] -/
def State.moduleReset (s : State) (n : Nat) : State :=
  let r := State.reset
  let r := State.selfTest { r with
    free := s.free, now := s.now, hostMem := s.hostMem, outbox := s.outbox
    cores := Tab.mapVals {} s.cores fun k => { dead := k.dead, phys := k.phys }
    dies := s.dies.map fun d => { Die.reset with spares := d.spares } } n
  { r with regions := [(0, some { Region.root with cores := 96 - (r.cores.filter fun p => p.2.dead).length })] }

/-- A bring-up whose step `k` fails: the module stays as in step 1, with the loader measured and PCIe disabled, and the step
is reported (R493). [DEDUCED, unsafe: log 76] -/
def State.bringupFailed (s : State) (k : Nat) : State :=
  ({ s.dark with
    dies := s.dies.map fun d => { spares := d.spares }
    meas := [.image 0] :: List.replicate 15 []
    power := { stuck := some k } } : State).emit (.bringupFailed k)

/-- A module outside its input range does not start (R487). [DEDUCED, unsafe: log 76] -/
def State.notStarted (s : State) : State :=
  { s.dark with
    dies := s.dies.map fun d => { spares := d.spares }
    meas := List.replicate 16 []
    power := { stuck := some 0 } }

/-- Module reset: outside 48 to 60 V the module does not start; else its bring-up may fail in a step. The voltage and the step
are free values. [DEDUCED, unsafe: log 76; DESIGN CHOICE, safe: log 102] -/
def execModuleReset (s : State) : Outcome :=
  let t := { s with free := s.free + 1 }
  let v := Config.inputVoltage s.free
  .next (if v < 4800 ∨ 6000 < v then t.notStarted
    else match Config.bringupFails s.free with
    | none => t.moduleReset s.free
    | some k => t.bringupFailed (k.val + 1))

/-! ## Sensors (R494) -/

/-- Table 19.4 without STAGE and CAP. -/
def Reading.bits (r : Reading) : BitVec 256 :=
  BitVec.ofNat 256 (r.vin % 2 ^ 16 + r.pin % 2 ^ 16 * 2 ^ 16 + r.tin % 2 ^ 8 * 2 ^ 32 + r.tout % 2 ^ 8 * 2 ^ 40 +
    r.flow % 2 ^ 16 * 2 ^ 48 + packN 8 ((List.range 4).map fun d => nth0 r.tdie d % 256) * 2 ^ 64 +
    r.thub % 2 ^ 8 * 2 ^ 96 + packN 8 ((List.range 8).map fun k => nth0 r.thbm k % 256) * 2 ^ 104)

def execSensorRefresh (r : Reading) (s : State) : Outcome :=
  .next { s with power := { s.power with sensor := Reading.bits r } }

/-- Position and width of a sensor's field in the block: VIN, PIN, TIN, TOUT, FLOW, TDIE 0 to 3, THUB, THBM 0 to 7, STAGE,
CAP. [PRESUMED, unsafe: log 77] -/
def sensorField (k : Nat) : Option (Nat × Nat) :=
  match k with
  | 0 => some (0, 16) | 1 => some (16, 16) | 2 => some (32, 8) | 3 => some (40, 8) | 4 => some (48, 16)
  | 9 => some (96, 8) | 18 => some (168, 3) | 19 => some (171, 12)
  | _ => if 5 ≤ k ∧ k ≤ 8 then some (64 + 8 * (k - 5), 8) else if 10 ≤ k ∧ k ≤ 17 then some (104 + 8 * (k - 10), 8) else none

/-- A PLDM request for a numeric sensor is answered with its field of the block. [PRESUMED, unsafe: log 77] -/
def execPldmRequest (k : Nat) (s : State) : Outcome :=
  .next (match sensorField k with
  | some (lo, n) => s.emit (.pldm k (s.power.block / 2 ^ lo % 2 ^ n))
  | none => s)

end Sys2Proof.Machine
end

