-- ==== Sys2Proof/Machine/Vector.lean ====
section
/-! DEFINITION. Machine/Vector.lean: the V-slot instructions (spec/06_vector_lanes.md R165 to R185, spec/03 R90),
with the operands, latencies and destinations of Table 6.3. -/

namespace Sys2Proof.Machine

/-! ## Types -/

def intBits : IntTy → Nat
  | .w8 => 8 | .w16 => 16 | .w32 => 32
def mulBits : MulTy → Nat
  | .w16 => 16 | .w32 => 32
def fpFmt : FpTy → Fmt
  | .f32 => .f32 | .f16 => .f16 | .bf16 => .bf16
/-- Element bits of a size code (R163). -/
def szBits (sz : BitVec 2) : Nat := 8 * 2 ^ sz.toNat

/-- 1.0 in a format. -/
def Fmt.oneBits (f : Fmt) : Word := BitVec.ofNat 64 (f.bias * 2 ^ f.mb)

/-- Selector 49 in a conversion's source type (R50). -/
def tyOne : Vec.Ty → Word
  | .fp f => Fmt.oneBits f
  | .int _ => 1

/-! ## Shapes -/

/-- An element operation of two v operands. -/
def State.vec2 (s : State) (k : Nat) (d : Dst) (a b : Src) (mask : BitVec 4) (f : Nat → Nat → Nat) : Res State := do
  let (x, y) ← Res.both (s.srcV a s.cur.width k) (s.srcV b s.cur.width k)
  return s.putV d 2 (Vec.map2 k s.cur.width (s.act mask) x y fun p q => (f p q, 0))

/-- An FP element operation of two v operands (R169). -/
def State.vfp2 (s : State) (t : FpTy) (d : Dst) (a b : Src) (mask : BitVec 4) (f : Fmt → Nat → Nat → Nat × Word) :
    Res State := do
  let k := (fpFmt t).bits
  let (x, y) ← Res.both (s.srcV a s.cur.width k (fpOne t)) (s.srcV b s.cur.width k (fpOne t))
  return s.putV d 4 (Vec.map2 k s.cur.width (s.act mask) x y (f (fpFmt t)))

/-- A compare into a mask (R168, R171). -/
def State.vcmp (s : State) (k : Nat) (d : BitVec 6) (a b : Src) (mask : BitVec 4) (one : Word)
    (f : Nat → Nat → Bool × Word) : Res State := do
  let (x, y) ← Res.both (s.srcV a s.cur.width k one) (s.srcV b s.cur.width k one)
  let r := Vec.cmp k s.cur.width (s.act mask) x y f
  return s.push 1 [.m (d.toNat % 16) (BitVec.ofNat 128 r.1) (BitVec.ofNat 128 (onesN (s.cur.width / 8)))] none r.2

/-- A special function (R172); each active element has its own free value. -/
def State.vspecial (s : State) (fn : SpFn) (d : Dst) (a : Src) (mask : BitVec 4) : Res State := do
  let x ← s.srcV a s.cur.width 32 oneF32
  let o := Vec.ewise 32 s.cur.width (s.act mask) fun i => fn.eval (s.free + i) (eltN 32 x i)
  return ({ s with free := s.free + 32 } : State).putV d 8 o

/-- A reduction (R176). -/
def State.vreduce (s : State) (op : Vec.RedOp) (t : RedTy) (d : Dst) (a : Src) (mask : BitVec 4) : Res State := do
  let f32 := decide (t = .f32)
  let x ← s.srcV a s.cur.width 32 (if f32 then oneF32 else 1)
  return s.putV d (if f32 then 8 else 4)
    (Vec.reduce op f32 (Profile.of s.cur.profile).balanced s.cur.width (s.act mask) x)

/-! ## Integer and bitwise operations (Table 6.4) -/

def execVadd (t : IntTy) (d : Dst) (a b : Src) (mask : BitVec 4) (s : State) : Outcome :=
  s.slot (.vadd t d a b mask) (s.vec2 (intBits t) d a b mask (Vec.add (intBits t)))
def execVsub (t : IntTy) (d : Dst) (a b : Src) (mask : BitVec 4) (s : State) : Outcome :=
  s.slot (.vsub t d a b mask) (s.vec2 (intBits t) d a b mask (Vec.sub (intBits t)))
def execVadds (t : IntTy) (d : Dst) (a b : Src) (mask : BitVec 4) (s : State) : Outcome :=
  s.slot (.vadds t d a b mask) (s.vec2 (intBits t) d a b mask (Vec.adds (intBits t)))
def execVsubs (t : IntTy) (d : Dst) (a b : Src) (mask : BitVec 4) (s : State) : Outcome :=
  s.slot (.vsubs t d a b mask) (s.vec2 (intBits t) d a b mask (Vec.subs (intBits t)))
def execVmul (t : MulTy) (d : Dst) (a b : Src) (mask : BitVec 4) (s : State) : Outcome :=
  s.slot (.vmul t d a b mask) (s.vec2 (mulBits t) d a b mask (Vec.mul (mulBits t)))
def execVmulh (t : MulTy) (d : Dst) (a b : Src) (mask : BitVec 4) (s : State) : Outcome :=
  s.slot (.vmulh t d a b mask) (s.vec2 (mulBits t) d a b mask (Vec.mulh (mulBits t)))
def execVmin (t : IntTy) (d : Dst) (a b : Src) (mask : BitVec 4) (s : State) : Outcome :=
  s.slot (.vmin t d a b mask) (s.vec2 (intBits t) d a b mask (Vec.min (intBits t)))
def execVmax (t : IntTy) (d : Dst) (a b : Src) (mask : BitVec 4) (s : State) : Outcome :=
  s.slot (.vmax t d a b mask) (s.vec2 (intBits t) d a b mask (Vec.max (intBits t)))
def execVminn (t : IntTy) (d : Dst) (a b : Src) (mask : BitVec 4) (s : State) : Outcome :=
  s.slot (.vminn t d a b mask) (s.vec2 (intBits t) d a b mask Vec.minn)
def execVmaxn (t : IntTy) (d : Dst) (a b : Src) (mask : BitVec 4) (s : State) : Outcome :=
  s.slot (.vmaxn t d a b mask) (s.vec2 (intBits t) d a b mask Vec.maxn)
def execVshl (t : IntTy) (d : Dst) (a b : Src) (mask : BitVec 4) (s : State) : Outcome :=
  s.slot (.vshl t d a b mask) (s.vec2 (intBits t) d a b mask (Vec.shl (intBits t)))
def execVshr (t : IntTy) (d : Dst) (a b : Src) (mask : BitVec 4) (s : State) : Outcome :=
  s.slot (.vshr t d a b mask) (s.vec2 (intBits t) d a b mask (Vec.shr (intBits t)))
def execVasr (t : IntTy) (d : Dst) (a b : Src) (mask : BitVec 4) (s : State) : Outcome :=
  s.slot (.vasr t d a b mask) (s.vec2 (intBits t) d a b mask (Vec.asr (intBits t)))
def execVand (d : Dst) (a b : Src) (mask : BitVec 4) (s : State) : Outcome :=
  s.slot (.vand d a b mask) (s.vec2 8 d a b mask (· &&& ·))
def execVor (d : Dst) (a b : Src) (mask : BitVec 4) (s : State) : Outcome :=
  s.slot (.vor d a b mask) (s.vec2 8 d a b mask (· ||| ·))
def execVxor (d : Dst) (a b : Src) (mask : BitVec 4) (s : State) : Outcome :=
  s.slot (.vxor d a b mask) (s.vec2 8 d a b mask (· ^^^ ·))
def execVnot (d : Dst) (a : Src) (mask : BitVec 4) (s : State) : Outcome :=
  s.slot (.vnot d a mask) (s.vec2 8 d a (.special .zero) mask fun x _ => 255 - x)
/-- R167. -/
def execVsel (d : Dst) (a b : Src) (c : BitVec 6) (mask : BitVec 4) (s : State) : Outcome :=
  s.slot (.vsel d a b c mask) (do
    let (x, y) ← Res.both (s.srcV a s.cur.width 8) (s.srcV b s.cur.width 8)
    return s.putV d 2 (Vec.sel s.cur.width (s.act mask) x y (s.mreg c.toNat).toNat))

/-! ## Compares (R168, R171) -/

def execVcmpeq (t : IntTy) (d : BitVec 6) (a b : Src) (mask : BitVec 4) (s : State) : Outcome :=
  s.slot (.vcmpeq t d a b mask) (s.vcmp (intBits t) d a b mask 1 fun x y => (decide (x = y), 0))
def execVcmplt (t : IntTy) (d : BitVec 6) (a b : Src) (mask : BitVec 4) (s : State) : Outcome :=
  s.slot (.vcmplt t d a b mask) (s.vcmp (intBits t) d a b mask 1 fun x y => (decide (sextN (intBits t) x < sextN (intBits t) y), 0))
def execVcmpltn (t : IntTy) (d : BitVec 6) (a b : Src) (mask : BitVec 4) (s : State) : Outcome :=
  s.slot (.vcmpltn t d a b mask) (s.vcmp (intBits t) d a b mask 1 fun x y => (decide (x < y), 0))
def execVfcmpeq (t : FpTy) (d : BitVec 6) (a b : Src) (mask : BitVec 4) (s : State) : Outcome :=
  s.slot (.vfcmpeq t d a b mask) (s.vcmp (fpFmt t).bits d a b mask (fpOne t) ((fpFmt t).compare .eq))
def execVfcmplt (t : FpTy) (d : BitVec 6) (a b : Src) (mask : BitVec 4) (s : State) : Outcome :=
  s.slot (.vfcmplt t d a b mask) (s.vcmp (fpFmt t).bits d a b mask (fpOne t) ((fpFmt t).compare .lt))
def execVfcmple (t : FpTy) (d : BitVec 6) (a b : Src) (mask : BitVec 4) (s : State) : Outcome :=
  s.slot (.vfcmple t d a b mask) (s.vcmp (fpFmt t).bits d a b mask (fpOne t) ((fpFmt t).compare .le))

/-! ## Floating point (R169, R170, R172) -/

def execVfadd (t : FpTy) (d : Dst) (a b : Src) (mask : BitVec 4) (s : State) : Outcome :=
  s.slot (.vfadd t d a b mask) (s.vfp2 t d a b mask Fmt.fadd)
def execVfsub (t : FpTy) (d : Dst) (a b : Src) (mask : BitVec 4) (s : State) : Outcome :=
  s.slot (.vfsub t d a b mask) (s.vfp2 t d a b mask Fmt.fsub)
def execVfmul (t : FpTy) (d : Dst) (a b : Src) (mask : BitVec 4) (s : State) : Outcome :=
  s.slot (.vfmul t d a b mask) (s.vfp2 t d a b mask Fmt.fmul)
def execVfmin (t : FpTy) (d : Dst) (a b : Src) (mask : BitVec 4) (s : State) : Outcome :=
  s.slot (.vfmin t d a b mask) (s.vfp2 t d a b mask (fun f => f.minMax false))
def execVfmax (t : FpTy) (d : Dst) (a b : Src) (mask : BitVec 4) (s : State) : Outcome :=
  s.slot (.vfmax t d a b mask) (s.vfp2 t d a b mask (fun f => f.minMax true))
def execVfma (t : FpTy) (d : Dst) (a b c : Src) (mask : BitVec 4) (s : State) : Outcome :=
  s.slot (.vfma t d a b c mask) (do
    let f := fpFmt t
    let w := s.cur.width
    let (x, y, z) ← Res.both (s.srcV a w f.bits (fpOne t))
      (Res.both (s.srcV b w f.bits (fpOne t)) (s.srcV c w f.bits (fpOne t)))
    return s.putV d 4 (Vec.ewise f.bits w (s.act mask) fun i =>
      f.ffma (eltN f.bits x i) (eltN f.bits y i) (eltN f.bits z i)))
def execVfrcp (d : Dst) (a : Src) (mask : BitVec 4) (s : State) : Outcome :=
  s.slot (.vfrcp d a mask) (s.vspecial .rcp d a mask)
def execVfrsq (d : Dst) (a : Src) (mask : BitVec 4) (s : State) : Outcome :=
  s.slot (.vfrsq d a mask) (s.vspecial .rsq d a mask)
def execVfexp2 (d : Dst) (a : Src) (mask : BitVec 4) (s : State) : Outcome :=
  s.slot (.vfexp2 d a mask) (s.vspecial .exp2 d a mask)
def execVflog2 (d : Dst) (a : Src) (mask : BitVec 4) (s : State) : Outcome :=
  s.slot (.vflog2 d a mask) (s.vspecial .log2 d a mask)
def execVftanh (d : Dst) (a : Src) (mask : BitVec 4) (s : State) : Outcome :=
  s.slot (.vftanh d a mask) (s.vspecial .tanh d a mask)
def execVfsigm (d : Dst) (a : Src) (mask : BitVec 4) (s : State) : Outcome :=
  s.slot (.vfsigm d a mask) (s.vspecial .sigm d a mask)

/-! ## Permutes and rotation (R173, R174) -/

def execVperm (d : Dst) (a b : Src) (sz : BitVec 2) (mask : BitVec 4) (s : State) : Outcome :=
  s.slot (.vperm d a b sz mask) (do
    let k := szBits sz
    let (x, y) ← Res.both (s.srcV a s.cur.width k) (s.srcV b s.cur.width k)
    return s.putV d 2 (Vec.perm k s.cur.width (s.act mask) x y))
def execVshuf (d : Dst) (a b : Src) (pat : BitVec 3) (sz : BitVec 2) (mask : BitVec 4) (s : State) : Outcome :=
  s.slot (.vshuf d a b pat sz mask) (do
    let k := szBits sz
    let (x, y) ← Res.both (s.srcV a s.cur.width k) (s.srcV b s.cur.width k)
    return s.putV d 2 (Vec.shuf k s.cur.width (s.act mask) pat.toNat x y))
def execVrot (d : Dst) (a b : Src) (sz : BitVec 2) (mask : BitVec 4) (s : State) : Outcome :=
  s.slot (.vrot d a b sz mask) (do
    let k := szBits sz
    let (x, y) ← Res.both (s.srcV a s.cur.width k) (s.srcS b)
    return s.putV d 2 (Vec.rot k s.cur.width (s.act mask) x y.toNat))

/-! ## Reductions and scans (R175 to R177) -/

def execVrdsum (t : RedTy) (d : Dst) (a : Src) (mask : BitVec 4) (s : State) : Outcome :=
  s.slot (.vrdsum t d a mask) (s.vreduce .sum t d a mask)
def execVrdmax (t : RedTy) (d : Dst) (a : Src) (mask : BitVec 4) (s : State) : Outcome :=
  s.slot (.vrdmax t d a mask) (s.vreduce .max t d a mask)
def execVrdmin (t : RedTy) (d : Dst) (a : Src) (mask : BitVec 4) (s : State) : Outcome :=
  s.slot (.vrdmin t d a mask) (s.vreduce .min t d a mask)
def execVscan (t : RedTy) (d : Dst) (a : Src) (mask : BitVec 4) (s : State) : Outcome :=
  s.slot (.vscan t d a mask) (do
    let f32 := decide (t = .f32)
    let x ← s.srcV a s.cur.width 32 (if f32 then oneF32 else 1)
    return s.putV d (if f32 then 8 else 4)
      (Vec.scan f32 (Profile.of s.cur.profile).balanced s.cur.width (s.act mask) x))

/-! ## Conversions and block quantisation (R178 to R180) -/

/-- A stochastic code waits while the RBQ is empty, and pops one word (R152). -/
def execVcvt (d : Dst) (a : Src) (part code : BitVec 6) (mask : BitVec 4) (s : State) : Outcome :=
  let draws := Vec.cvtDraws code.toNat
  if draws && s.here.a.rbq.isEmpty then .next s
  else s.slot (.vcvt d a part code mask) (do
    let (src, _, _) := Vec.cvtOf code.toNat
    let x ← s.srcV a s.cur.width src.bits (tyOne src)
    let o := Vec.cvt code.toNat part.toNat s.cur.width (s.act mask) x s.randWord
    return (if draws then s.popWord else s).putV d 3 o)

/-- It waits while the RBQ is empty, and always pops one word. -/
def execVqnt (t : BlkTy) (d : Dst) (a : Src) (e : BitVec 6) (ty : BitVec 2) (sr : Bool) (k0 : BitVec 3)
    (mask : BitVec 4) (s : State) : Outcome :=
  if s.here.a.rbq.isEmpty then .next s
  else s.slot (.vqnt t d a e ty sr k0 mask) (do
    s.require (Vec.blkFits t ty.toNat s.cur.width k0.toNat) 0x08
    let f := Vec.blkSrc ty.toNat
    let x ← s.srcV a s.cur.width f.bits (Fmt.oneBits f)
    let (o, ev, em) := Vec.qnt t ty.toNat s.cur.width k0.toNat (s.act mask) x sr s.randWord
    return s.popWord.push 3
      (Dst.wrV d o.val o.mask ++ [.e (e.toNat % 8) (BitVec.ofNat 128 ev) (BitVec.ofNat 128 em)])
      (some (s.vUnit, ⟨s.cur.width, BitVec.ofNat 1024 o.val⟩)) o.st)

/-- VDQ (R180). A scalar that stands for its packed plane is broadcast in bytes. [DEDUCED, unsafe: log 90] -/
def execVdq (t : BlkTy) (d : Dst) (a : Src) (e : BitVec 6) (ty : BitVec 2) (k0 : BitVec 3) (mask : BitVec 4)
    (s : State) : Outcome :=
  s.slot (.vdq t d a e ty k0 mask) (do
    s.require (Vec.blkFits t ty.toNat s.cur.width k0.toNat) 0x08
    let x ← s.srcV a s.cur.width 8
    return s.putV d 3 (Vec.dq t ty.toNat s.cur.width k0.toNat (s.act mask) x (s.ereg (e.toNat % 8)).toNat))

/-! ## Moves (R90, R183 to R185) -/

def execVbcast (d : Dst) (a : Src) (sz : BitVec 2) (mask : BitVec 4) (s : State) : Outcome :=
  s.slot (.vbcast d a sz mask) (do
    let x ← s.srcS a
    return s.putV d 2 (Vec.bcast (szBits sz) s.cur.width (s.act mask) x.toNat))
def execVins (d : Dst) (a b : Src) (sz : BitVec 2) (s : State) : Outcome :=
  s.slot (.vins d a b sz) (do
    let x ← s.srcS a
    let y ← s.srcS b
    return s.putV d 2 (Vec.ins (szBits sz) s.cur.width x.toNat y.toNat))
def execVext (d : Dst) (a b : Src) (sz : BitVec 2) (sgn : Bool) (s : State) : Outcome :=
  s.slot (.vext d a b sz sgn) (do
    let k := szBits sz
    let (x, y) ← Res.both (s.srcV a s.cur.width k) (s.srcS b)
    return s.putQuiet d 2 (Vec.ext k s.cur.width x y.toNat sgn))
def execVany (d a : BitVec 6) (mask : BitVec 4) (s : State) : Outcome :=
  s.slot (.vany d a mask) (.ok (s.putFlag d (Vec.any s.cur.width (s.act mask) (s.mreg a.toNat).toNat)))
def execVall (d a : BitVec 6) (mask : BitVec 4) (s : State) : Outcome :=
  s.slot (.vall d a mask) (.ok (s.putFlag d (Vec.all s.cur.width (s.act mask) (s.mreg a.toNat).toNat)))
def execVmov (d : Dst) (a : Src) (mask : BitVec 4) (s : State) : Outcome :=
  s.slot (.vmov d a mask) (s.vec2 8 d a (.special .zero) mask fun x _ => x)
def execVmovExpand (d : Dst) (a : BitVec 6) (mask : BitVec 4) (s : State) : Outcome :=
  s.slot (.vmovExpand d a mask)
    (.ok (s.putV d 2 (Vec.expand s.cur.width (s.act mask) (s.mreg a.toNat).toNat)))
def execVmovPack (d : BitVec 6) (a : Src) (mask : BitVec 4) (s : State) : Outcome :=
  s.slot (.vmovPack d a mask) (do
    let x ← s.srcV a s.cur.width 8
    let r := Vec.pack s.cur.width (s.act mask) x
    return s.push 2 [.m (d.toNat % 16) (BitVec.ofNat 128 r.1) (BitVec.ofNat 128 r.2)])
def execViota (d : Dst) (a : BitVec 6) (sz : BitVec 2) (mask : BitVec 4) (s : State) : Outcome :=
  s.slot (.viota d a sz mask)
    (.ok (s.putV d 2 (Vec.iota (szBits sz) s.cur.width (s.act mask) (s.mreg a.toNat).toNat)))
def execVnop (s : State) : Outcome := s.slot .vnop (.ok s)

end Sys2Proof.Machine
end

