-- ==== Sys2Proof/Machine/Dispatch.lean ====
section
/-! DEFINITION. Machine/Dispatch.lean: the meaning of each instruction, one arm per constructor of `Instr`. -/

namespace Sys2Proof.Machine

def exec (i : Instr) (s : State) : Host.Outcome State Fault Refusal :=
  match i with
  | .pand m d a b => Sys2Proof.Machine.execPand m d a b s
  | .por m d a b => Sys2Proof.Machine.execPor m d a b s
  | .pxor m d a b => Sys2Proof.Machine.execPxor m d a b s
  | .pandn m d a b => Sys2Proof.Machine.execPandn m d a b s
  | .pnot m d a => Sys2Proof.Machine.execPnot m d a s
  | .checkpointBundle => Sys2Proof.Machine.execCheckpointBundle s
  | .token index delta => Sys2Proof.Machine.execToken index delta s
  | .snop => Sys2Proof.Machine.execSnop s
  | .add d a b => Sys2Proof.Machine.execAdd d a b s
  | .sub d a b => Sys2Proof.Machine.execSub d a b s
  | .and d a b => Sys2Proof.Machine.execAnd d a b s
  | .or d a b => Sys2Proof.Machine.execOr d a b s
  | .xor d a b => Sys2Proof.Machine.execXor d a b s
  | .shl d a b => Sys2Proof.Machine.execShl d a b s
  | .shr d a b => Sys2Proof.Machine.execShr d a b s
  | .asr d a b => Sys2Proof.Machine.execAsr d a b s
  | .mul d a b => Sys2Proof.Machine.execMul d a b s
  | .mulh d a b => Sys2Proof.Machine.execMulh d a b s
  | .mulhN64 d a b => Sys2Proof.Machine.execMulhN64 d a b s
  | .min d a b => Sys2Proof.Machine.execMin d a b s
  | .max d a b => Sys2Proof.Machine.execMax d a b s
  | .cmpeq d a b => Sys2Proof.Machine.execCmpeq d a b s
  | .cmpne d a b => Sys2Proof.Machine.execCmpne d a b s
  | .cmplt d a b => Sys2Proof.Machine.execCmplt d a b s
  | .cmple d a b => Sys2Proof.Machine.execCmple d a b s
  | .cmpltn d a b => Sys2Proof.Machine.execCmpltn d a b s
  | .sel d a b cf => Sys2Proof.Machine.execSel d a b cf s
  | .fadd d a b => Sys2Proof.Machine.execFadd d a b s
  | .fsub d a b => Sys2Proof.Machine.execFsub d a b s
  | .fmul d a b => Sys2Proof.Machine.execFmul d a b s
  | .fma d a b => Sys2Proof.Machine.execFma d a b s
  | .fdiv d a b => Sys2Proof.Machine.execFdiv d a b s
  | .fsqrt d a => Sys2Proof.Machine.execFsqrt d a s
  | .fcmpeq d a b => Sys2Proof.Machine.execFcmpeq d a b s
  | .fcmplt d a b => Sys2Proof.Machine.execFcmplt d a b s
  | .fcmple d a b => Sys2Proof.Machine.execFcmple d a b s
  | .fcvt d a code => Sys2Proof.Machine.execFcvt d a code s
  | .ld d a b m => Sys2Proof.Machine.execLd d a b m s
  | .st x a b m => Sys2Proof.Machine.execSt x a b m s
  | .spld d a b sz => Sys2Proof.Machine.execSpld d a b sz s
  | .spst x a b sz => Sys2Proof.Machine.execSpst x a b sz s
  | .movg d a => Sys2Proof.Machine.execMovg d a s
  | .pkc d => Sys2Proof.Machine.execPkc d s
  | .upc a => Sys2Proof.Machine.execUpc a s
  | .addi d a imm => Sys2Proof.Machine.execAddi d a imm s
  | .andi d a imm => Sys2Proof.Machine.execAndi d a imm s
  | .ori d a imm => Sys2Proof.Machine.execOri d a imm s
  | .shli d a k => Sys2Proof.Machine.execShli d a k s
  | .shri d a k => Sys2Proof.Machine.execShri d a k s
  | .asri d a k => Sys2Proof.Machine.execAsri d a k s
  | .movi d imm => Sys2Proof.Machine.execMovi d imm s
  | .movhi d a h k => Sys2Proof.Machine.execMovhi d a h k s
  | .cmpeqi d a imm => Sys2Proof.Machine.execCmpeqi d a imm s
  | .cmplti d a imm => Sys2Proof.Machine.execCmplti d a imm s
  | .ldi d a imm => Sys2Proof.Machine.execLdi d a imm s
  | .sti x a imm => Sys2Proof.Machine.execSti x a imm s
  | .spldi d a imm => Sys2Proof.Machine.execSpldi d a imm s
  | .spsti x a imm => Sys2Proof.Machine.execSpsti x a imm s
  | .crd d n => Sys2Proof.Machine.execCrd d n s
  | .cwr a n => Sys2Proof.Machine.execCwr a n s
  | .pbr d a imm => Sys2Proof.Machine.execPbr d a imm s
  | .trn flag neg alw a => Sys2Proof.Machine.execTrn flag neg alw a s
  | .call a imm => Sys2Proof.Machine.execCall a imm s
  | .loop k a imm => Sys2Proof.Machine.execLoop k a imm s
  | .lend => Sys2Proof.Machine.execLend s
  | .vnop => Sys2Proof.Machine.execVnop s
  | .vadd t d a b mask => Sys2Proof.Machine.execVadd t d a b mask s
  | .vsub t d a b mask => Sys2Proof.Machine.execVsub t d a b mask s
  | .vadds t d a b mask => Sys2Proof.Machine.execVadds t d a b mask s
  | .vsubs t d a b mask => Sys2Proof.Machine.execVsubs t d a b mask s
  | .vmul t d a b mask => Sys2Proof.Machine.execVmul t d a b mask s
  | .vmulh t d a b mask => Sys2Proof.Machine.execVmulh t d a b mask s
  | .vmin t d a b mask => Sys2Proof.Machine.execVmin t d a b mask s
  | .vmax t d a b mask => Sys2Proof.Machine.execVmax t d a b mask s
  | .vminn t d a b mask => Sys2Proof.Machine.execVminn t d a b mask s
  | .vmaxn t d a b mask => Sys2Proof.Machine.execVmaxn t d a b mask s
  | .vand d a b mask => Sys2Proof.Machine.execVand d a b mask s
  | .vor d a b mask => Sys2Proof.Machine.execVor d a b mask s
  | .vxor d a b mask => Sys2Proof.Machine.execVxor d a b mask s
  | .vnot d a mask => Sys2Proof.Machine.execVnot d a mask s
  | .vshl t d a b mask => Sys2Proof.Machine.execVshl t d a b mask s
  | .vshr t d a b mask => Sys2Proof.Machine.execVshr t d a b mask s
  | .vasr t d a b mask => Sys2Proof.Machine.execVasr t d a b mask s
  | .vcmpeq t d a b mask => Sys2Proof.Machine.execVcmpeq t d a b mask s
  | .vcmplt t d a b mask => Sys2Proof.Machine.execVcmplt t d a b mask s
  | .vcmpltn t d a b mask => Sys2Proof.Machine.execVcmpltn t d a b mask s
  | .vsel d a b c mask => Sys2Proof.Machine.execVsel d a b c mask s
  | .vfadd t d a b mask => Sys2Proof.Machine.execVfadd t d a b mask s
  | .vfsub t d a b mask => Sys2Proof.Machine.execVfsub t d a b mask s
  | .vfmul t d a b mask => Sys2Proof.Machine.execVfmul t d a b mask s
  | .vfma t d a b c mask => Sys2Proof.Machine.execVfma t d a b c mask s
  | .vfmin t d a b mask => Sys2Proof.Machine.execVfmin t d a b mask s
  | .vfmax t d a b mask => Sys2Proof.Machine.execVfmax t d a b mask s
  | .vfcmpeq t d a b mask => Sys2Proof.Machine.execVfcmpeq t d a b mask s
  | .vfcmplt t d a b mask => Sys2Proof.Machine.execVfcmplt t d a b mask s
  | .vfcmple t d a b mask => Sys2Proof.Machine.execVfcmple t d a b mask s
  | .vfrcp d a mask => Sys2Proof.Machine.execVfrcp d a mask s
  | .vfrsq d a mask => Sys2Proof.Machine.execVfrsq d a mask s
  | .vfexp2 d a mask => Sys2Proof.Machine.execVfexp2 d a mask s
  | .vflog2 d a mask => Sys2Proof.Machine.execVflog2 d a mask s
  | .vftanh d a mask => Sys2Proof.Machine.execVftanh d a mask s
  | .vfsigm d a mask => Sys2Proof.Machine.execVfsigm d a mask s
  | .vperm d a b sz mask => Sys2Proof.Machine.execVperm d a b sz mask s
  | .vshuf d a b pat sz mask => Sys2Proof.Machine.execVshuf d a b pat sz mask s
  | .vrot d a b sz mask => Sys2Proof.Machine.execVrot d a b sz mask s
  | .vbcast d a sz mask => Sys2Proof.Machine.execVbcast d a sz mask s
  | .vrdsum t d a mask => Sys2Proof.Machine.execVrdsum t d a mask s
  | .vrdmax t d a mask => Sys2Proof.Machine.execVrdmax t d a mask s
  | .vrdmin t d a mask => Sys2Proof.Machine.execVrdmin t d a mask s
  | .vscan t d a mask => Sys2Proof.Machine.execVscan t d a mask s
  | .vcvt d a part code mask => Sys2Proof.Machine.execVcvt d a part code mask s
  | .vqnt t d a e ty sr k0 mask => Sys2Proof.Machine.execVqnt t d a e ty sr k0 mask s
  | .vdq t d a e ty k0 mask => Sys2Proof.Machine.execVdq t d a e ty k0 mask s
  | .vspld d a b off mask => Sys2Proof.Machine.execVspld d a b off mask s
  | .vspst x a b off mask => Sys2Proof.Machine.execVspst x a b off mask s
  | .vld d a b off mask => Sys2Proof.Machine.execVld d a b off mask s
  | .vst x a b off mask => Sys2Proof.Machine.execVst x a b off mask s
  | .vins d a b sz => Sys2Proof.Machine.execVins d a b sz s
  | .vext d a b sz sgn => Sys2Proof.Machine.execVext d a b sz sgn s
  | .vany d a mask => Sys2Proof.Machine.execVany d a mask s
  | .vall d a mask => Sys2Proof.Machine.execVall d a mask s
  | .vmov d a mask => Sys2Proof.Machine.execVmov d a mask s
  | .vmovExpand d a mask => Sys2Proof.Machine.execVmovExpand d a mask s
  | .vmovPack d a mask => Sys2Proof.Machine.execVmovPack d a mask s
  | .viota d a sz mask => Sys2Proof.Machine.execViota d a sz mask s
  | .mnop => Sys2Proof.Machine.execMnop s
  | .macc af bf bank an bn => Sys2Proof.Machine.execMacc af bf bank an bn s
  | .mset af bf bank an bn => Sys2Proof.Machine.execMset af bf bank an bn s
  | .mpush an bn => Sys2Proof.Machine.execMpush an bn s
  | .mshift af bf bank dist bn => Sys2Proof.Machine.execMshift af bf bank dist bn s
  | .mdrain code clr bank n idx => Sys2Proof.Machine.execMdrain code clr bank n idx s
  | .mzero bank => Sys2Proof.Machine.execMzero bank s
  | .mload bank n idx => Sys2Proof.Machine.execMload bank n idx s
  | .mswap => Sys2Proof.Machine.execMswap s
  | .mdrainq af clr bank n idx => Sys2Proof.Machine.execMdrainq af clr bank n idx s
  | .cnop => Sys2Proof.Machine.execCnop s
  | .cpy o => Sys2Proof.Machine.execCpy o s
  | .cpyt o => Sys2Proof.Machine.execCpyt o s
  | .cmcast o => Sys2Proof.Machine.execCmcast o s
  | .cgath o => Sys2Proof.Machine.execCgath o s
  | .cfill o => Sys2Proof.Machine.execCfill o s
  | .cpref o => Sys2Proof.Machine.execCpref o s
  | .put o => Sys2Proof.Machine.execPut o s
  | .get o => Sys2Proof.Machine.execGet o s
  | .radd o => Sys2Proof.Machine.execRadd o s
  | .ynop => Sys2Proof.Machine.execYnop s
  | .fwait f n => Sys2Proof.Machine.execFwait f n s
  | .fwaitAcq f n => Sys2Proof.Machine.execFwaitAcq f n s
  | .fpost f m => Sys2Proof.Machine.execFpost f m s
  | .fpostRel f dy dx => Sys2Proof.Machine.execFpostRel f dy dx s
  | .fclr f => Sys2Proof.Machine.execFclr f s
  | .finc f n => Sys2Proof.Machine.execFinc f n s
  | .fbar f n => Sys2Proof.Machine.execFbar f n s
  | .xnop => Sys2Proof.Machine.execXnop s
  | .lea d a b sh => Sys2Proof.Machine.execLea d a b sh s
  | .leai d a imm => Sys2Proof.Machine.execLeai d a imm s
  | .agen d a imm => Sys2Proof.Machine.execAgen d a imm s
  | .rbpop d => Sys2Proof.Machine.execRbpop d s
  | .esld t a imm => Sys2Proof.Machine.execEsld t a imm s
  | .nld d a imm => Sys2Proof.Machine.execNld d a imm s
  | .nst n a imm => Sys2Proof.Machine.execNst n a imm s
  | .aadd d a b o => Sys2Proof.Machine.execAadd d a b o s
  | .amin d a b o => Sys2Proof.Machine.execAmin d a b o s
  | .amax d a b o => Sys2Proof.Machine.execAmax d a b o s
  | .aminn d a b o => Sys2Proof.Machine.execAminn d a b o s
  | .amaxn d a b o => Sys2Proof.Machine.execAmaxn d a b o s
  | .aand d a b o => Sys2Proof.Machine.execAand d a b o s
  | .aor d a b o => Sys2Proof.Machine.execAor d a b o s
  | .axor d a b o => Sys2Proof.Machine.execAxor d a b o s
  | .axchg d a b o => Sys2Proof.Machine.execAxchg d a b o s
  | .acas d a b o => Sys2Proof.Machine.execAcas d a b o s
  | .afadd d a b o => Sys2Proof.Machine.execAfadd d a b o s
  | .aaddU a b => Sys2Proof.Machine.execAaddU a b s
  | .aminU a b => Sys2Proof.Machine.execAminU a b s
  | .amaxU a b => Sys2Proof.Machine.execAmaxU a b s
  | .aminnU a b => Sys2Proof.Machine.execAminnU a b s
  | .amaxnU a b => Sys2Proof.Machine.execAmaxnU a b s
  | .aandU a b => Sys2Proof.Machine.execAandU a b s
  | .aorU a b => Sys2Proof.Machine.execAorU a b s
  | .axorU a b => Sys2Proof.Machine.execAxorU a b s
  | .afaddU a b => Sys2Proof.Machine.execAfaddU a b s
  | .oadd tk a b o => Sys2Proof.Machine.execOadd tk a b o s
  | .ofadd tk a b o => Sys2Proof.Machine.execOfadd tk a b o s
  | .oopen d a o => Sys2Proof.Machine.execOopen d a o s
  | .oclose d a b o => Sys2Proof.Machine.execOclose d a b o s
  | .spawn wt d a => Sys2Proof.Machine.execSpawn wt d a s
  | .join => Sys2Proof.Machine.execJoin s
  | .exit => Sys2Proof.Machine.execExit s
  | .tkt d a b => Sys2Proof.Machine.execTkt d a b s
  | .qpush a b => Sys2Proof.Machine.execQpush a b s
  | .qpushT tk a b => Sys2Proof.Machine.execQpushT tk a b s
  | .mwait d a b => Sys2Proof.Machine.execMwait d a b s
  | .mwaitNe d a b => Sys2Proof.Machine.execMwaitNe d a b s
  | .invl asid a b => Sys2Proof.Machine.execInvl asid a b s
  | .invlAll asid => Sys2Proof.Machine.execInvlAll asid s
  | .probe d a => Sys2Proof.Machine.execProbe d a s
  | .trap imm => Sys2Proof.Machine.execTrap imm s
  | .eret => Sys2Proof.Machine.execEret s
  | .dld a entry cnt => Sys2Proof.Machine.execDld a entry cnt s
  | .resultLanding c => Sys2Proof.Machine.execResultLanding c s
  | .interlockedLoadData c k ext => Sys2Proof.Machine.execInterlockedLoadData c k ext s
  | .arrayPoint c => Sys2Proof.Machine.execArrayPoint c s
  | .drainWrite c => Sys2Proof.Machine.execDrainWrite c s
  | .mergeDecision core => Sys2Proof.Machine.execMergeDecision core s
  | .forcedYield core => Sys2Proof.Machine.execForcedYield core s
  | .rbqFill core => Sys2Proof.Machine.execRbqFill core s
  | .copyCompletion c eng => Sys2Proof.Machine.execCopyCompletion c eng s
  | .copyStop c eng => Sys2Proof.Machine.execCopyStop c eng s
  | .flagPostArrival k => Sys2Proof.Machine.execFlagPostArrival k s
  | .preemptionRequest c => Sys2Proof.Machine.execPreemptionRequest c s
  | .saveComplete c => Sys2Proof.Machine.execSaveComplete c s
  | .parkedWindowWrite core k => Sys2Proof.Machine.execParkedWindowWrite core k s
  | .resumption k c => Sys2Proof.Machine.execResumption k c s
  | .timeSliceExpiry core => Sys2Proof.Machine.execTimeSliceExpiry core s
  | .dataError e => Sys2Proof.Machine.execDataError e s
  | .rerunVerdict c => Sys2Proof.Machine.execRerunVerdict c s
  | .coreRetirement core => Sys2Proof.Machine.execCoreRetirement core s
  | .reserve core ticket cls flexible => Sys2Proof.Machine.execReserve core ticket cls flexible s
  | .commit core ticket => Sys2Proof.Machine.execCommit core ticket s
  | .lost die ticket => Sys2Proof.Machine.execLost die ticket s
  | .release core ticket => Sys2Proof.Machine.execRelease core ticket s
  | .reservationRetry die ticket => Sys2Proof.Machine.execReservationRetry die ticket s
  | .steal victim thief => Sys2Proof.Machine.execSteal victim thief s
  | .stealRound thief => Sys2Proof.Machine.execStealRound thief s
  | .task q => Sys2Proof.Machine.execTask q s
  | .launchConditionMet k => Sys2Proof.Machine.execLaunchConditionMet k s
  | .walk q => Sys2Proof.Machine.execWalk q s
  | .wait q => Sys2Proof.Machine.execWait q s
  | .signal q => Sys2Proof.Machine.execSignal q s
  | .bind q => Sys2Proof.Machine.execBind q s
  | .lease q => Sys2Proof.Machine.execLease q s
  | .summary q => Sys2Proof.Machine.execSummary q s
  | .emptyRecord q => Sys2Proof.Machine.execEmptyRecord q s
  | .leaseGrant k => Sys2Proof.Machine.execLeaseGrant k s
  | .pagereq k leaf => Sys2Proof.Machine.execPagereq k leaf s
  | .migration asid va frame => Sys2Proof.Machine.execMigration asid va frame s
  | .migfail asid va => Sys2Proof.Machine.execMigfail asid va s
  | .orderedAtomicArrival k => Sys2Proof.Machine.execOrderedAtomicArrival k s
  | .orderedRetry c k => Sys2Proof.Machine.execOrderedRetry c k s
  | .hbmRequestAdmit stack k t => Sys2Proof.Machine.execHbmRequestAdmit stack k t s
  | .activation stack k t => Sys2Proof.Machine.execActivation stack k t s
  | .backoffEnd stack chn bank t => Sys2Proof.Machine.execBackoffEnd stack chn bank t s
  | .periodicRefresh stack chn bank row => Sys2Proof.Machine.execPeriodicRefresh stack chn bank row s
  | .rowIdleClose stack chn bank t => Sys2Proof.Machine.execRowIdleClose stack chn bank t s
  | .putPacket p => Sys2Proof.Machine.execPutPacket p s
  | .getreq p => Sys2Proof.Machine.execGetreq p s
  | .getdata p => Sys2Proof.Machine.execGetdata p s
  | .raddPacket p => Sys2Proof.Machine.execRaddPacket p s
  | .done p => Sys2Proof.Machine.execDone p s
  | .nack p => Sys2Proof.Machine.execNack p s
  | .fragmentTimeout xid => Sys2Proof.Machine.execFragmentTimeout xid s
  | .pkt port f => Sys2Proof.Machine.execPkt port f s
  | .ack port f => Sys2Proof.Machine.execAck port f s
  | .nak port f => Sys2Proof.Machine.execNak port f s
  | .lmreq port f => Sys2Proof.Machine.execLmreq port f s
  | .lmap port f => Sys2Proof.Machine.execLmap port f s
  | .resync port f => Sys2Proof.Machine.execResync port f s
  | .idle port f => Sys2Proof.Machine.execIdle port f s
  | .laneFail port l => Sys2Proof.Machine.execLaneFail port l s
  | .ackTimer port => Sys2Proof.Machine.execAckTimer port s
  | .nakResend port => Sys2Proof.Machine.execNakResend port s
  | .replayTimeout port => Sys2Proof.Machine.execReplayTimeout port s
  | .resyncSend port => Sys2Proof.Machine.execResyncSend port s
  | .resyncMissing port => Sys2Proof.Machine.execResyncMissing port s
  | .retrain port => Sys2Proof.Machine.execRetrain port s
  | .retrainDone port lanes => Sys2Proof.Machine.execRetrainDone port lanes s
  | .linkTrained port peer peerport t => Sys2Proof.Machine.execLinkTrained port peer peerport t s
  | .escapeTreeInstall links epoch => Sys2Proof.Machine.execEscapeTreeInstall links epoch s
  | .sparePortAssign port => Sys2Proof.Machine.execSparePortAssign port s
  | .rekey k => Sys2Proof.Machine.execRekey k s
  | .regionCreate q => Sys2Proof.Machine.execRegionCreate q s
  | .regionUpdate q => Sys2Proof.Machine.execRegionUpdate q s
  | .regionDestroy q => Sys2Proof.Machine.execRegionDestroy q s
  | .queueCreate q => Sys2Proof.Machine.execQueueCreate q s
  | .queueDestroy q => Sys2Proof.Machine.execQueueDestroy q s
  | .asCreate q => Sys2Proof.Machine.execAsCreate q s
  | .windowCreate q => Sys2Proof.Machine.execWindowCreate q s
  | .windowDestroy q => Sys2Proof.Machine.execWindowDestroy q s
  | .mapDevice q => Sys2Proof.Machine.execMapDevice q s
  | .setRowthr q => Sys2Proof.Machine.execSetRowthr q s
  | .linkProtect q => Sys2Proof.Machine.execLinkProtect q s
  | .vfBind q => Sys2Proof.Machine.execVfBind q s
  | .peerWindow q => Sys2Proof.Machine.execPeerWindow q s
  | .graft q => Sys2Proof.Machine.execGraft q s
  | .setPowercap q => Sys2Proof.Machine.execSetPowercap q s
  | .mboxWrite func m whole => Sys2Proof.Machine.execMboxWrite func m whole s
  | .replyheadWrite func v => Sys2Proof.Machine.execReplyheadWrite func v s
  | .wakerejRead func => Sys2Proof.Machine.execWakerejRead func s
  | .qarejRead func => Sys2Proof.Machine.execQarejRead func s
  | .registerWrite space off v => Sys2Proof.Machine.execRegisterWrite space off v s
  | .wakeWrite func cap => Sys2Proof.Machine.execWakeWrite func cap s
  | .deviceWakeStore c off size v => Sys2Proof.Machine.execDeviceWakeStore c off size v s
  | .queueApertureWrite func size data => Sys2Proof.Machine.execQueueApertureWrite func size data s
  | .bar2Access func write off data n => Sys2Proof.Machine.execBar2Access func write off data n s
  | .peerReadTimeout c k => Sys2Proof.Machine.execPeerReadTimeout c k s
  | .graftVerified fn ok version digest => Sys2Proof.Machine.execGraftVerified fn ok version digest s
  | .handover fn schema len body => Sys2Proof.Machine.execHandover fn schema len body s
  | .commitRegisterWrite fn => Sys2Proof.Machine.execCommitRegisterWrite fn s
  | .refuse fn => Sys2Proof.Machine.execRefuse fn s
  | .heartbeat fn t => Sys2Proof.Machine.execHeartbeat fn t s
  | .heartbeatMissed fn t => Sys2Proof.Machine.execHeartbeatMissed fn t s
  | .trialExpiry fn => Sys2Proof.Machine.execTrialExpiry fn s
  | .getVersion func => Sys2Proof.Machine.execGetVersion func s
  | .getCapabilities func => Sys2Proof.Machine.execGetCapabilities func s
  | .negotiateAlgorithms func => Sys2Proof.Machine.execNegotiateAlgorithms func s
  | .getDigests func => Sys2Proof.Machine.execGetDigests func s
  | .getCertificate func slot => Sys2Proof.Machine.execGetCertificate func slot s
  | .challenge func slot nonce => Sys2Proof.Machine.execChallenge func slot nonce s
  | .getMeasurements func which => Sys2Proof.Machine.execGetMeasurements func which s
  | .keyExchange func => Sys2Proof.Machine.execKeyExchange func s
  | .finish func macOk => Sys2Proof.Machine.execFinish func macOk s
  | .keyUpdate func => Sys2Proof.Machine.execKeyUpdate func s
  | .endSession func => Sys2Proof.Machine.execEndSession func s
  | .powerComparison r t => Sys2Proof.Machine.execPowerComparison r t s
  | .thermalTrip => Sys2Proof.Machine.execThermalTrip s
  | .moduleReset => Sys2Proof.Machine.execModuleReset s
  | .sensorRefresh r => Sys2Proof.Machine.execSensorRefresh r s
  | .hbmLineUncorrectable pa => Sys2Proof.Machine.execHbmLineUncorrectable pa s
  | .escapeWaitTimeout port k => Sys2Proof.Machine.execEscapeWaitTimeout port k s
  | .overflowQueueDispatch region c => Sys2Proof.Machine.execOverflowQueueDispatch region c s
  | .pldmRequest sensor => Sys2Proof.Machine.execPldmRequest sensor s
  | .inputPowerLoss => Sys2Proof.Machine.execInputPowerLoss s

end Sys2Proof.Machine
end

