-- ==== Sys2Proof/Machine/Issue.lean ====
section
/-! DEFINITION. Machine/Issue.lean: the issue of a granted bundle: its issue-stage faults (spec/02 R54, R66), its
slots in turn (spec/02 R54, spec/09 R283), the advance of the PC (spec/03 R107), espaliers (spec/09 R263 to R266),
and the machine's own schedule. -/

namespace Sys2Proof.Machine

/-- What follows a step that answers a next state. -/
def andThen (o : Outcome) (f : State → Outcome) : Outcome :=
  match o with
  | .next s => f s
  | .fault x => .fault x
  | .refused x => .refused x

/-! ## Issue-stage faults -/

/-- Whether a slot's instruction raises a fault, with the cycle begun in `t`. -/
def State.raisedBy (t : State) (p : Nat × Instr) : Option FaultRec :=
  match exec p.2 (t.atSlot p.1) with
  | .next u => u.cur.raised
  | _ => none

/-- CKOVF (R284). [DEDUCED, unsafe: log 11] -/
def State.overflows (t : State) : Option FaultRec :=
  let x := t.here
  if 128 < x.cbuf.length + t.growth then some ⟨0x06, 15, 0, t.pc, x.regionPc, 128⟩ else none

/-- The fault that suppresses the bundle at issue: that of its first slot, or CKOVF, which no slot has.
[DEDUCED, unsafe: log 11] -/
def State.issueFault (t : State) : Option FaultRec :=
  match t.cur.todo.findSome? t.raisedBy with
  | some f => some f
  | none => t.overflows

/-- The verdict on a context's next bundle with its issue-stage faults. -/
def State.trial (s : State) (c : Nat) : State × Verdict :=
  let (s, v) := s.prepare c
  match v with
  | .ready => match (s.openCycle c).issueFault with
    | some f => (s, .fault f)
    | none => (s, .ready)
  | _ => (s, v)

/-- Results that have not landed go back by one issue cycle: the suppressed bundle's cycle is issued again. -/
def Arch.regress (a : Arch) : Arch :=
  { a with
    flight := a.flight.map fun l => { l with left := l.left + 1 }
    mflight := a.mflight.map fun m => { m with left := m.left + 1 }
    drains := a.drains.map fun d => { d with left := d.left + 1 } }

/-- The bundle of context `c` is suppressed by `f`, which is taken; what was due in its issue cycle has landed.
[DEDUCED, unsafe: log 108] -/
def State.suppress (s : State) (c : Nat) (f : FaultRec) : State :=
  (((s.openCycle c).modArch c Arch.regress).modCtx c fun x =>
    ({ x with replay := false } : Ctx).clearDue f).takeFault c f

/-! ## The bundle's slots in turn -/

/-- Run instructions with their slots. -/
def State.runAll (s : State) : List (Nat × Instr) → Outcome
  | [] => .next s
  | p :: l => andThen (exec p.2 (s.atSlot p.1)) fun s => s.runAll l

/-- Steps 4 to 6 of R283, or the slots of another bundle. -/
def State.runSlots (s : State) : Outcome :=
  let first := s.cur.todo.filter fun p => actsFirst p.2
  let rest := s.cur.todo.filter fun p => !actsFirst p.2
  if !s.cur.ckpt then s.runAll s.cur.todo
  else if s.here.replay then s.runAll rest
  else andThen (s.runAll first) fun s =>
    andThen (exec .checkpointBundle (s.atSlot 15)) fun s => s.runAll rest

/-- An issue cycle is counted (R32, R288). -/
def State.countIssue (s : State) (c : Nat) (bundle : Bool) : State :=
  let s := s.modCtx c fun x => { x with regionCount := x.regionCount + 1 }
  if bundle then
    (s.modCtx c fun x => { x with fresh := false, taken := none, feed := x.feed.tail }).modRegion (s.ctx c).task.region fun r =>
      { r with bundles := r.bundles + 1 }
  else s

/-- The lead's bundle goes to the other members (R263). -/
def State.broadcast (s : State) (c : Nat) (pc : Word) (others : List Nat) : State :=
  let k := s.cur
  others.foldl (fun (s : State) m => if m = c then s
    else s.modCtx m fun x => { x with feed := x.feed ++ [⟨pc, k.bits, k.fromToken, k.steer, k.succ⟩] }) s

/-- The next bundle of context `c` issues. -/
def State.runBundle (s : State) (c : Nat) : Outcome :=
  let s := ((s.prepare c).1.openCycle c).countIssue c true
  let t := s.here.task
  let pc := s.pc
  let others := if t.inEsp && t.isLead then s.espCtxs c else []
  andThen s.runSlots fun s =>
    let s := s.broadcast c pc others
    let s := if s.cur.moved then s else s.advance
    .next (s.modCtx c fun x => { x with replay := false })

/-! ## Issue of a grant -/

def State.trials (s : State) : List Nat → State × List (Nat × Verdict)
  | [] => (s, [])
  | c :: l =>
    let (s, v) := s.trial c
    let (s, vs) := s.trials l
    (s, (c, v) :: vs)

/-- The members issue one after the other within the step. -/
def State.runMembers (s : State) : List Nat → Outcome
  | [] => .next s
  | c :: l => andThen (s.runBundle c) fun s => s.runMembers l

/-- The step counter of an espalier rises. -/
def State.nextStep (s : State) (l : List Nat) : State :=
  l.foldl (fun (s : State) m =>
    if (s.ctx m).task.inEsp && (s.ctx m).busy then s.modCtx m fun x => { x with step := x.step + 1 } else s) s

/-- The verdicts on the bundles that are scheduled for the step of context `c`'s group; a rerun's closing checkpoint is
none of them. -/
def State.stepTrials (s : State) (c : Nat) : State × List (Nat × Verdict) :=
  let (s, vs) := s.trials ((s.group c).filter fun m => (s.ctx m).scheduled)
  (s, vs.filter fun p => p.2 ≠ .closes)

/-- Whether none of these bundles can issue now. -/
def stepWaits (vs : List (Nat × Verdict)) : Bool :=
  vs.isEmpty || vs.any fun p => match p.2 with | .waits _ => true | _ => false

/-- Whether the step is an empty issue cycle: some member issues the empty bundle (R264). -/
def stepEmpty (vs : List (Nat × Verdict)) : Bool := vs.any fun p => p.2 = .empty

/-- The first fault of a step that is no empty issue cycle, in the order of the members (R266). -/
def stepFault (vs : List (Nat × Verdict)) : Option (Nat × FaultRec) :=
  if stepEmpty vs then none
  else vs.findSome? fun p => match p.2 with | .fault f => some (p.1, f) | _ => none

/-- The grant of context `c`: its bundle, or its espalier's bundles, issue; or the first fault is taken and none
issues; or the empty bundle issues. What has come to wait since the grant does not issue. -/
def State.issue (s : State) (c : Nat) : Outcome :=
  let l := s.group c
  let (s, vs) := s.stepTrials c
  let due := vs.map (·.1)
  if stepWaits vs then .next s
  else match stepFault vs with
    | some (m, f) => .next (s.suppress m f)
    | none =>
      if stepEmpty vs then
        .next (due.foldl (fun s m => (s.openCycle m).countIssue m false) s)
      else andThen (s.runMembers due) fun s => .next (s.nextStep l)

end Sys2Proof.Machine
end

