-- ==== Sys2Proof/Machine/Schedule.lean ====
section
/-! DEFINITION. Machine/Schedule.lean: what the machine does of itself, core by core: the order is the model's own where the
spec gives none (spec/02 R72, spec/03 R84, spec/05 R151, spec/08 R225, spec/10 R300, spec/12 R373, spec/15 R441). -/

namespace Sys2Proof.Machine

/-- The state that an outcome leaves; one that stops leaves the state as it was. [DESIGN CHOICE, unsafe: log 8] -/
def State.after (s : State) (o : Outcome) : State := match o with | .next t => t | _ => s

/-! ## The hub's turn -/

/-- A packet for this module's hub acts (Table 14.3). -/
def State.packetArrives (s : State) (p : Packet) : State :=
  s.after (match p.op with
    | 0 => execPutPacket p s
    | 1 => execGetreq p s
    | 2 => execGetdata p s
    | 3 => execRaddPacket p s
    | 4 => execDone p s
    | _ => execNack p s)

/-- A function serves a message. -/
def State.messageServed (s : State) (q : Req) : State :=
  s.after (match q.op with
    | 0x01 => execRegionCreate q s
    | 0x02 => execRegionUpdate q s
    | 0x03 => execRegionDestroy q s
    | 0x10 => execQueueCreate q s
    | 0x11 => execQueueDestroy q s
    | 0x20 => execAsCreate q s
    | 0x21 => execWindowCreate q s
    | 0x22 => execWindowDestroy q s
    | 0x23 => execMapDevice q s
    | 0x24 => execSetRowthr q s
    | 0x30 => execLinkProtect q s
    | 0x40 => execVfBind q s
    | 0x41 => execPeerWindow q s
    | 0x50 => execGraft q s
    | _ => execSetPowercap q s)

/-- A core takes a message of its mailbox: of a host, a lease grant, a lane failure, of which F5 has nothing more to do, or the
report of a core to retire. A page request waits for its answer. -/
def State.letterServed (s : State) (m : Letter) : State :=
  match m with
  | .host q => s.messageServed q
  | .grant id => match s.grantsF3.findIdx? fun g => g.id = id with
    | some k => s.after (execLeaseGrant k s)
    | none => s
  | .page _ _ => s
  | .lane port lane => s.modNal 5 fun n => n.retire (.lane port lane)
  | .retire core => s.after (execCoreRetirement core s)

/-- A controller admits each request that it may, oldest first. `fuel` is their number. -/
def State.admitAll (s : State) (stack t : Nat) : Nat → State
  | 0 => s
  | n + 1 => match (List.range (s.hbmAt stack).waiting.length).find? fun k => s.mayAdmit stack k t with
    | some k => (s.hbmAdmit stack k t).admitAll stack t n
    | none => s

/-- A controller serves each request that it can. `fuel` is their number. -/
def State.serveAll (s : State) (stack t : Nat) : Nat → State
  | 0 => s
  | n + 1 => match (s.hbmAt stack).nextServed t with
    | some k => (s.hbmServe stack k t).serveAll stack t n
    | none => s

/-- A controller admits what it may and serves what it can. [DEDUCED, unsafe: log 56] -/
def State.controllerTurn (s : State) (stack t : Nat) : State :=
  let s := s.admitAll stack t (s.hbmAt stack).waiting.length
  s.serveAll stack t (s.hbmAt stack).admitted.length

/-- Whether a fragment waits for its region's injection credit (R439). -/
def State.fabHeld (s : State) : Bool :=
  s.ctxs.any fun p => [0, 1].any fun eng =>
    (s.nextFrag p.1 eng).any fun q => !s.fabAdmits p.2.task.region (64 * (Pk.dataFlits q.2.2 + 2))

/-- The controllers' turn: time passes by 50 ns while some request is at one, or a fragment waits for credit.
[DESIGN CHOICE, unsafe: log 8; DESIGN CHOICE, unsafe: log 9] -/
def State.memoryTurn (s : State) : State :=
  if s.hbm.any (fun p => !p.2.waiting.isEmpty || !p.2.admitted.isEmpty) || s.fabHeld then
    let s : State := { s with now := s.now + 50 }
    (List.range 8).foldl (fun (s : State) k => s.controllerTurn k s.now) s
  else s

/-- Packets, messages, wakes, aperture pushes and HBM requests at hand, and the replacements under way; a function that is
being replaced takes no message (R465). [DESIGN CHOICE, unsafe: log 8; DEDUCED, unsafe: log 43] -/
def State.hubTurn (s : State) : State :=
  let l := s.delivered
  let s := l.foldl State.packetArrives { s with delivered := [] }
  let mail := ((List.range 8).filter fun fn => !s.fnAway fn).flatMap fun fn => (s.nal fn).mail.map (·.1)
  (mail.foldl State.letterServed s).sendAllHeld.takeMboxes.retryAperture.unsealWakes.linkTurn.memoryTurn.replacements

/-! ## Dispatch (R300) -/

/-- The event of a queue that may dispatch or that leaves its state. -/
def State.queueEvent (s : State) (q : Nat) : Option Instr :=
  let x := s.queue q
  if s.walks.any fun w => w.q = q then
    if s.launches.any (fun l => l.q = some q) || s.grantsF3.any (fun g => g.launch.q = some q) then none else some (.walk q)
  else if !(x.live || x.st = .held) || x.st = .stopped || x.st = .fetchWait || s.inDispatch q then none
  else if x.st = .empty && !s.wakes.contains q then none
  else if x.st ≠ .held && (s.regionD x.owner).halted then some (.emptyRecord q)
  else match s.ringPa x.owner (x.slotVa x.dispt.toNat) with
    | none => some (.emptyRecord q)
    | some pa =>
      let r := BitVec.ofNat 512 (s.homeNat pa 64)
      if !recordFilled r x.dispt then some (.emptyRecord q)
      else match Rec.kind r with
        | 1 => some (.task q)
        | 2 => some (.walk q)
        | 3 => some (.wait q)
        | 4 => some (.signal q)
        | 5 => some (.bind q)
        | 6 => some (.lease q)
        | 7 => some (.summary q)
        | _ => some (.emptyRecord q)

/-- Queue events, with the priority of the owner, in round-robin order. -/
def State.queueEvents (s : State) : List (Nat × Instr) :=
  let ks := s.queues.map (·.1)
  ((ks.filter fun k => s.rrQueue ≤ k) ++ ks.filter fun k => k < s.rrQueue).filterMap fun k =>
    (s.queueEvent k).map fun i => (s.effPrio (s.queue k).owner, i)

/-- Resumptions of saved tasks that fit, or that can never be placed again. -/
def State.resumeEvents (s : State) : List (Nat × Instr) :=
  (s.saved.filter (·.live)).filterMap fun v =>
    let t := (v.members.getD 0 {}).task
    let place : Option Nat :=
      if (s.unmet t.region t.w t.h (decide (t.ew ≠ 0)) t.det t.win).isSome then some 0
      else (List.range Config.contexts).find? fun c => (s.resumeFits v c).isSome
    place.map fun c => (s.effPrio t.region, .resumption v.id c)

/-- The oldest entries of the overflow queues that find a context idle (R314). -/
def State.overflowEvents (s : State) : List (Nat × Instr) :=
  (s.overflow.filter fun p => p.2 ≠ []).filterMap fun p =>
    (s.overflowPlace p.1).map fun c => (s.effPrio p.1, .overflowQueueDispatch p.1 c)

/-- What competes for contexts, by effective PRIO, highest first (R300). -/
def State.dispatchEvents (s : State) : List Instr :=
  ((s.queueEvents ++ s.resumeEvents ++ s.overflowEvents).mergeSort fun a b => b.1 ≤ a.1).map (·.2)

/-- Launches and grants in progress. -/
def State.launchEvents (s : State) : List Instr :=
  let idx {α : Type} (l : List α) : List Nat := (List.range l.length).reverse
  ((idx s.launches).filter fun k => (s.launches[k]?).any fun l => l.stage = .cond).map .launchConditionMet ++
  (s.launches.filter fun l => l.stage = .reserve).flatMap (fun l =>
    match s.reservation l.die l.ticket with
    | none => [.reservationRetry l.die l.ticket]
    | some r =>
      if r.waiting then [.reservationRetry l.die l.ticket]
      else if r.committed.length = r.coresWanted.length then (r.coresWanted.take 1).map fun k => .commit k l.ticket
      else (r.coresWanted.filter fun k =>
          (s.core k).rheld.any (fun h => h.1 = l.ticket) || (s.core k).rwait.contains l.ticket).map fun k =>
        .reserve k l.ticket r.cls r.flexible) ++
  s.parkedInWay ++ s.preemptions.map .preemptionRequest

/-! ## A core's turn -/

/-- Whether a request for a line of a load is still at a controller: its data has not come. -/
def State.loadPends (s : State) (c : Nat) (o : Outst) : Bool :=
  match s.vaPa (s.asidAt c) o.va.toNat with
  | none => false
  | some pa => s.hbm.any fun p => (p.2.waiting ++ p.2.admitted).any fun q =>
      decide (pa / 128 ≤ q.pa / 128) && decide (q.pa / 128 ≤ (pa + o.size - 1) / 128)

/-- Whether a fault and a pending pre-emption meet at the boundary of context `c`; the fault is taken first, but for that
of a handler's first bundle (R291). -/
def State.faultFirst (s : State) (c : Nat) : Bool :=
  (s.ctx c).preempt && !(s.ctx c).firstOfHandler &&
    (let vs := (s.stepTrials c).2; !stepWaits vs && (stepFault vs).isSome)

/-- A pending request of context `c` that no fault of a member keeps from being taken (R291). -/
def State.requestDue (s : State) (c : Nat) : Bool :=
  (s.ctx c).preempt && !(s.holders (s.ctx c).task.uid).any s.faultFirst

/-- The events of a context's own operations that are due. -/
def State.ctxEvents (s : State) (c : Nat) : List Instr :=
  let x := s.ctx c
  ((List.range x.loads.length).reverse.filterMap fun k =>
    match x.loads[k]? with
    | some o =>
      if (o.ext && (s.peerLoad c o).isSome) || o.bad.isSome || s.loadPends c o then none else some (.interlockedLoadData c k 0)
    | none => none) ++
  List.replicate x.retry.length (.orderedRetry c 0) ++
  (if s.requestDue c then [.preemptionRequest c] else []) ++
  (if x.rerun.any fun r => r.phase ≠ 3 then [.rerunVerdict c] else []) ++
  (if x.st = .save then [.saveComplete c] else [])

/-- The granule that an engine of core `k` moves next. -/
def State.engineEvents (s : State) (k eng : Nat) : List Instr :=
  match s.chosen k eng with
  | some c => [.copyStop c eng, .copyCompletion c eng]
  | none => []

/-- Whether some deque or overflow queue holds an entry. -/
def State.workWaits (s : State) : Bool :=
  s.ctxs.any (fun p => !p.2.deque.isEmpty || !p.2.spill.isEmpty) || s.overflow.any fun p => p.2 ≠ []

def State.stealEvents (s : State) (c : Nat) : List Instr := if s.workWaits && s.thief c then [.stealRound c] else []

/-- What the machine does next of itself, in the turn of core `k`; the hub's events come with core 0's.
[DEDUCED, unsafe: log 84] -/
def State.events (s : State) (k : Nat) : List Instr :=
  (if k = 0 then
    (List.range s.ordNet.length).reverse.map .orderedAtomicArrival ++
      (List.range s.posts.length).reverse.map .flagPostArrival ++
      s.launchEvents ++ s.dispatchEvents ++ s.migrations.map fun m => .migration m.asid m.va m.frame
  else []) ++
  s.ctxEvents (2 * k) ++ s.ctxEvents (2 * k + 1) ++ s.engineEvents k 0 ++ s.engineEvents k 1 ++
  s.stealEvents (2 * k) ++ s.stealEvents (2 * k + 1) ++
  [.rbqFill k, .mergeDecision k]

/-- The cores take turns. [DESIGN CHOICE, unsafe: log 8; DEDUCED, unsafe: log 84] -/
def State.schedule (s : State) : State :=
  let s := if s.turn = 0 then s.hubTurn else s
  match [2 * s.turn, 2 * s.turn + 1].find? s.faultFirst with
  | some c => { s with grants := s.grants ++ [c] }
  | none =>
    { s with agenda := s.agenda ++ s.events s.turn, turn := (s.turn + 1) % Config.cores }

end Sys2Proof.Machine
end

