-- ==== Sys2Proof/Machine/Step.lean ====
section
/-! DEFINITION. Machine/Step.lean: one step of the machine, and the placing of an instruction where it is fetched
next. -/

namespace Sys2Proof.Machine

/-- A step: the oldest event at hand, else the oldest grant, else what the machine itself does next.
[DESIGN CHOICE, unsafe: log 8; DEDUCED, unsafe: log 84] -/
def step (s : State) : Host.Outcome State Fault Refusal :=
  match s.agenda with
  | i :: l => exec i { s with agenda := l }
  | [] => match s.grants with
    | c :: l => State.issue { s with grants := l } c
    | [] => .next s.schedule

/-- The task that the placed instruction runs in: one member in the foreground of core 0, with windows of 1 MiB and
one range. [DESIGN CHOICE, safe: log 7] -/
def placedTask : Task :=
  { uid := 1, win := [0x10_0000, 0x10_0000, 0x10_0000], pbase := [0, 0, 0]
    ranges := [⟨1, 0, 2 ^ 30, true, true, true⟩] }

/-- Its state: at the placed bundle, with an entry for each token that the bundle may hold.
[DESIGN CHOICE, safe: log 7] -/
def placedArch (b : BitVec 256) : Arch :=
  { pc := 0x10000
    dict := if isPacket b then
        (List.range 15).foldl (fun t j => Tab.set none t ((tokenAt b j).extractLsb' 7 9).toNat (some 0)) []
      else [] }

/-- The instruction stands at VA 0x10000 of address space 1, whose first segment is one page of 1 GiB, and context 0
is granted. [DESIGN CHOICE, safe: log 7] -/
def State.withFetchWord (s : State) (_nbits w : Nat) : State :=
  let b := BitVec.ofNat 256 w
  let raf : BitVec 128 := 0x1000#64 ++ 0x219#64
  let a := placedArch b
  let s := (s.homeWrite 0x1000 (bytesOf 8 0xF)).homeWrite 0x10000 (bytesOf 32 w)
  { s with
    agenda := []
    grants := [0]
    nextTask := 2
    spaces := Tab.set none s.spaces 1 (some { region := 0, raf := raf :: List.replicate 15 0 })
    ctxs := Tab.set {} s.ctxs 0 { st := .run, task := placedTask, a := a, cap := a, regionPc := a.pc } }

end Sys2Proof.Machine
end

