-- ==== Sys2Proof/Safety.lean ====
section
/-! DEFINITION. Safety.lean: the words in which claims are stated: a slot that acts, a result on its way, lanes, what is
left as it was, and the canonical form of the state's tables. -/

namespace Sys2Proof.Machine

/-! ## Results on their way -/

/-- `s` with result `l` added to those in flight of the context in issue; nothing else of the machine differs. -/
def State.withFlight (s : State) (l : Land) : State :=
  let x := s.here
  { s with ctxs := Tab.set {} s.ctxs s.cur.ctx { x with a := { x.a with flight := x.a.flight ++ [l] } } }

/-- The result of slot `u` (0 S, 3 X) bound for `d`, which also enters the slot's latch (R52, R55, R56). -/
def resultS (u : Nat) (d : Dst) (left : Nat) (v : Word) (status : Word := 0) : Land :=
  ⟨left, match d with | .reg n => [.s n.toNat v] | _ => [], some (u, ⟨64, v.setWidth 1024⟩), status⟩

/-- `s` with the architectural state of the context in issue replaced; nothing else of the machine differs. -/
def State.withArch (s : State) (a : Arch) : State :=
  { s with ctxs := Tab.set {} s.ctxs s.cur.ctx { s.here with a := a } }

/-- `s` with effect `e` added to the held effects of the context in issue (R284). -/
def State.withHeld (s : State) (e : Eff) : State :=
  { s with ctxs := Tab.set {} s.ctxs s.cur.ctx { s.here with cbuf := s.here.cbuf ++ [e] } }

/-! ## Slots -/

/-- Slot instruction `i` acts: the predicate map does not nullify its slot (R258, R259). -/
abbrev State.Acts (s : State) (i : Instr) : Prop := s.nullified s.cur.slot i = false

/-- The bundle in issue stands in no delay position (R108). -/
abbrev State.NoDelay (s : State) : Prop := s.here.a.delay = 0

/-- A computed write of `v` to `d` does not take the stack pointer below STKLIM (R99). -/
abbrev State.SpOk (s : State) (d : Dst) (v : Word) : Prop := d = .reg 31 → (s.cr 2).toNat ≤ v.toNat

/-! ## Lanes (R158, R159) -/

/-- The status that the active ones of `n` elements of `k` bits raise. -/
def laneStatus (k act n : Nat) (f : Nat → Nat × Word) : Word :=
  (List.range n).foldl (fun st i => if Vec.active k act i then st ||| (f i).2 else st) 0

/-- `o` holds `f i` in each active element `i` of `k` bits below width `w`, zero in the others, and would write the bits
of the active ones. -/
structure LanesAre (o : VOut) (k w act : Nat) (f : Nat → Nat × Word) : Prop where
  val_lt : o.val < 2 ^ (k * (w / k))
  elt : ∀ i, i < w / k → eltN k o.val i = if Vec.active k act i then (f i).1 % 2 ^ k else 0
  mask_lt : o.mask < 2 ^ (k * (w / k))
  on : ∀ i, i < w / k → eltN k o.mask i = if Vec.active k act i then 2 ^ k - 1 else 0
  st : o.st = laneStatus k act (w / k) f

/-- The V result `o` bound for `d` of the slot that acts: active bits to the register, all of it to the latch. -/
def State.resultV (s : State) (d : Dst) (left : Nat) (o : VOut) : Land :=
  ⟨left, match d with | .reg n => [.v n.toNat (BitVec.ofNat 1024 o.val) (BitVec.ofNat 1024 o.mask)] | _ => [],
    some (s.vUnit, ⟨s.cur.width, BitVec.ofNat 1024 o.val⟩), o.st⟩

/-- An element-by-element result on its way to `d`. -/
def State.SendsLanes (s t : State) (k left : Nat) (d : Dst) (mask : BitVec 4) (f : Nat → Nat × Word) : Prop :=
  ∃ o, LanesAre o k s.cur.width (s.act mask) f ∧ t = s.withFlight (s.resultV d left o)

/-- A mask result on its way to m register `d`: the bits of each element of `k` bits below the width hold `f`, those of
inactive elements 0. -/
def State.SendsMask (s t : State) (k : Nat) (d : BitVec 6) (mask : BitVec 4) (f : Nat → Bool × Word) : Prop :=
  ∃ m : Nat, m < 2 ^ (k / 8 * (s.cur.width / k)) ∧
    (∀ i, i < s.cur.width / k → eltN (k / 8) m i =
      if Vec.active k (s.act mask) i && (f i).1 then 2 ^ (k / 8) - 1 else 0) ∧
    t = s.withFlight ⟨1, [.m (d.toNat % 16) (BitVec.ofNat 128 m) (BitVec.ofNat 128 (2 ^ (s.cur.width / 8) - 1))], none,
      laneStatus k (s.act mask) (s.cur.width / k) fun i => (0, (f i).2)⟩

/-! ## What stays as it was -/

/-- Every byte of memory reads as before. -/
def State.SameBytes (s t : State) : Prop := ∀ a, t.homeByte a = s.homeByte a

/-- Every context but `c` is as before. -/
def State.SameOthers (s t : State) (c : Nat) : Prop := ∀ d, d ≠ c → t.ctx d = s.ctx d

/-! ## Canonical form -/

/-- Memory in its one canonical form: addresses strictly rising, no entry equal to what an unlisted one reads as.
[DESIGN CHOICE, safe: log 4] -/
abbrev Memory.wf (m : Tab Byte) : Prop := Tab.wf 0 m = true

/-- Memory, host memory and the table of contexts are in canonical form. -/
structure State.Canonical (s : State) : Prop where
  mem : Memory.wf s.mem
  host : Tab.wf none s.hostMem = true
  ctxs : Tab.wf {} s.ctxs = true

end Sys2Proof.Machine

namespace Sys2Proof

open Sys2Proof.Machine

/-- An outcome that is a next state. -/
def Completes (o : Host.Outcome State Fault Refusal) : Prop := ∃ t, o = .next t

end Sys2Proof
end

