-- ==== Sys2Proof/Certificates/Slice0/Obligations.lean ====
section
/-! DEFINITION. Certificates/Slice0/Obligations.lean: the statements for the provers. Every statement of the form
`exec i s = .next t` says that the instruction completes, with the whole next state `t`: what `t` does not name is as it
was in `s`. Each cites its rules in OBLIGATIONS.json. -/

open Sys2Proof Sys2Proof.Machine

/-! ## Scalar arithmetic -/

/-- The register forms of Tables 3.4 and 3.5 with their latencies and values. -/
def Sys2Proof.Claim.intRR : List ((Dst → Src → Src → Instr) × Nat × (Word → Word → Word)) :=
  [(.add, 1, fun x y => x + y), (.sub, 1, fun x y => x - y), (.and, 1, fun x y => x &&& y),
   (.or, 1, fun x y => x ||| y), (.xor, 1, fun x y => x ^^^ y),
   (.shl, 1, fun x y => x <<< (y &&& 63).toNat), (.shr, 1, fun x y => x >>> (y &&& 63).toNat),
   (.asr, 1, fun x y => x.sshiftRight (y &&& 63).toNat),
   (.mul, 3, fun x y => x * y),
   (.mulh, 3, fun x y => (x.signExtend 128 * y.signExtend 128).extractLsb' 64 64),
   (.mulhN64, 3, fun x y => (x.setWidth 128 * y.setWidth 128).extractLsb' 64 64),
   (.min, 1, fun x y => if y.slt x then y else x), (.max, 1, fun x y => if x.slt y then y else x)]

/-- Register forms: the value that Table 3.4 or 3.5 gives is on its way to the destination and the S latch; a suppressed
destination writes no register. SEL takes its first operand when its flag is set (R87). -/
def Obligations.IntegerRegisterForms : Prop :=
  (∀ f ∈ Claim.intRR, ∀ (s : State) (d : Dst) (a b : Src) (x y : Word),
    s.Acts (f.1 d a b) → s.srcS a = .ok x → s.srcS b = .ok y → s.SpOk d (f.2.2 x y) →
    exec (f.1 d a b) s = .next (s.withFlight (resultS 0 d f.2.1 (f.2.2 x y)))) ∧
  ∀ (s : State) (d : Dst) (a b : Src) (cf : BitVec 3) (x y : Word),
    s.Acts (.sel d a b cf) → s.srcS a = .ok x → s.srcS b = .ok y →
    s.SpOk d (if s.cflag cf.toNat then x else y) →
    exec (.sel d a b cf) s = .next (s.withFlight (resultS 0 d 1 (if s.cflag cf.toNat then x else y)))

/-- Immediate forms (R86): ADDI, ANDI with the immediate sign-extended, ORI with it zero-extended, the shifts, MOVI and
MOVHI, which replaces bits [16k+15:16k]. -/
def Obligations.IntegerImmediateForms : Prop :=
  ∀ (s : State) (d : Dst) (a : Src) (imm : BitVec 21) (k : BitVec 6) (h : BitVec 16) (j : BitVec 2) (x : Word),
    s.srcS a = .ok x →
    (s.Acts (.addi d a imm) → s.SpOk d (x + imm.signExtend 64) →
      exec (.addi d a imm) s = .next (s.withFlight (resultS 0 d 1 (x + imm.signExtend 64)))) ∧
    (s.Acts (.andi d a imm) → s.SpOk d (x &&& imm.signExtend 64) →
      exec (.andi d a imm) s = .next (s.withFlight (resultS 0 d 1 (x &&& imm.signExtend 64)))) ∧
    (s.Acts (.ori d a imm) → s.SpOk d (x ||| imm.setWidth 64) →
      exec (.ori d a imm) s = .next (s.withFlight (resultS 0 d 1 (x ||| imm.setWidth 64)))) ∧
    (s.Acts (.shli d a k) → s.SpOk d (x <<< k.toNat) →
      exec (.shli d a k) s = .next (s.withFlight (resultS 0 d 1 (x <<< k.toNat)))) ∧
    (s.Acts (.shri d a k) → s.SpOk d (x >>> k.toNat) →
      exec (.shri d a k) s = .next (s.withFlight (resultS 0 d 1 (x >>> k.toNat)))) ∧
    (s.Acts (.asri d a k) → s.SpOk d (x.sshiftRight k.toNat) →
      exec (.asri d a k) s = .next (s.withFlight (resultS 0 d 1 (x.sshiftRight k.toNat)))) ∧
    (s.Acts (.movi d imm) → s.SpOk d (imm.signExtend 64) →
      exec (.movi d imm) s = .next (s.withFlight (resultS 0 d 1 (imm.signExtend 64)))) ∧
    (∀ v : Word, (∀ i, i < 64 → v.getLsbD i =
        if 16 * j.toNat ≤ i ∧ i < 16 * j.toNat + 16 then h.getLsbD (i - 16 * j.toNat) else x.getLsbD i) →
      s.Acts (.movhi d a h j) → s.SpOk d v →
      exec (.movhi d a h j) s = .next (s.withFlight (resultS 0 d 1 v)))

/-- The register compares of Table 3.6. -/
def Sys2Proof.Claim.compares : List ((BitVec 6 → Src → Src → Instr) × (Word → Word → Bool)) :=
  [(.cmpeq, fun x y => x == y), (.cmpne, fun x y => x != y), (.cmplt, fun x y => x.slt y),
   (.cmple, fun x y => x.sle y), (.cmpltn, fun x y => x.ult y)]

/-- Compares write one flag, one issue cycle later, and enter no latch. -/
def Obligations.ComparesWriteOneFlag : Prop :=
  (∀ f ∈ Claim.compares, ∀ (s : State) (d : BitVec 6) (a b : Src) (x y : Word),
    s.Acts (f.1 d a b) → s.srcS a = .ok x → s.srcS b = .ok y →
    exec (f.1 d a b) s = .next (s.withFlight ⟨1, [.c (d.toNat % 8) (f.2 x y)], none, 0⟩)) ∧
  ∀ (s : State) (d : BitVec 6) (a : Src) (imm : BitVec 21) (x : Word), s.srcS a = .ok x →
    (s.Acts (.cmpeqi d a imm) → exec (.cmpeqi d a imm) s =
      .next (s.withFlight ⟨1, [.c (d.toNat % 8) (x == imm.signExtend 64)], none, 0⟩)) ∧
    (s.Acts (.cmplti d a imm) → exec (.cmplti d a imm) s =
      .next (s.withFlight ⟨1, [.c (d.toNat % 8) (x.slt (imm.signExtend 64))], none, 0⟩))

/-- The PLOG operations with two operands. -/
def Sys2Proof.Claim.plogs : List ((Bool → BitVec 4 → BitVec 4 → BitVec 4 → Instr) × (Bool → Bool → Bool)) :=
  [(.pand, fun x y => x && y), (.por, fun x y => x || y), (.pxor, fun x y => x ^^ y), (.pandn, fun x y => x && !y)]

/-- PLOG on condition flags writes one flag; on masks it writes every bit of one mask (R89). -/
def Obligations.PlogFlagsAndMasks : Prop :=
  (∀ f ∈ Claim.plogs, ∀ (s : State) (d a b : BitVec 4),
    (s.Acts (f.1 false d a b) → exec (f.1 false d a b) s =
      .next (s.withFlight ⟨1, [.c d.toNat (f.2 (s.cflag a.toNat) (s.cflag b.toNat))], none, 0⟩)) ∧
    (∀ v : BitVec 128, (∀ i, i < 128 → v.getLsbD i = f.2 ((s.mreg a.toNat).getLsbD i) ((s.mreg b.toNat).getLsbD i)) →
      s.Acts (f.1 true d a b) → exec (f.1 true d a b) s =
        .next (s.withFlight ⟨1, [.m d.toNat v (BitVec.allOnes 128)], none, 0⟩))) ∧
  ∀ (s : State) (d a : BitVec 4),
    (s.Acts (.pnot false d a) → exec (.pnot false d a) s =
      .next (s.withFlight ⟨1, [.c d.toNat (!s.cflag a.toNat)], none, 0⟩)) ∧
    (s.Acts (.pnot true d a) → exec (.pnot true d a) s =
      .next (s.withFlight ⟨1, [.m d.toNat (~~~(s.mreg a.toNat)) (BitVec.allOnes 128)], none, 0⟩))

/-- The scalar floating-point forms of two sources, with their latencies and their results on FP32 encodings. -/
def Sys2Proof.Claim.scalarFp : List ((Dst → Src → Src → Instr) × Nat × (Nat → Nat → Nat × Word)) :=
  [(.fadd, 4, Fmt.f32.fadd), (.fsub, 4, Fmt.f32.fsub), (.fmul, 4, Fmt.f32.fmul), (.fdiv, 12, Fmt.f32.fdiv)]

/-- Scalar floating point (R92 to R95): the operation on bits [31:0] of the operands, its result zero-extended to the
destination and the S latch, its status raised when it lands; FMA adds the destination register as it stands; a compare
writes one flag; FCVT converts by its code. Selector 49 reads as 1.0, and in FCVT as 1 of the source format. -/
def Obligations.ScalarFloatForms : Prop :=
  (∀ f ∈ Claim.scalarFp, ∀ (s : State) (d : Dst) (a b : Src) (x y : Word),
    s.Acts (f.1 d a b) → s.srcS a oneF32 = .ok x → s.srcS b oneF32 = .ok y →
    exec (f.1 d a b) s = .next (s.withFlight (resultS 0 d f.2.1
      (BitVec.ofNat 64 (f.2.2 (x.toNat % 2 ^ 32) (y.toNat % 2 ^ 32)).1) (f.2.2 (x.toNat % 2 ^ 32) (y.toNat % 2 ^ 32)).2))) ∧
  (∀ (s : State) (n : BitVec 5) (a b : Src) (x y : Word),
    s.Acts (.fma (.reg n) a b) → s.srcS a oneF32 = .ok x → s.srcS b oneF32 = .ok y →
    let r := Fmt.f32.ffma (x.toNat % 2 ^ 32) (y.toNat % 2 ^ 32) ((s.reg n.toNat).toNat % 2 ^ 32)
    exec (.fma (.reg n) a b) s = .next (s.withFlight (resultS 0 (.reg n) 4 (BitVec.ofNat 64 r.1) r.2))) ∧
  (∀ (s : State) (d : Dst) (a : Src) (x : Word), s.Acts (.fsqrt d a) → s.srcS a oneF32 = .ok x →
    exec (.fsqrt d a) s = .next (s.withFlight (resultS 0 d 12
      (BitVec.ofNat 64 (Fmt.f32.fsqrt (x.toNat % 2 ^ 32)).1) (Fmt.f32.fsqrt (x.toNat % 2 ^ 32)).2))) ∧
  (∀ f ∈ [(Instr.fcmpeq, Rel.eq), (.fcmplt, .lt), (.fcmple, .le)], ∀ (s : State) (d : BitVec 6) (a b : Src) (x y : Word),
    s.Acts (f.1 d a b) → s.srcS a oneF32 = .ok x → s.srcS b oneF32 = .ok y →
    let r := Fmt.f32.compare f.2 (x.toNat % 2 ^ 32) (y.toNat % 2 ^ 32)
    exec (f.1 d a b) s = .next (s.withFlight ⟨1, [.c (d.toNat % 8) r.1], none, r.2⟩)) ∧
  ∀ (s : State) (d : Dst) (a : Src) (code : BitVec 4) (x : Word),
    s.Acts (.fcvt d a code) → s.srcS a (fcvtOne code.toNat) = .ok x →
    exec (.fcvt d a code) s = .next (s.withFlight (resultS 0 d 3 (fcvt code.toNat x).1 (fcvt code.toNat x).2))

/-! ## Control registers, moves and control transfer -/

/-- CRD reads a control register, PKC packs the eight flags, UPC unpacks them, CWR, MOVG and PBR write one register, one
issue cycle later (R101 to R105). -/
def Obligations.ControlRegisterForms : Prop :=
  ∀ (s : State) (d : Dst) (g : BitVec 6) (a : Src) (n : BitVec 12) (imm : BitVec 21) (x : Word), s.srcS a = .ok x →
    (s.Acts (.crd d n) → exec (.crd d n) s = .next (s.withFlight (resultS 0 d 1 (s.crd n.toNat)))) ∧
    (s.Acts (.cwr a n) → exec (.cwr a n) s = .next (s.withFlight ⟨1, [.cr n.toNat x], none, 0⟩)) ∧
    (s.Acts (.movg g a) → exec (.movg g a) s = .next (s.withFlight ⟨1, [.g (g.toNat % 16) x], none, 0⟩)) ∧
    (∀ v : Word, (∀ i, v.getLsbD i = (decide (i < 8) && s.cflag i)) → s.Acts (.pkc d) →
      exec (.pkc d) s = .next (s.withFlight (resultS 0 d 1 v))) ∧
    (s.Acts (.upc a) → exec (.upc a) s = .next (s.withFlight ⟨1, [.c 0 (x.getLsbD 0), .c 1 (x.getLsbD 1),
      .c 2 (x.getLsbD 2), .c 3 (x.getLsbD 3), .c 4 (x.getLsbD 4), .c 5 (x.getLsbD 5), .c 6 (x.getLsbD 6),
      .c 7 (x.getLsbD 7)], none, 0⟩)) ∧
    (s.Acts (.pbr g a imm) →
      exec (.pbr g a imm) s = .next (s.withFlight ⟨1, [.b (g.toNat % 4) (x + imm.signExtend 64)], none, 0⟩))

/-- Outside a delay position and outside an espalier's followers: TRN sets the transfer to its b register when it is taken
and only then; CALL sets it, and b3 receives the PC of the bundle two after its successor; LOOP with count 0 jumps past
the loop, else opens a level; LEND counts the index register up, and jumps back until the count is reached, then closes
the level (R106 to R113). -/
def Obligations.ControlTransferForms : Prop :=
  ∀ s : State, s.NoDelay → (s.here.task.inEsp && !s.here.task.isLead) = false →
    (∀ (flag : BitVec 3) (neg alw : Bool) (a : BitVec 6),
      let taken := alw || (s.cflag flag.toNat != neg)
      exec (.trn flag neg alw a) s = .next { s with cur := { s.cur with
        control := true, steer := ⟨0, taken, s.breg a.toNat⟩
        transfer := if taken then some (s.breg a.toNat) else s.cur.transfer } }) ∧
    (∀ (a : Src) (imm : BitVec 21) (x : Word), s.srcS a = .ok x →
      let t := s.withFlight ⟨1, [.b 3 (s.succOf (s.succOf s.cur.succ))], none, 0⟩
      exec (.call a imm) s = .next { t with cur := { s.cur with
        control := true, steer := ⟨0, true, x + imm.signExtend 64⟩, transfer := some (x + imm.signExtend 64) } }) ∧
    (∀ (k : BitVec 6) (a : Src) (imm : BitVec 21) (x : Word), s.srcS a = .ok x → x.setWidth 32 = (0 : BitVec 32) →
      exec (.loop k a imm) s = .next { s with cur := { s.cur with
        steer := ⟨0, false, s.pc + imm.signExtend 64⟩, jump := some (s.pc + imm.signExtend 64) } }) ∧
    (∀ (k : BitVec 6) (a : Src) (imm : BitVec 21) (x : Word), s.srcS a = .ok x → x.setWidth 32 ≠ (0 : BitVec 32) →
      s.here.a.loops.length < 4 → (∀ l ∈ s.here.a.loops, l.k ≠ k.toNat) →
      exec (.loop k a imm) s = .next { s with
        cur := { s.cur with steer := ⟨(x.setWidth 32 : BitVec 32).toNat, false, s.pc + imm.signExtend 64⟩ }
        ctxs := Tab.set {} s.ctxs s.cur.ctx { s.here with a := { s.here.a with
          loops := ⟨k.toNat, (x.setWidth 32 : BitVec 32).toNat, s.cur.succ⟩ :: s.here.a.loops
          ix := Tab.set 0 s.here.a.ix s.here.a.loops.length k.toNat
          flight := s.here.a.flight ++ [⟨1, [.i k.toNat 0], none, 0⟩] } } }) ∧
    (∀ (l : LoopLvl) (rest : List LoopLvl), s.here.a.loops = l :: rest →
      let more := decide ((s.ireg l.k + 1).toNat < l.count)
      exec .lend s = .next { s with
        cur := { s.cur with steer := ⟨l.count, more, l.start⟩, jump := if more then some l.start else s.cur.jump }
        ctxs := Tab.set {} s.ctxs s.cur.ctx { s.here with a := { s.here.a with
          loops := if more then s.here.a.loops else rest
          flight := s.here.a.flight ++ [⟨1, [.i l.k (s.ireg l.k + 1)], none, 0⟩] } } })

/-- Slot instruction `i` is not performed: its context takes the fault `f`. -/
def Sys2Proof.Claim.Raises (i : Instr) (s : State) (f : FaultRec) : Prop :=
  exec i s = .next { s.takeFault s.cur.ctx f with cur := { (s.takeFault s.cur.ctx f).cur with raised := some f } }

/-- The NOP of each slot changes nothing (R44); an instruction in a slot that the predicate map nullifies changes nothing
but for the random word that it would have taken (R258, R259). -/
def Obligations.NopsAndNullifiedSlots : Prop :=
  (∀ i ∈ [Instr.snop, .vnop, .mnop, .cnop, .ynop, .xnop], ∀ s : State, exec i s = .next s) ∧
  ∀ (s : State) (i : Instr), (encode i).1 ∈ [Place.plog, .s, .v, .m, .c, .y, .x] → s.nullified s.cur.slot i = true →
    exec i s = .next (if popsWord i ∧ s.here.a.rbq ≠ [] then s.withArch { s.here.a with
      rbq := s.here.a.rbq.tail, popcnt := s.here.a.popcnt + 1 } else s)

/-- The two bundles that follow one with a TRN, taken or not, or a CALL are delay positions. A control-flow instruction in
one raises ILLEGAL 0x11 (R108): it is not performed, and the context takes the fault; where its slot has another cause
too, that of the lower detail is recorded (R54, log 103). A checkpoint bundle may stand in one, and captures the pending
transfer. The model's own choices in it: log 103. -/
def Obligations.ControlFlowInDelayPosition : Prop :=
  (∀ (s : State) (f : BitVec 3) (n w : Bool) (a : BitVec 6), s.NoDelay → (s.here.task.inEsp && !s.here.task.isLead) = false →
    ∃ t, exec (.trn f n w a) s = .next t ∧ t.cur.control = true) ∧
  (∀ (s : State) (a : Src) (imm : BitVec 21) (x : Word), s.NoDelay → (s.here.task.inEsp && !s.here.task.isLead) = false →
    s.srcS a = .ok x → ∃ t, exec (.call a imm) s = .next t ∧ t.cur.control = true) ∧
  (∀ (a : Arch) (k : Cur), (a.advance k).delay = if k.control then 2 else a.delay - 1) ∧
  (∀ s : State, Tab.wf {} s.ctxs = true → s.here.loadsDone = true → ∃ t, exec .checkpointBundle s = .next t ∧
    (t.ctx s.cur.ctx).cap.pending = s.here.a.pending ∧ (t.ctx s.cur.ctx).cap.delay = s.here.a.delay) ∧
  (∀ s : State, s.here.a.delay ≠ 0 →
    ∀ i, ((∃ f n a b, i = Instr.trn f n a b) ∨ i = .lend ∨ (i = .exit ∧ s.cr 0x21 = 0) ∨
        (∃ a imm x, i = .call a imm ∧ s.srcS a = .ok x) ∨ (∃ k a imm x, i = .loop k a imm ∧ s.srcS a = .ok x) ∨
        (s.Acts i ∧ (i = .eret ∨ (i = .join ∧ s.checkJoin = .ok ()) ∨
          ∃ wt d a x, i = .spawn wt d a ∧ s.srcS a = .ok x ∧ x.toNat % 256 = 0 ∧ x.toNat < 2 ^ 56 ∧
            s.here.task.leased x.toNat 256 .read = true ∧ s.inlineSpawn = false))) →
    ∃ f, f.cls = 0x01 ∧ f.detail = 0x11 ∧ f.slot = s.cur.slot ∧ f.pc = s.here.a.pc ∧ Claim.Raises i s f) ∧
  ∀ s : State, s.here.a.delay ≠ 0 → ∀ i, s.Acts i →
    ((∃ f n a b, i = Instr.trn f n a b) ∨ (∃ a imm, i = .call a imm) ∨ (∃ k a imm, i = .loop k a imm) ∨ i = .lend ∨
      i = .exit ∨ i = .join ∨ i = .eret ∨ ∃ wt d a, i = .spawn wt d a) →
    ∃ f, f.detail ≤ 0x11 ∧ Claim.Raises i s f

/-! ## Memory and scratchpad -/

/-- An interlocked load of `n` bytes at `va` by the bundle in issue, whose data `w` is on its way. -/
def Sys2Proof.Claim.loaded (s : State) (va n : Nat) (w : Wr) : Outst :=
  { wr := w, pc := s.pc, va := BitVec.ofNat 64 va, size := n, ext := false, bad := none }

/-- `i` joins the loads outstanding (R84): with the bytes that a load of `n` bytes at `va` finds, which `wr` writes when
they return, or with the fault that it meets; the state is otherwise what reading the bytes leaves. -/
def Sys2Proof.Claim.Joins (i : Instr) (s : State) (va n : Nat) (hint : Hint) (acq : Option (Scope × BitVec 4))
    (wr : List Byte → Wr) : Prop :=
  ∀ t, (∀ bytes, s.loadBytes va n hint acq = (t, .ok bytes) →
      exec i s = .next (t.addLoad (Claim.loaded t va n (wr bytes)))) ∧
    ∀ f, s.loadBytes va n hint acq = (t, .error f) →
      exec i s = .next (t.addLoad { Claim.loaded t va n (wr (List.replicate n 0)) with bad := some f })

/-- `i` loads a device page: it is outstanding, and its request not yet sent, with its acquire and the context's own held
bytes; or with its fault where the translation fails. -/
def Sys2Proof.Claim.JoinsDevice (i : Instr) (s : State) (va n : Nat) (acq : Option (Scope × BitVec 4))
    (wr : List Byte → Wr) : Prop :=
  ∀ t, (∀ pa, s.resolve va .read = (t, some pa) →
      exec i s = .next (t.addLoad { Claim.loaded t va n (wr (List.replicate n 0)) with
        ext := true, acq := acq, own := t.ownHeld t.cur.ctx pa n, sent := false })) ∧
    (s.resolve va .read = (t, none) →
      exec i s = .next (t.addLoad { Claim.loaded t va n (wr (List.replicate n 0)) with
        ext := true, acq := acq, bad := some (t.walkFault va n false), sent := false }))

/-- Loads complete by joining the loads outstanding (R84, R96, R97, R116, R182): with an aligned, leased address in normal
memory the destination is to receive the bytes that the load finds, zero-extended, or in its active bytes for VLD, and a
load that finds none is outstanding with its fault. An S-slot load of a device page is outstanding before its request is
sent, which waits for the context's earlier device accesses (R98, R334, R358).
The model's own choices in it: log 10. -/
def Obligations.LoadsJoinTheOutstanding : Prop :=
  ∀ (s : State) (d : Dst) (n : BitVec 6) (a b : Src) (m : Mod) (imm : BitVec 21) (imm13 : BitVec 13) (off : BitVec 6)
    (mask : BitVec 4) (x y : Word),
    s.srcS a = .ok x → s.srcS b = .ok y →
    let word (l : List Byte) : Wr := .s (Dst.num d) (BitVec.ofNat 64 (ofBytes l))
    (∀ va k : Nat, va = (x + y).toNat → k = sizeBytes m.size → s.Acts (.ld d a b m) → va % k = 0 →
      s.here.task.leased va k .read = true →
      (s.mtype va ≠ 1 → Claim.Joins (.ld d a b m) s va k m.hint (annot m) word) ∧
      (s.mtype va = 1 → Claim.JoinsDevice (.ld d a b m) s va k (annot m) word)) ∧
    (∀ va : Nat, va = (x + imm.signExtend 64).toNat → s.Acts (.ldi d a imm) → va % 8 = 0 →
      s.here.task.leased va 8 .read = true →
      (s.mtype va ≠ 1 → Claim.Joins (.ldi d a imm) s va 8 .normal none word) ∧
      (s.mtype va = 1 → Claim.JoinsDevice (.ldi d a imm) s va 8 none word)) ∧
    (∀ va : Nat, va = (x + y + BitVec.ofNat 64 (32 * off.toNat)).toNat → s.Acts (.vld d a b off mask) →
      va % (s.cur.width / 8) = 0 → s.here.task.leased va (s.cur.width / 8) .read = true → s.mtype va ≠ 1 →
      Claim.Joins (.vld d a b off mask) s va (s.cur.width / 8) .normal none fun l =>
        .v (Dst.num d) (BitVec.ofNat 1024 (ofBytes l))
          (BitVec.ofNat 1024 (Vec.activeBits 8 s.cur.width (s.act mask)))) ∧
    (∀ va : Nat, va = (x + imm13.signExtend 64).toNat → s.Acts (.nld n a imm13) → va % 64 = 0 →
      s.here.task.leased va 64 .read = true → s.mtype va ≠ 1 →
      Claim.Joins (.nld n a imm13) s va 64 .normal none fun l => .n (n.toNat % 8) (BitVec.ofNat 512 (ofBytes l)))

/-- Stores complete by being held in the commit buffer, with the address and the bytes that they will write (R96, R116,
R182, R284): a store of the S slot through s30 or s31 must not lie below STKLIM, and one of a V or X slot must not lie
in device memory. No byte of memory changes, and nothing else of the machine does. -/
def Obligations.StoresAreHeld : Prop :=
  ∀ (s : State) (v : Src) (n : BitVec 6) (a b : Src) (m : Mod) (imm : BitVec 21) (imm13 : BitVec 13) (off : BitVec 6)
    (mask : BitVec 4) (x y z : Word),
    s.srcS a = .ok x → s.srcS b = .ok y →
    (∀ va k : Nat, va = (x + y).toNat → k = sizeBytes m.size → s.srcS v = .ok z → s.Acts (.st v a b m) → va % k = 0 →
      (a = .reg 30 ∨ a = .reg 31 → (s.cr 2).toNat ≤ va) → s.here.task.leased va k .write = true →
      exec (.st v a b m) s = .next (s.withHeld (.store (BitVec.ofNat 64 va) ((bytesOf k z.toNat).map some) m.hint
        (if m.ord = .plain then none else some ⟨m.scope, m.paths, s.here.seq⟩) s.pc s.cur.slot))) ∧
    (∀ va : Nat, va = (x + imm.signExtend 64).toNat → s.srcS v = .ok z → s.Acts (.sti v a imm) → va % 8 = 0 →
      (a = .reg 30 ∨ a = .reg 31 → (s.cr 2).toNat ≤ va) → s.here.task.leased va 8 .write = true →
      exec (.sti v a imm) s = .next (s.withHeld (.store (BitVec.ofNat 64 va) ((bytesOf 8 z.toNat).map some) .normal
        none s.pc s.cur.slot))) ∧
    (∀ va w : Nat, va = (x + y + BitVec.ofNat 64 (32 * off.toNat)).toNat → s.srcV v s.cur.width 8 = .ok w →
      s.Acts (.vst v a b off mask) → va % (s.cur.width / 8) = 0 →
      s.here.task.leased va (s.cur.width / 8) .write = true → s.mtype va ≠ 1 →
      exec (.vst v a b off mask) s = .next (s.withHeld (.store (BitVec.ofNat 64 va)
        ((List.range (s.cur.width / 8)).map fun j =>
          if (s.act mask).testBit j then some (BitVec.ofNat 8 (w / 2 ^ (8 * j))) else none)
        .normal none s.pc s.cur.slot))) ∧
    (∀ va : Nat, va = (x + imm13.signExtend 64).toNat → s.Acts (.nst n a imm13) → va % 64 = 0 →
      s.here.task.leased va 64 .write = true → s.mtype va ≠ 1 →
      exec (.nst n a imm13) s = .next (s.withHeld (.store (BitVec.ofNat 64 va)
        ((bytesOf 64 (s.nreg n.toNat).toNat).map some) .normal none s.pc s.cur.slot)))

/-- An access `i` of `n` bytes at `va`, aligned to `n`, raises ALIGN when misaligned, then STACK where it stores through
a stack register below STKLIM, then LEASE when its lease does not allow all of it, then, in a slot other than S, ALIGN
for a device page; the record names its lowest address. -/
def Sys2Proof.Claim.BadAccess (i : Instr) (s : State) (va n : Nat) (need : Need) (below onlyS : Bool) : Prop :=
  let raises (cls detail : Nat) (rec3 : Word) : Prop :=
    Claim.Raises i s ⟨cls, s.cur.slot, detail, s.pc, BitVec.ofNat 64 va, rec3⟩
  let aligned := va % n = 0
  let leased := s.here.task.leased va n need
  (va % n ≠ 0 → raises 0x07 0 (BitVec.ofNat 64 n)) ∧
  (aligned → below = true → raises 0x02 1 (s.cr 2)) ∧
  (aligned → below = false → leased = false → raises 0x03 0 (BitVec.ofNat 64 (n + need.w.toNat * 2 ^ 32))) ∧
  (aligned → below = false → leased = true → onlyS = false → s.mtype va = 1 → raises 0x07 0 0)

/-- Accesses of memory that fault (R97, R99, R334): a misaligned address raises ALIGN with the alignment it lacks, a store
through s30 or s31 below STKLIM raises STACK, an access outside its lease raises LEASE with its size and whether it
writes, and a V or X slot's access of a device page raises ALIGN with 0; in that order. Which of two faults of one slot
is recorded when a store's data also faults: log 103. The model's own choices in it: log 103. -/
def Obligations.BadAccessesFault : Prop :=
  ∀ (s : State) (d : Dst) (v : Src) (n : BitVec 6) (a b : Src) (m : Mod) (imm : BitVec 21) (imm13 : BitVec 13)
    (off : BitVec 6) (mask : BitVec 4) (x y z : Word),
    s.srcS a = .ok x → s.srcS b = .ok y →
    let below (va : Nat) : Bool := decide ((a = .reg 30 ∨ a = .reg 31) ∧ va < (s.cr 2).toNat)
    (∀ va k : Nat, va = (x + y).toNat → k = sizeBytes m.size →
      (s.Acts (.ld d a b m) → Claim.BadAccess (.ld d a b m) s va k .read false true) ∧
      (s.Acts (.st v a b m) → s.srcS v = .ok z → Claim.BadAccess (.st v a b m) s va k .write (below va) true)) ∧
    (∀ va : Nat, va = (x + imm.signExtend 64).toNat →
      (s.Acts (.ldi d a imm) → Claim.BadAccess (.ldi d a imm) s va 8 .read false true) ∧
      (s.Acts (.sti v a imm) → s.srcS v = .ok z → Claim.BadAccess (.sti v a imm) s va 8 .write (below va) true)) ∧
    (∀ va w : Nat, va = (x + y + BitVec.ofNat 64 (32 * off.toNat)).toNat → s.cur.width ∈ [256, 512, 1024] →
      (s.Acts (.vld d a b off mask) → Claim.BadAccess (.vld d a b off mask) s va (s.cur.width / 8) .read false false) ∧
      (s.Acts (.vst v a b off mask) → s.srcV v s.cur.width 8 = .ok w →
        Claim.BadAccess (.vst v a b off mask) s va (s.cur.width / 8) .write false false)) ∧
    (∀ va : Nat, va = (x + imm13.signExtend 64).toNat →
      (s.Acts (.nld n a imm13) → Claim.BadAccess (.nld n a imm13) s va 64 .read false false) ∧
      (s.Acts (.nst n a imm13) → Claim.BadAccess (.nst n a imm13) s va 64 .write false false))

/-- Scratchpad loads deliver, four issue cycles later, the bytes that the windows hold at their address (R100, R181), and
ESLD fills its target's register three cycles later (R195); the address is aligned, meets no earlier slot's bank, and
lies in a window. -/
def Obligations.ScratchpadLoads : Prop :=
  ∀ (s : State) (d : Dst) (t6 : BitVec 6) (a b : Src) (sz : Size) (imm : BitVec 21) (imm13 : BitVec 13) (off : BitVec 6)
    (mask : BitVec 4) (x y : Word),
    s.srcS a = .ok x → s.srcS b = .ok y →
    (∀ lo k : Nat, lo = (x + y).toNat → k = sizeBytes sz → s.Acts (.spld d a b sz) → s.checkSpad lo k k = .ok () →
      ∀ t bytes, s.spadRead s.cur.ctx lo k = (t, bytes) →
      exec (.spld d a b sz) s = .next (t.withFlight (resultS 0 d 4 (BitVec.ofNat 64 (ofBytes bytes))))) ∧
    (∀ lo : Nat, lo = (x + imm.signExtend 64).toNat → s.Acts (.spldi d a imm) → s.checkSpad lo 8 8 = .ok () →
      ∀ t bytes, s.spadRead s.cur.ctx lo 8 = (t, bytes) →
      exec (.spldi d a imm) s = .next (t.withFlight (resultS 0 d 4 (BitVec.ofNat 64 (ofBytes bytes))))) ∧
    (∀ lo : Nat, lo = (x + y + BitVec.ofNat 64 (32 * off.toNat)).toNat → s.Acts (.vspld d a b off mask) →
      s.checkSpad lo (s.cur.width / 8) (s.cur.width / 8) = .ok () →
      ∀ t bytes, s.spadRead s.cur.ctx lo (s.cur.width / 8) = (t, bytes) →
      ∃ u, exec (.vspld d a b off mask) s = .next u ∧
        t.SendsLanes u 8 4 d mask fun i => ((bytes.getD i 0).toNat, 0)) ∧
    (∀ lo : Nat, lo = (x + imm13.signExtend 64).toNat → s.Acts (.esld t6 a imm13) →
      s.checkSpad lo (esldSize t6).1 (esldSize t6).2 = .ok () →
      ∀ t bytes, s.spadRead s.cur.ctx lo (esldSize t6).1 = (t, bytes) →
      exec (.esld t6 a imm13) s = .next (t.withFlight ⟨3,
        (if t6.toNat = 8 then [.asc (BitVec.ofNat 2048 (ofBytes bytes)), .ph0]
          else if t6.toNat = 9 then [.bsc (BitVec.ofNat 4096 (ofBytes bytes)), .ph0]
          else if t6.toNat = 10 then [.asc (BitVec.ofNat 2048 (ofBytes (bytes.take 256))),
            .bsc (BitVec.ofNat 4096 (ofBytes (bytes.drop 256))), .ph0]
          else [.e t6.toNat (BitVec.ofNat 128 (ofBytes bytes)) (BitVec.allOnes 128)]), none, 0⟩))

/-- Scratchpad stores write at their issue (R100, R181): the bytes at the physical offsets of their address become those
stored, active ones only for VSPST; every other byte of every scratchpad, every byte of memory and every context is as
before. -/
def Obligations.ScratchpadStores : Prop :=
  ∀ (s : State) (v : Src) (a b : Src) (sz : Size) (imm : BitVec 21) (off : BitVec 6) (mask : BitVec 4) (x y z : Word),
    s.srcS a = .ok x → s.srcS b = .ok y →
    let stored (i : Instr) (lo n : Nat) (byte : Nat → Option Byte) : Prop :=
      ∃ t, exec i s = .next t ∧ t = { s with cores := t.cores } ∧ (∀ k, k ≠ coreOf s.cur.ctx → t.core k = s.core k) ∧
        t.core (coreOf s.cur.ctx) = { s.core (coreOf s.cur.ctx) with spad := (t.core (coreOf s.cur.ctx)).spad } ∧
        (∀ j, j < n → ∀ w, byte j = some w →
          Tab.get none (t.core (coreOf s.cur.ctx)).spad (s.here.task.spadPa (lo + j)) = some w) ∧
        (∀ p, (∀ j, j < n → byte j ≠ none → p ≠ s.here.task.spadPa (lo + j)) →
          Tab.get none (t.core (coreOf s.cur.ctx)).spad p = Tab.get none (s.core (coreOf s.cur.ctx)).spad p)
    (∀ lo k : Nat, lo = (x + y).toNat → k = sizeBytes sz → s.srcS v = .ok z → s.Acts (.spst v a b sz) → s.checkSpad lo k k = .ok () →
      stored (.spst v a b sz) lo k fun j => some (BitVec.ofNat 8 (z.toNat / 2 ^ (8 * j)))) ∧
    (∀ lo : Nat, lo = (x + imm.signExtend 64).toNat → s.srcS v = .ok z → s.Acts (.spsti v a imm) → s.checkSpad lo 8 8 = .ok () →
      stored (.spsti v a imm) lo 8 fun j => some (BitVec.ofNat 8 (z.toNat / 2 ^ (8 * j)))) ∧
    (∀ lo w : Nat, lo = (x + y + BitVec.ofNat 64 (32 * off.toNat)).toNat → s.srcV v s.cur.width 8 = .ok w →
      s.cur.width ∈ [256, 512, 1024] → s.Acts (.vspst v a b off mask) → s.checkSpad lo (s.cur.width / 8) (s.cur.width / 8) = .ok () →
      stored (.vspst v a b off mask) lo (s.cur.width / 8) fun j =>
        if (s.act mask).testBit j then some (BitVec.ofNat 8 (w / 2 ^ (8 * j))) else none)

/-- Addresses and random words (R56, R99, R117, R152): LEA and LEAI deliver their sum through the X latch one cycle later,
AGEN the affine address of a nest record two cycles later; RBPOP takes the oldest random word, which leaves the queue
and is counted. -/
def Obligations.AddressesAndRandomWords : Prop :=
  ∀ (s : State) (d : Dst) (a b : Src) (sh : BitVec 3) (imm : BitVec 13) (n : BitVec 6) (x y : Word),
    s.srcS a = .ok x → s.srcS b = .ok y →
    (s.Acts (.lea d a b sh) → s.SpOk d (x + y <<< sh.toNat) →
      exec (.lea d a b sh) s = .next (s.withFlight (resultS 3 d 1 (x + y <<< sh.toNat)))) ∧
    (s.Acts (.leai d a imm) → s.SpOk d (x + imm.signExtend 64) →
      exec (.leai d a imm) s = .next (s.withFlight (resultS 3 d 1 (x + imm.signExtend 64)))) ∧
    (s.Acts (.agen d n imm) → s.SpOk d (s.nestAddr (s.nreg n.toNat) + imm.signExtend 64) →
      exec (.agen d n imm) s =
        .next (s.withFlight (resultS 3 d 2 (s.nestAddr (s.nreg n.toNat) + imm.signExtend 64)))) ∧
    (∀ (w : Word) (l : List Word), Tab.wf {} s.ctxs = true → s.Acts (.rbpop d) → s.here.a.rbq = w :: l →
      exec (.rbpop d) s = .next (s.withArch { s.here.a with
        rbq := l, popcnt := s.here.a.popcnt + 1
        flight := s.here.a.flight ++ [⟨1, (resultS 0 d 1 w).wr, none, 0⟩] })) ∧
    (s.here.a.rbq = [] → exec (.rbpop d) s = .next s)

/-- DLD whose aligned, leased bytes are read writes dictionary entries from its first on, 32 bytes each (R71). -/
def Obligations.DldFillsTheDictionary : Prop :=
  ∀ (s : State) (a : Src) (entry cnt : BitVec 9) (x : Word) (t : State) (bytes : List Byte),
    s.Acts (.dld a entry cnt) → s.srcS a = .ok x → x.toNat % 32 = 0 →
    s.here.task.leased x.toNat (32 * (cnt.toNat + 1)) .read = true → s.mtype x.toNat ≠ 1 →
    s.loadRange x.toNat (32 * (cnt.toNat + 1)) = (t, .ok bytes) →
    (∃ u, exec (.dld a entry cnt) s = .next u ∧ u = t.modArch s.cur.ctx fun q =>
      q.loadDict entry.toNat bytes (cnt.toNat + 1)) ∧
    ∀ (q : Arch) (k : Nat), Tab.wf none q.dict = true →
      Tab.get none (q.loadDict entry.toNat bytes (cnt.toNat + 1)).dict k =
        if entry.toNat ≤ k ∧ k ≤ entry.toNat + cnt.toNat then
          some (BitVec.ofNat 256 (ofBytes ((bytes.drop (32 * (k - entry.toNat))).take 32)))
        else Tab.get none q.dict k

/-! ## Vectors -/

/-- The integer operations of Table 6.4 with their element values. -/
def Sys2Proof.Claim.lanesInt : List ((IntTy → Dst → Src → Src → BitVec 4 → Instr) × (Nat → Nat → Nat → Nat)) :=
  [(.vadd, fun k x y => (x + y) % 2 ^ k), (.vsub, fun k x y => (x + (2 ^ k - y)) % 2 ^ k),
   (.vadds, fun k x y => wrapN k (satI (sextN k x + sextN k y) (-(2 ^ (k - 1) : Int)) (2 ^ (k - 1) - 1))),
   (.vsubs, fun k x y => wrapN k (satI (sextN k x - sextN k y) (-(2 ^ (k - 1) : Int)) (2 ^ (k - 1) - 1))),
   (.vmin, fun k x y => if sextN k y < sextN k x then y else x),
   (.vmax, fun k x y => if sextN k x < sextN k y then y else x),
   (.vminn, fun _ x y => Nat.min x y), (.vmaxn, fun _ x y => Nat.max x y),
   (.vshl, fun k x y => if y < k then x * 2 ^ y % 2 ^ k else 0), (.vshr, fun k x y => if y < k then x / 2 ^ y else 0),
   (.vasr, fun k x y => wrapN k (sextN k x / (2 ^ (min y (k - 1)) : Int)))]

/-- Integer vector operations act on each active element alone, two issue cycles later; inactive elements of the
destination keep their value (R159, R165, R166). -/
def Obligations.VectorIntegerForms : Prop :=
  (∀ f ∈ Claim.lanesInt, ∀ (s : State) (t : IntTy) (d : Dst) (a b : Src) (mask : BitVec 4) (x y : Nat),
    s.Acts (f.1 t d a b mask) → s.srcV a s.cur.width (intBits t) = .ok x → s.srcV b s.cur.width (intBits t) = .ok y →
    ∃ u, exec (f.1 t d a b mask) s = .next u ∧ s.SendsLanes u (intBits t) 2 d mask fun i =>
      (f.2 (intBits t) (eltN (intBits t) x i) (eltN (intBits t) y i), 0)) ∧
  (∀ (s : State) (t : MulTy) (d : Dst) (a b : Src) (mask : BitVec 4) (x y : Nat),
    s.srcV a s.cur.width (mulBits t) = .ok x → s.srcV b s.cur.width (mulBits t) = .ok y →
    (s.Acts (.vmul t d a b mask) → ∃ u, exec (.vmul t d a b mask) s = .next u ∧
      s.SendsLanes u (mulBits t) 2 d mask fun i => (eltN (mulBits t) x i * eltN (mulBits t) y i % 2 ^ mulBits t, 0)) ∧
    (s.Acts (.vmulh t d a b mask) → ∃ u, exec (.vmulh t d a b mask) s = .next u ∧
      s.SendsLanes u (mulBits t) 2 d mask fun i => (wrapN (mulBits t)
        (sextN (mulBits t) (eltN (mulBits t) x i) * sextN (mulBits t) (eltN (mulBits t) y i) / (2 ^ mulBits t : Int)), 0))) ∧
  ∀ f ∈ [((Instr.vand : Dst → Src → Src → BitVec 4 → Instr), fun x y : Nat => x &&& y), (.vor, fun x y => x ||| y),
      (.vxor, fun x y => x ^^^ y), (fun d a _ m => .vnot d a m, fun x _ => 255 - x), (fun d a _ m => .vmov d a m, fun x _ => x)],
    ∀ (s : State) (d : Dst) (a b : Src) (mask : BitVec 4) (x y : Nat),
    s.Acts (f.1 d a b mask) → s.srcV a s.cur.width 8 = .ok x → s.srcV b s.cur.width 8 = .ok y →
    ∃ u, exec (f.1 d a b mask) s = .next u ∧
      s.SendsLanes u 8 2 d mask fun i => (f.2 (eltN 8 x i) (eltN 8 y i), 0)

/-- FP vector operations act on each active element alone, four issue cycles later, and raise the union of the status of
the active elements (R169, R170); selector 49 reads as 1.0. -/
def Obligations.VectorFloatForms : Prop :=
  (∀ f ∈ [((Instr.vfadd : FpTy → Dst → Src → Src → BitVec 4 → Instr), (Fmt.fadd : Fmt → Nat → Nat → Nat × Word)),
      (.vfsub, Fmt.fsub), (.vfmul, Fmt.fmul), (.vfmin, fun f => f.minMax false), (.vfmax, fun f => f.minMax true)],
    ∀ (s : State) (t : FpTy) (d : Dst) (a b : Src) (mask : BitVec 4) (x y : Nat),
    let k := (fpFmt t).bits
    s.Acts (f.1 t d a b mask) → s.srcV a s.cur.width k (fpOne t) = .ok x → s.srcV b s.cur.width k (fpOne t) = .ok y →
    ∃ u, exec (f.1 t d a b mask) s = .next u ∧
      s.SendsLanes u k 4 d mask fun i => f.2 (fpFmt t) (eltN k x i) (eltN k y i)) ∧
  ∀ (s : State) (t : FpTy) (d : Dst) (a b c : Src) (mask : BitVec 4) (x y z : Nat),
    let k := (fpFmt t).bits
    s.Acts (.vfma t d a b c mask) → s.srcV a s.cur.width k (fpOne t) = .ok x →
    s.srcV b s.cur.width k (fpOne t) = .ok y → s.srcV c s.cur.width k (fpOne t) = .ok z →
    ∃ u, exec (.vfma t d a b c mask) s = .next u ∧
      s.SendsLanes u k 4 d mask fun i => (fpFmt t).ffma (eltN k x i) (eltN k y i) (eltN k z i)

/-- The special functions act on each active FP32 element, eight issue cycles later (R172).
The model's own choices in it: log 22. -/
def Obligations.VectorSpecialFunctions : Prop :=
  ∀ f ∈ [((Instr.vfrcp : Dst → Src → BitVec 4 → Instr), SpFn.rcp), (.vfrsq, .rsq), (.vfexp2, .exp2), (.vflog2, .log2),
      (.vftanh, .tanh), (.vfsigm, .sigm)],
    ∀ (s : State) (d : Dst) (a : Src) (mask : BitVec 4) (x : Nat),
    s.Acts (f.1 d a mask) → s.srcV a s.cur.width 32 oneF32 = .ok x →
    ∃ u, exec (f.1 d a mask) s = .next u ∧
      ({ s with free := s.free + 32 } : State).SendsLanes u 32 8 d mask fun i => f.2.eval (s.free + i) (eltN 32 x i)

/-- Compares write, below the width, every bit of their m register: those of an active element that compares true are
set, all others clear (R168, R171). -/
def Obligations.VectorCompares : Prop :=
  (∀ f ∈ [((Instr.vcmpeq : IntTy → BitVec 6 → Src → Src → BitVec 4 → Instr), fun (_ x y : Nat) => decide (x = y)),
      (.vcmplt, fun k x y => decide (sextN k x < sextN k y)), (.vcmpltn, fun _ x y => decide (x < y))],
    ∀ (s : State) (t : IntTy) (d : BitVec 6) (a b : Src) (mask : BitVec 4) (x y : Nat),
    s.Acts (f.1 t d a b mask) → s.srcV a s.cur.width (intBits t) = .ok x → s.srcV b s.cur.width (intBits t) = .ok y →
    ∃ u, exec (f.1 t d a b mask) s = .next u ∧ s.SendsMask u (intBits t) d mask fun i =>
      (f.2 (intBits t) (eltN (intBits t) x i) (eltN (intBits t) y i), 0)) ∧
  ∀ f ∈ [((Instr.vfcmpeq : FpTy → BitVec 6 → Src → Src → BitVec 4 → Instr), Rel.eq), (.vfcmplt, .lt), (.vfcmple, .le)],
    ∀ (s : State) (t : FpTy) (d : BitVec 6) (a b : Src) (mask : BitVec 4) (x y : Nat),
    let k := (fpFmt t).bits
    s.Acts (f.1 t d a b mask) → s.srcV a s.cur.width k (fpOne t) = .ok x → s.srcV b s.cur.width k (fpOne t) = .ok y →
    ∃ u, exec (f.1 t d a b mask) s = .next u ∧
      s.SendsMask u k d mask fun i => (fpFmt t).compare f.2 (eltN k x i) (eltN k y i)

/-- The element that VSHUF takes (Table 6.6): the low or high halves of its sources interleaved, or the even or the odd
elements of both, one source after the other. -/
def Sys2Proof.Claim.shuffled (k n pat x y i : Nat) : Nat :=
  if pat = 0 then eltN k (if i % 2 = 0 then x else y) (i / 2)
  else if pat = 1 then eltN k (if i % 2 = 0 then x else y) (n / 2 + i / 2)
  else if pat = 2 then (if i < n / 2 then eltN k x (2 * i) else eltN k y (2 * (i - n / 2)))
  else if i < n / 2 then eltN k x (2 * i + 1) else eltN k y (2 * (i - n / 2) + 1)

/-- Selection, permutes, rotation and broadcast (R167, R173, R174, R183): which element of the sources each active
element of the destination takes, two issue cycles later. -/
def Obligations.VectorPermutes : Prop :=
  ∀ (s : State) (d : Dst) (a b : Src) (c : BitVec 6) (pat : BitVec 3) (sz : BitVec 2) (mask : BitVec 4) (x y : Nat)
    (r : Word),
    let w := s.cur.width
    let k := szBits sz
    (s.Acts (.vsel d a b c mask) → s.srcV a w 8 = .ok x → s.srcV b w 8 = .ok y →
      ∃ u, exec (.vsel d a b c mask) s = .next u ∧ s.SendsLanes u 8 2 d mask fun i =>
        (if (s.mreg c.toNat).getLsbD i then eltN 8 x i else eltN 8 y i, 0)) ∧
    (s.Acts (.vperm d a b sz mask) → s.srcV a w k = .ok x → s.srcV b w k = .ok y →
      ∃ u, exec (.vperm d a b sz mask) s = .next u ∧ s.SendsLanes u k 2 d mask fun i =>
        (eltN k x (eltN k y i % (w / k)), 0)) ∧
    (s.Acts (.vshuf d a b pat sz mask) → s.srcV a w k = .ok x → s.srcV b w k = .ok y →
      ∃ u, exec (.vshuf d a b pat sz mask) s = .next u ∧ s.SendsLanes u k 2 d mask fun i =>
        (Claim.shuffled k (w / k) pat.toNat x y i, 0)) ∧
    (s.Acts (.vrot d a b sz mask) → s.srcV a w k = .ok x → s.srcS b = .ok r →
      ∃ u, exec (.vrot d a b sz mask) s = .next u ∧ s.SendsLanes u k 2 d mask fun i =>
        (eltN k x ((i + r.toNat) % (w / k)), 0)) ∧
    (s.Acts (.vbcast d a sz mask) → s.srcS a = .ok r →
      ∃ u, exec (.vbcast d a sz mask) s = .next u ∧ s.SendsLanes u k 2 d mask fun _ => (r.toNat % 2 ^ k, 0))

/-- Moves between elements, registers, masks and flags (R90, R183 to R185). -/
def Obligations.VectorMoves : Prop :=
  ∀ (s : State) (d : Dst) (m g : BitVec 6) (a b : Src) (sz : BitVec 2) (sgn : Bool) (mask : BitVec 4) (x : Nat) (p r : Word),
    let w := s.cur.width
    let k := szBits sz
    let bit (n : Nat) (i : Nat) : Bool := n.testBit i
    let mr := (s.mreg m.toNat).toNat
    (s.Acts (.vins d a b sz) → s.srcS a = .ok p → s.srcS b = .ok r →
      exec (.vins d a b sz) s = .next (s.withFlight (s.resultV d 2
        ⟨p.toNat % 2 ^ k * 2 ^ (k * (r.toNat % (w / k))), (2 ^ k - 1) * 2 ^ (k * (r.toNat % (w / k))), 0⟩))) ∧
    (s.Acts (.vext d a b sz sgn) → s.srcV a w k = .ok x → s.srcS b = .ok r →
      exec (.vext d a b sz sgn) s = .next (s.withFlight ⟨2, (resultS 0 d 2 (if sgn
        then BitVec.ofInt 64 (sextN k (eltN k x (r.toNat % (w / k))))
        else BitVec.ofNat 64 (eltN k x (r.toNat % (w / k))))).wr, none, 0⟩)) ∧
    (s.Acts (.vany g m mask) → exec (.vany g m mask) s = .next (s.withFlight ⟨1, [.c (g.toNat % 8)
      ((List.range (w / 8)).any fun i => bit mr i && bit (s.act mask) i)], none, 0⟩)) ∧
    (s.Acts (.vall g m mask) → exec (.vall g m mask) s = .next (s.withFlight ⟨1, [.c (g.toNat % 8)
      ((List.range (w / 8)).all fun i => bit mr i || !bit (s.act mask) i)], none, 0⟩)) ∧
    (s.Acts (.vmovExpand d m mask) → ∃ u, exec (.vmovExpand d m mask) s = .next u ∧
      s.SendsLanes u 8 2 d mask fun i => (if bit mr i then 0xFF else 0, 0)) ∧
    (s.Acts (.viota d m sz mask) → ∃ u, exec (.viota d m sz mask) s = .next u ∧
      s.SendsLanes u k 2 d mask fun i => (((List.range i).filter fun j => bit mr (k / 8 * j)).length, 0)) ∧
    (s.Acts (.vmovPack g a mask) → s.srcV a w 8 = .ok x → ∃ v : Nat, v < 2 ^ (w / 8) ∧
      (∀ i, i < w / 8 → bit v i = (bit (s.act mask) i && bit x (8 * i + 7))) ∧
      exec (.vmovPack g a mask) s = .next (s.withFlight ⟨2, [.m (g.toNat % 16) (BitVec.ofNat 128 v)
        (BitVec.ofNat 128 (s.act mask % 2 ^ (w / 8)))], none, 0⟩))

/-- Reductions and scans are taken in the profile's order (R175 to R177); for 32-bit integers VRDSUM delivers in element 0
the sum of the active elements modulo 2^32, in either order. -/
def Obligations.ReductionsAndScans : Prop :=
  (∀ f ∈ [((Instr.vrdsum : RedTy → Dst → Src → BitVec 4 → Instr), Vec.RedOp.sum), (.vrdmax, .max), (.vrdmin, .min)],
    ∀ (s : State) (t : RedTy) (d : Dst) (a : Src) (mask : BitVec 4) (x : Nat),
    s.Acts (f.1 t d a mask) → s.srcV a s.cur.width 32 (if t = .f32 then oneF32 else 1) = .ok x →
    exec (f.1 t d a mask) s = .next (s.withFlight (s.resultV d (if t = .f32 then 8 else 4)
      (Vec.reduce f.2 (decide (t = .f32)) (Profile.of s.cur.profile).balanced s.cur.width (s.act mask) x)))) ∧
  (∀ (s : State) (t : RedTy) (d : Dst) (a : Src) (mask : BitVec 4) (x : Nat),
    s.Acts (.vscan t d a mask) → s.srcV a s.cur.width 32 (if t = .f32 then oneF32 else 1) = .ok x →
    exec (.vscan t d a mask) s = .next (s.withFlight (s.resultV d (if t = .f32 then 8 else 4)
      (Vec.scan (decide (t = .f32)) (Profile.of s.cur.profile).balanced s.cur.width (s.act mask) x)))) ∧
  ∀ (bal : Bool) (w act x : Nat), w ∈ [256, 512, 1024] →
    eltN 32 (Vec.reduce .sum false bal w act x).val 0 = ((List.range (w / 32)).map fun i =>
      if Vec.active 32 act i then eltN 32 x i else 0).sum % 2 ^ 32

/-- Conversions and block quantisation (R178 to R180): a conversion that draws, and VQNT always, take the oldest random
word, which leaves the queue; the result lands three issue cycles later.
The model's own choices in it: log 90, 95. -/
def Obligations.ConversionsAndQuantisation : Prop :=
  ∀ (s : State) (d : Dst) (a : Src) (part code e : BitVec 6) (ty : BitVec 2) (k0 : BitVec 3) (sr : Bool) (t : BlkTy)
    (mask : BitVec 4) (x : Nat) (word : Word) (l : List Word), Tab.wf {} s.ctxs = true →
    let w := s.cur.width
    (s.Acts (.vcvt d a part code mask) → Vec.cvtDraws code.toNat = false →
      s.srcV a w (Vec.cvtOf code.toNat).1.bits (tyOne (Vec.cvtOf code.toNat).1) = .ok x →
      exec (.vcvt d a part code mask) s = .next (s.withFlight (s.resultV d 3
        (Vec.cvt code.toNat part.toNat w (s.act mask) x (s.here.a.rbq.headD 0))))) ∧
    (s.Acts (.vcvt d a part code mask) → Vec.cvtDraws code.toNat = true → s.here.a.rbq = word :: l →
      s.srcV a w (Vec.cvtOf code.toNat).1.bits (tyOne (Vec.cvtOf code.toNat).1) = .ok x →
      exec (.vcvt d a part code mask) s = .next (s.withArch { s.here.a with
        rbq := l, popcnt := s.here.a.popcnt + 1
        flight := s.here.a.flight ++ [s.resultV d 3 (Vec.cvt code.toNat part.toNat w (s.act mask) x word)] })) ∧
    (s.Acts (.vqnt t d a e ty sr k0 mask) → s.here.a.rbq = word :: l →
      Vec.blkFits t ty.toNat w k0.toNat = true →
      s.srcV a w (Vec.blkSrc ty.toNat).bits (Fmt.oneBits (Vec.blkSrc ty.toNat)) = .ok x →
      let q := Vec.qnt t ty.toNat w k0.toNat (s.act mask) x sr word
      exec (.vqnt t d a e ty sr k0 mask) s = .next (s.withArch { s.here.a with
        rbq := l, popcnt := s.here.a.popcnt + 1
        flight := s.here.a.flight ++
          [⟨3, (s.resultV d 3 q.1).wr ++ [.e (e.toNat % 8) (BitVec.ofNat 128 q.2.1) (BitVec.ofNat 128 q.2.2)],
            (s.resultV d 3 q.1).latch, q.1.st⟩] })) ∧
    (s.Acts (.vdq t d a e ty k0 mask) → Vec.blkFits t ty.toNat w k0.toNat = true → s.srcV a w 8 = .ok x →
      exec (.vdq t d a e ty k0 mask) s = .next (s.withFlight (s.resultV d 3
        (Vec.dq t ty.toNat w k0.toNat (s.act mask) x (s.ereg (e.toNat % 8)).toNat))))

/-! ## The matrix array -/

/-- Matrix instructions (R189 to R204): operands read through records fill the holds; a beat, a drain, a load or a clear
is under way, to act on the accumulators twelve issue cycles later; MSWAP exchanges the bank names at once. -/
def Obligations.MatrixForms : Prop :=
  ∀ (s : State) (af bf : MFmt) (bank clr : Bool) (an bn n i dist : BitVec 4) (code : BitVec 3),
    (∀ f ∈ [((Instr.macc : MFmt → MFmt → Bool → BitVec 4 → BitVec 4 → Instr), false), (.mset, true)],
      s.Acts (f.1 af bf bank an bn) → ∀ t, s.readSides an bn = .ok t →
      exec (f.1 af bf bank an bn) s = .next (t.launchBeat f.2 af bf bank 0)) ∧
    (s.Acts (.mpush an bn) → ∀ t, s.readSides an bn = .ok t → exec (.mpush an bn) s = .next t) ∧
    (s.Acts (.mshift af bf bank dist bn) → ∀ t y, s.readPiece bn 1024 1 = .ok (t, y) →
      exec (.mshift af bf bank dist bn) s = .next ((t.fillB y).launchBeat false af bf bank dist.toNat)) ∧
    (s.Acts (.mdrain code clr bank n i) → (∀ o, s.piece (s.nreg n.toNat) = some o →
        o % (256 * drainBytes code.toNat) = 0 ∧ s.here.task.inWindow o (256 * drainBytes code.toNat) = true) →
      exec (.mdrain code clr bank n i) s = .next (s.launchM (.drain (s.bank bank) (s.mRow i) code.toNat clr
        (s.piece (s.nreg n.toNat))))) ∧
    (s.Acts (.mdrainq code clr bank n i) → (∀ o, s.piece (s.nreg n.toNat) = some o →
        o % 32 = 0 ∧ s.here.task.inWindow o (drainqBytes code.toNat) = true) →
      exec (.mdrainq code clr bank n i) s = .next (s.launchM (.drainq (s.bank bank) (s.mRow i) code.toNat clr
        (s.piece (s.nreg n.toNat))))) ∧
    (s.Acts (.mload bank n i) → s.piece (s.nreg n.toNat) = none →
      exec (.mload bank n i) s = .next (s.launchM (.load (s.bank bank) (s.mRow i) 0))) ∧
    (s.Acts (.mload bank n i) → ∀ o, s.piece (s.nreg n.toNat) = some o → s.checkSpad o 1024 1024 = .ok () →
      ∀ t bytes, s.spadRead s.cur.ctx o 1024 = (t, bytes) →
      exec (.mload bank n i) s = .next (t.launchM (.load (s.bank bank) (s.mRow i) (BitVec.ofNat 8192 (ofBytes bytes))))) ∧
    (s.Acts (.mzero bank) → exec (.mzero bank) s = .next (s.launchM (.zero (s.bank bank)))) ∧
    (s.Acts .mswap → exec .mswap s = .next (s.modArch s.cur.ctx fun a => { a with swap := !a.swap }))

/-- What reaches its array point acts (R197): MZERO clears the 128 rows of its bank and no other, MLOAD replaces one row,
and each leaves every other piece of the machine as it was. -/
def Obligations.ArrayPointActs : Prop :=
  ∀ (s : State) (c bank : Nat), Tab.wf 0 (s.ctx c).a.acc = true →
    let acts (rows : Tab (BitVec 8192)) : Prop := exec (.arrayPoint c) s = .next { s with
      ctxs := Tab.set {} s.ctxs c { s.ctx c with a := { (s.ctx c).a.raise 0 with acc := rows, mflight := [] } } }
    ((s.ctx c).a.mflight = [⟨1, .zero bank⟩] → ∃ rows, acts rows ∧ ∀ r, Tab.get 0 rows r =
      if bank * 128 ≤ r ∧ r < bank * 128 + 128 then 0 else Tab.get 0 (s.ctx c).a.acc r) ∧
    ∀ row img, (s.ctx c).a.mflight = [⟨1, .load bank row img⟩] → ∃ rows, acts rows ∧ ∀ r, Tab.get 0 rows r =
      if r = bank * 128 + row then img else Tab.get 0 (s.ctx c).a.acc r

/-! ## Copy engines and counting flags -/

/-- The C instructions with their opcodes and their checks at issue. -/
def Sys2Proof.Claim.commands : List ((COps → Instr) × Nat × (State → COps → Cmd → Res Unit)) :=
  [(.cpy, 1, fun s _ => s.checkCpy), (.cpyt, 2, fun s _ => s.checkCpyt), (.cmcast, 3, fun s _ => s.checkCmcast),
   (.cgath, 4, fun s _ => s.checkCgath), (.cfill, 5, fun s _ => s.checkCfill), (.cpref, 6, fun s _ => s.checkCpref),
   (.put, 7, fun s _ => s.checkPut), (.get, 8, fun s _ => s.checkGet), (.radd, 9, fun s o => s.checkRadd o)]

/-- A command that passes its checks issues (R225, R228, R231): one with an external effect is held, another goes to its
engine's queue when that has room; nothing else of the machine changes. A command without an external effect waits while
its queue holds eight. The model's own choices in it: log 21. -/
def Obligations.CommandsIssue : Prop :=
  ∀ f ∈ Claim.commands, ∀ (s : State) (o : COps),
    let m := s.command f.2.1 o
    s.Acts (f.1 o) →
    ((m.held = true ∨ s.here.queueLen s.engine < 8) → f.2.2 s o m = .ok () →
      exec (f.1 o) s = .next { s with ctxs := Tab.set {} s.ctxs s.cur.ctx { s.here with
        seq := s.here.seq + 1
        cbuf := if m.held then s.here.cbuf ++ [.copy s.engine m] else s.here.cbuf
        q0 := if m.held = false ∧ s.engine = 0 then s.here.q0 ++ [m] else s.here.q0
        q1 := if m.held = false ∧ s.engine = 1 then s.here.q1 ++ [m] else s.here.q1 } }) ∧
    (m.held = false → 8 ≤ s.here.queueLen s.engine → exec (f.1 o) s = .next s)

/-- The Y instructions (R246 to R252): FWAIT and FWAIT.ACQ take their amount from the flag once it is there, and wait
without effect until then; FPOST adds one to the issuer's own flag at once, and is held for another member; FCLR
clears; FINC adds; FBAR, in a checkpoint bundle, opens the barrier once and takes its amount once it is there. -/
def Obligations.CountingFlagForms : Prop :=
  ∀ (s : State) (f : BitVec 4) (n7 : BitVec 7) (n8 : BitVec 8) (m : BitVec 5) (dy dx : BitVec 3),
    let take (u : State) (n : Nat) : State := u.modArch u.cur.ctx fun a =>
      { a with f := Tab.set 0 a.f f.toNat (Tab.get 0 a.f f.toNat - BitVec.ofNat 16 n) }
    let have_ (u : State) (n : Nat) : Prop := n ≤ (Tab.get 0 u.here.a.f f.toNat).toNat
    (s.Acts (.fwait f n7) → have_ s (n7.toNat + 1) → exec (.fwait f n7) s = .next (take s (n7.toNat + 1))) ∧
    (s.Acts (.fwait f n7) → ¬ have_ s (n7.toNat + 1) → exec (.fwait f n7) s = .next s) ∧
    (s.Acts (.fwaitAcq f n7) → have_ s (n7.toNat + 1) →
      exec (.fwaitAcq f n7) s = .next ((take s (n7.toNat + 1)).acquire s.cur.ctx .die 3)) ∧
    (s.Acts (.fwaitAcq f n7) → ¬ have_ s (n7.toNat + 1) → exec (.fwaitAcq f n7) s = .next s) ∧
    (s.Acts (.fclr f) → exec (.fclr f) s =
      .next (s.modArch s.cur.ctx fun a => { a with f := Tab.set 0 a.f f.toNat 0 })) ∧
    (s.Acts (.finc f n8) → exec (.finc f n8) s = .next (s.modArch s.cur.ctx fun a =>
      { a with f := Tab.set 0 a.f f.toNat (Tab.get 0 a.f f.toNat + BitVec.ofNat 16 (n8.toNat + 1)) })) ∧
    (s.Acts (.fpost f m) → m.toNat < s.here.task.w * s.here.task.h → exec (.fpost f m) s =
      .next (if m.toNat = s.here.task.member then s.modArch s.cur.ctx fun a =>
        { a with f := Tab.set 0 a.f f.toNat (Tab.get 0 a.f f.toNat + 1) }
        else s.withHeld (.fpost f.toNat m.toNat s.here.seq))) ∧
    (∀ k, s.Acts (.fpostRel f dy dx) → s.here.task.postRel dx dy = some k → exec (.fpostRel f dy dx) s =
      .next (if k = s.here.task.member then s.modArch s.cur.ctx fun a =>
        { a with f := Tab.set 0 a.f f.toNat (Tab.get 0 a.f f.toNat + 1) }
        else s.withHeld (.fpost f.toNat k s.here.seq))) ∧
    (∀ u, s.cur.ckpt = true → s.Acts (.fbar f n8) → u = s.barOpen f.toNat → u.Acts (.fbar f n8) →
      exec (.fbar f n8) s = .next (if n8.toNat + 1 ≤ (Tab.get 0 u.here.a.f f.toNat).toNat then take u (n8.toNat + 1) else u))

/-! ## Atomics -/

/-- The returning atomics with their operations. -/
def Sys2Proof.Claim.atomics : List ((Dst → Src → Src → XaOps → Instr) × AtOp) :=
  [(.aadd, .add), (.amin, .min), (.amax, .max), (.aminn, .minn), (.amaxn, .maxn), (.aand, .and), (.aor, .or),
   (.axor, .xor), (.axchg, .xchg), (.acas, .cas), (.afadd, .fadd)]

/-- `s` once the release steps of its annotation are begun, and whether they are done: at once when it releases nothing.
They cover what was issued before its checkpoint bundle (R355, R356, R363, R365). -/
def Sys2Proof.Claim.afterRelease (s : State) (o : XaOps) : State × Bool :=
  match s.relOf o with
  | some (sc, p) => s.releaseSteps s.cur.ctx sc p s.here.capSeq
  | none => (s, true)

/-- The context in issue has nothing released or closed that a request would have to wait for (R283, R365). -/
abbrev Sys2Proof.Claim.clear (s : State) : Prop := s.here.rel = [] ∧ (s.here.task.inEsp = false ∨ s.here.past = [])

/-- A checkpoint bundle's request, made in `u`, has been answered `r`: the answer is kept with the capture, and the load
of the destination has its data (R301, R365, R371). -/
def Sys2Proof.Claim.answered (u : State) (d : Dst) (va n : Nat) (r : Word) : State :=
  (u.modCtx u.cur.ctx fun z => { z with reply := some ⟨r, none⟩, task := { z.task with released := true } }).addLoad
    (Claim.loaded u va n (.s (Dst.num d) r))

/-- A returning atomic of a checkpoint bundle, on an aligned word that is leased for reading and writing in normal memory,
waits for what its checkpoint released; then, after the release steps of its annotation, it makes its request, the old
value is on its way to the destination, and it acquires as annotated (R363 to R365). In an espalier whose regions are not
yet released the request waits, with its load outstanding (R283). AFADD is not allowed under DET, and reads selector 49
as 1.0 (R50). -/
def Obligations.ReturningAtomics : Prop :=
  ∀ f ∈ Claim.atomics, ∀ (s : State) (d : Dst) (a b : Src) (o : XaOps) (x y : Word),
    s.Acts (f.1 d a b o) → s.cur.ckpt = true → (f.2 = .fadd → s.here.task.det = false) →
    s.srcS a = .ok x → s.srcS b f.2.one = .ok y → x.toNat % f.2.bytes = 0 →
    s.here.task.leased x.toNat f.2.bytes .both = true → s.mtype x.toNat = 0 → s.here.replay = false →
    (s.here.task.inEsp = false → s.here.rel ≠ [] → exec (f.1 d a b o) s = .next s) ∧
    (s.here.task.inEsp = true → (s.here.past ≠ [] ∨ s.here.rel ≠ []) → exec (f.1 d a b o) s =
      .next ((s.addLoad { Claim.loaded s x.toNat f.2.bytes (.s (Dst.num d) 0) with
        acq := s.acqOf o, asked := true }).modCtx s.cur.ctx fun z => { z with
          asked := some ⟨.atomic f.2 x.toNat y (s.reg (Dst.num d)), s.requestRelease (s.relOf o), s.acqOf o, Dst.num d,
            s.pc⟩ })) ∧
    (Claim.clear s → (Claim.afterRelease s o).2 = false → exec (f.1 d a b o) s = .next s) ∧
    ∀ (r u : State) (old : Word), Claim.clear s → Claim.afterRelease s o = (r, true) →
      r.homeAtomic f.2 x.toNat y (s.reg (Dst.num d)) = (u, .ok old) →
      exec (f.1 d a b o) s = .next ((Claim.answered u d x.toNat f.2.bytes old).acquireBy (s.acqOf o))

/-- What an atomic does to its word (R364, Table 12.5): the old value is returned, and the bytes at its home are those of
the operation's result; a word of HBM that holds no UNDER of a completion node, whose bit a write of 1 clears (log 87). -/
def Obligations.AtomicsUpdateTheirWord : Prop :=
  ∀ (s : State) (op : AtOp) (va pa : Nat) (v e : Word) (u : State),
    s.resolve va .both = (u, some pa) → pa + 8 ≤ 0x80_0000_0000 →
    let w := u.l1Yield (coreOf u.cur.ctx) (pa / 128)
    Memory.wf w.mem → w.badAt pa op.bytes = none → (op = .fadd → w.orderedLine (pa / 128) = false) →
    (∀ i, i < op.bytes → w.holdsUnder (pa + i) = false) →
    ∃ t, s.homeAtomic op va v e = (t, .ok (BitVec.ofNat 64 (w.homeNat pa op.bytes))) ∧
      t.homeNat pa op.bytes = (op.apply (BitVec.ofNat 64 (w.homeNat pa op.bytes)) v e).toNat % 2 ^ (8 * op.bytes)

/-- The update forms with their operations. -/
def Sys2Proof.Claim.updates : List ((Src → Src → Instr) × AtOp) :=
  [(.aaddU, .add), (.aminU, .min), (.amaxU, .max), (.aminnU, .minn), (.amaxnU, .maxn), (.aandU, .and), (.aorU, .or),
   (.axorU, .xor), (.afaddU, .fadd)]

/-- An update-form or ordered atomic on an aligned word that is leased for reading and writing in normal memory is held;
nothing else changes (R367, R368, R372). -/
def Obligations.HeldAtomics : Prop :=
  (∀ f ∈ Claim.updates, ∀ (s : State) (a b : Src) (x y : Word),
    s.Acts (f.1 a b) → (f.2 = .fadd → s.here.task.det = false) → s.srcS a = .ok x → s.srcS b f.2.one = .ok y →
    x.toNat % f.2.bytes = 0 → s.here.task.leased x.toNat f.2.bytes .both = true → s.mtype x.toNat = 0 →
    exec (f.1 a b) s = .next (s.withHeld (.upd f.2 x y s.pc))) ∧
  ∀ f ∈ [((Instr.oadd : Src → Src → Src → XaOps → Instr), false), (.ofadd, true)],
    ∀ (s : State) (tk a b : Src) (o : XaOps) (x y z : Word),
    s.Acts (f.1 tk a b o) → s.srcS tk = .ok z → s.srcS a = .ok x →
    s.srcS b (if f.2 then oneF32 else 1) = .ok y →
    x.toNat % (if f.2 then 4 else 8) = 0 → s.here.task.leased x.toNat (if f.2 then 4 else 8) .both = true →
    s.mtype x.toNat = 0 →
    exec (f.1 tk a b o) s = .next (s.withHeld (.ordered f.2 x y (z.toNat % 2 ^ 16)
      (if o.ord = .release ∨ o.ord = .acqRel then some ⟨o.scope, s.atPaths o.psel, s.here.seq⟩ else none) s.pc))

/-- Opening and closing a reduction, and taking a ticket, are requests of a checkpoint bundle on aligned leased bytes of
normal memory, made once what the checkpoint released has been handed on (R301, R369 to R371). A descriptor that is not
well formed is refused with 2; a close of 0 needs every word's contributions complete, and ends the reduction.
The model's own choices in it: log 20. -/
def Obligations.CheckpointRequests : Prop :=
  (∀ (s : State) (d : Dst) (a b : Src) (o : XaOps) (x y : Word),
    s.cur.ckpt = true → s.srcS a = .ok x → s.srcS b = .ok y → s.here.replay = false → Claim.clear s →
    (s.Acts (.oopen d a o) → x.toNat % 64 = 0 → s.here.task.leased x.toNat 64 .read = true → s.mtype x.toNat ≠ 1 →
      ∀ r u v, Claim.afterRelease s o = (r, true) →
      r.onDescriptor x.toNat (fun s pa w => s.openReduction pa w) = (u, .ok v) →
      exec (.oopen d a o) s = .next (Claim.answered u d x.toNat 64 v)) ∧
    (s.Acts (.oclose d a b o) → x.toNat % 64 = 0 → s.here.task.leased x.toNat 64 .read = true → s.mtype x.toNat ≠ 1 →
      ∀ u v, s.onDescriptor x.toNat (fun s pa _ => s.closeReduction pa y) = (u, .ok v) →
      exec (.oclose d a b o) s =
        .next ((Claim.answered u d x.toNat 64 v).acquireBy (s.acqOf o))) ∧
    (s.Acts (.tkt d a b) → x.toNat % 32 = 0 → s.here.task.leased x.toNat 32 .read = true → s.mtype x.toNat ≠ 1 →
      ∀ u bytes w r, s.loadRange x.toNat 32 = (u, .ok bytes) →
      u.takeTickets (BitVec.ofNat 256 (ofBytes bytes)) (y.toNat % 2 ^ 16) = (w, r) →
      exec (.tkt d a b) s = .next (Claim.answered w d x.toNat 32 r))) ∧
  (∀ (s : State) (pa : Nat) (w : BitVec 512), Rdesc.ok w = false → s.openReduction pa w = (s, 2)) ∧
  ∀ (s : State) (pa : Nat) (v : Word) (r : Reduction), (s.reductions.find? fun x => x.desc = pa) = some r →
    (v = 1 ∨ (v = 0 ∧ ∀ t ∈ r.next, t = (r.tfirst + r.tcount) % 2 ^ 16) →
      s.closeReduction pa v = ({ s with reductions := s.reductions.filter fun x => x.desc ≠ pa }, 0)) ∧
    (v = 0 → (∃ t ∈ r.next, t ≠ (r.tfirst + r.tcount) % 2 ^ 16) → s.closeReduction pa v = (s, 1)) ∧
    (1 < v.toNat → s.closeReduction pa v = (s, 2))

/-! ## Tasks, waits and traps -/

/-- SPAWN outside a delay position, in a task of one member that is no tile step, with an aligned leased frame: with room in
its deque it is held with its spawn ticket, which counts up; in an inline child it calls its own child inline, with a record
of the spawner's registers pushed on the stack; QPUSH and QPUSH.T are held with the capability and the record
read at issue, and where one of the two cannot be read they push nothing and its fault falls due later; JOIN and EXIT
begin the end of their segment; an EXIT of an inline child takes the spawner's registers from the record and jumps back,
or takes the fault of its read (R301, R302, R305 to R307, R315, R320).
The model's own choices in it: log 16, 17, 19, 32. -/
def Obligations.TaskForms : Prop :=
  ∀ s : State, Tab.wf {} s.ctxs = true →
    (∀ (wt : Bool) (d : Dst) (a : Src) (f : Word), s.Acts (.spawn wt d a) → s.NoDelay → s.srcS a = .ok f → s.here.task.tile = none →
      s.here.task.w * s.here.task.h = 1 → f.toNat % 256 = 0 → f.toNat < 2 ^ 56 →
      s.here.task.leased f.toNat 256 .read = true → s.cr 0x21 = 0 → s.here.deque.length + s.here.heldSpawns + 1 < 64 →
      exec (.spawn wt d a) s = .next { s with ctxs := Tab.set {} s.ctxs s.cur.ctx { s.here with
        cbuf := s.here.cbuf ++ [.spawn f (s.cr 0x22).toNat (s.cr 0x20) s.here.seq]
        a := { s.here.a with
          cr := Tab.set 0 s.here.a.cr 0x22 ((s.cr 0x22 + 1) &&& 0xFFFF)
          flight := s.here.a.flight ++ (if wt then [⟨1, (resultS 0 d 1 (s.cr 0x22)).wr, none, 0⟩] else []) } } }) ∧
    (∀ (wt : Bool) (d : Dst) (a : Src) (f : Word) (u : State) (v : FrameView) (record : Nat), s.Acts (.spawn wt d a) → s.NoDelay →
      s.srcS a = .ok f → s.here.task.tile = none → s.here.task.w * s.here.task.h = 1 → f.toNat % 256 = 0 → f.toNat < 2 ^ 56 →
      s.here.task.leased f.toNat 256 .read = true → s.cr 0x21 ≠ 0 →
      (s.countSpawn wt d).readFrame true (dieOf s.cur.ctx) s.here.task.region f.toNat = (u, .view v) →
      u.frameDetail (s.asidAt s.cur.ctx) (some (s.here.task.ranges, u.leaseTensors s.here.task.lease)) v = none →
      record = (u.reg 31 - 64).toNat → record % 8 = 0 → (u.cr 2).toNat ≤ record → u.here.task.leased record 64 .write = true →
      u.mtype record ≠ 1 →
      exec (.spawn wt d a) s = .next (((u.withHeld (.store (BitVec.ofNat 64 record)
        (([(s.here.a.advance s.cur).pc, u.reg 30, u.reg 31, u.cr 2, u.cr 3, u.cr 0x20, u.cr 0x21, u.cr 0x22].flatMap
          fun w => bytesOf 8 w.toNat).map some) .normal none u.pc u.cur.slot)).modArch u.cur.ctx
            fun q => q.inlineChild v record).modCur fun k => { k with jump := some (Frame.entry v.bits) })) ∧
    (∀ (a b : Src) (x y : Word) (s1 s2 : State) (r1 r2 : Res (List Byte)), s.srcS a = .ok x → s.srcS b = .ok y →
      x.toNat % 32 = 0 → y.toNat % 64 = 0 → s.here.task.leased x.toNat 32 .read = true →
      s.here.task.leased y.toNat 64 .read = true → s.mtype x.toNat ≠ 1 → s.mtype y.toNat ≠ 1 →
      s.loadRange x.toNat 32 = (s1, r1) → s1.loadRange y.toNat 64 = (s2, r2) →
      (∀ cap rec_, r1 = .ok cap → r2 = .ok rec_ →
        (s.Acts (.qpush a b) → s.here.task.det = false → exec (.qpush a b) s = .next (s2.withHeld
          (.qpush (BitVec.ofNat 256 (ofBytes cap)) (BitVec.ofNat 512 (ofBytes rec_)) none s2.here.seq))) ∧
        ∀ (tk : Src) (z : Word), s.Acts (.qpushT tk a b) → s.srcS tk = .ok z →
          exec (.qpushT tk a b) s = .next (s2.withHeld (.qpush (BitVec.ofNat 256 (ofBytes cap))
            (BitVec.ofNat 512 (ofBytes rec_)) (some (z.toNat % 2 ^ 32)) s2.here.seq))) ∧
      ∀ f, (r1 = .error f ∨ ∃ cap, r1 = .ok cap ∧ r2 = .error f) →
        (s.Acts (.qpush a b) → s.here.task.det = false → exec (.qpush a b) s = .next (s2.deferOpen f)) ∧
        ∀ (tk : Src) (z : Word), s.Acts (.qpushT tk a b) → s.srcS tk = .ok z →
          exec (.qpushT tk a b) s = .next (s2.deferOpen f)) ∧
    (s.Acts .join → s.NoDelay → s.checkJoin = .ok () → exec .join s = .next (s.beginEnding (.join (s.contBlk s.cur.ctx)))) ∧
    (s.Acts .exit → s.NoDelay → s.cr 0x21 = 0 → exec .exit s = .next (s.beginEnding .exit)) ∧
    ∀ (u : State) (r : Res (List Byte)), s.Acts .exit → s.NoDelay → s.cr 0x21 ≠ 0 →
      s.checkMem (s.cr 0x21).toNat 64 8 .read true false = .ok () → s.loadRange (s.cr 0x21).toNat 64 = (u, r) →
      (∀ f, r = .error f → Claim.Raises .exit s f) ∧ ∀ l, r = .ok l →
      let w (k : Nat) : Word := BitVec.ofNat 64 (ofBytes ((l.drop (8 * k)).take 8))
      exec .exit s = .next ((u.modArch u.cur.ctx fun a => { a with
        s := Tab.set 0 (Tab.set 0 a.s 30 (w 1)) 31 (w 2)
        cr := Tab.set 0 (Tab.set 0 (Tab.set 0 (Tab.set 0 (Tab.set 0 a.cr 2 (w 3 &&& ~~~0x7)) 3 (w 4 &&& ~~~0x1F)) 0x20 (w 5))
          0x21 (w 6)) 0x22 (w 7 &&& 0xFFFF) }).modCur fun k => { k with jump := some (w 0) })

/-- MWAIT waits, without effect, until the word is at least the operand, and MWAIT.NE until it differs; then it acquires
over every path and delivers the word (R438); a word that cannot be read ends the wait, and its fault falls due later, as a
load's does. INVL and INVL.ALL are held, in region 0 alone (R398, R399). PROBE delivers
its word as a load does (R400). The model's own choices in it: log 16, 100. -/
def Obligations.WaitsAndInvalidations : Prop :=
  (∀ (s u : State) (d : Dst) (a b : Src) (r : Res Word) (va v : Word), s.mwaitWord a b = .ok (u, r, va, v) →
    (∀ x, r = .ok x →
      (s.Acts (.mwait d a b) →
        exec (.mwait d a b) s = .next (if s.here.replay ∨ v.toNat ≤ x.toNat
          then (u.acquire s.cur.ctx .fabric 15).putQuiet d 1 x else s)) ∧
      (s.Acts (.mwaitNe d a b) →
        exec (.mwaitNe d a b) s = .next (if s.here.replay ∨ x ≠ v
          then (u.acquire s.cur.ctx .fabric 15).putQuiet d 1 x else s))) ∧
    ∀ f, r = .error f → ∀ i, (i = .mwait d a b ∨ i = .mwaitNe d a b) → s.Acts i →
      exec i s = .next (u.addLoad { Claim.loaded s va.toNat 8 (.s (Dst.num d) 0) with bad := some f })) ∧
  (∀ (s : State) (i a b : Src) (x y z : Word), s.here.task.region = 0 → s.srcS i = .ok x →
    (s.Acts (.invl i a b) → s.srcS a = .ok y → s.srcS b = .ok z →
      exec (.invl i a b) s = .next (s.withHeld (.invl (x.toNat % 2 ^ 16) false y z s.here.seq))) ∧
    (s.Acts (.invlAll i) → exec (.invlAll i) s = .next (s.withHeld (.invl (x.toNat % 2 ^ 16) true 0 0 s.here.seq)))) ∧
  ∀ (s u : State) (d : Dst) (a : Src) (va : Word) (r : WalkRes), s.Acts (.probe d a) → s.srcS a = .ok va →
    va.toNat < 2 ^ 57 → s.translate (dieOf s.cur.ctx) (some (coreOf s.cur.ctx)) s.here.task.region
      (s.asidAt s.cur.ctx) va.toNat (fun _ => false) = (u, r) →
    exec (.probe d a) s = .next (u.addLoad (Claim.loaded s va.toNat 8 (.s (Dst.num d)
      (u.probeWord va.toNat (match r with | .leaf x => some x | _ => none)))))

/-- Taking a fault under a handler (R275, R276): the context is in TRAP at TRAPVEC, with EPC and the record's registers
written, and its transfer state, loops, latches and results in flight set aside; every other context, and every byte of
memory, is as before. -/
def Obligations.FaultsEnterTheHandler : Prop :=
  ∀ (s : State) (c : Nat) (f : FaultRec), Tab.wf {} s.ctxs = true → s.hasHandler c = true → f.cls ≠ 0x08 →
    (s.ctx c).a.mflight = [] → (s.ctx c).a.drains = [] →
    let a := (s.ctx c).a
    let t := s.takeFault c f
    let b := (t.ctx c).a
    (t.ctx c).st = .trap ∧ b.pc = (Tab.get 0 a.cr 3) &&& ~~~0x1F ∧ b.cr = Tab.set 0 (Tab.set 0 (Tab.set 0 (Tab.set 0 (Tab.set 0
        a.cr 8 (s.recWord0 c f a.pending.isSome false)) 9 f.pc) 10 f.r2) 11 f.r3) 4 a.pc ∧
      b.trap = some ⟨a.pending, a.delay, a.loops, a.latches, a.flight, if (s.ctx c).released then some a.pc else none⟩ ∧
      b.pending = none ∧ b.delay = 0 ∧ b.loops = [] ∧ b.latches = [] ∧ b.flight = [] ∧
      b.s = a.s ∧ b.c = a.c ∧ b.b = a.b ∧ b.i = a.i ∧ b.g = a.g ∧ b.n = a.n ∧ b.v = a.v ∧ b.m = a.m ∧ b.e = a.e ∧
      b.f = a.f ∧ b.acc = a.acc ∧ b.dict = a.dict ∧ b.rbq = a.rbq ∧
      s.SameOthers t c ∧ s.SameBytes t

/-- TRAP and ERET (R277, R278): TRAP's bundle completes, the PC advances, and then the context takes class 0x09 with the
immediate as its detail and in FAULTREC2; ERET, in a handler, lands what is in flight and its own bundle's loads, and runs
the context again at EPC, with what trap entry set aside; where a load of its bundle is still to come, the bundle after it
waits for it. The model's own choices in it: log 13. -/
def Obligations.TrapAndEret : Prop :=
  (∀ (s : State) (imm : BitVec 13), s.Acts (.trap imm) → s.here.task.inEsp = false →
    exec (.trap imm) s = .next (s.advance.takeFault s.cur.ctx
      ⟨0x09, s.cur.slot, imm.toNat % 256, s.pc, imm.setWidth 64, 0⟩)) ∧
  ∀ (s : State) (p : TrapSave), Tab.wf {} s.ctxs = true → s.Acts .eret → s.NoDelay →
    s.here.st = .trap → s.here.a.loops = [] → s.here.a.mflight = [] → s.here.a.drains = [] → s.here.a.trap = some p →
    let x := ({ s.here with a := s.here.a.landAll } : Ctx).landLoads
    exec .eret s = .next { s with
      ctxs := Tab.set {} s.ctxs s.cur.ctx { x with
        st := .run, fresh := !x.loads.isEmpty, released := decide (p.opened = some (Tab.get 0 x.a.cr 4))
        a := { x.a with
          pc := Tab.get 0 x.a.cr 4, pending := p.pending, delay := p.delay, loops := p.loops, latches := p.latches
          flight := p.flight, trap := none } }
      cur := { s.cur with moved := true } }

/-- A token becomes the bundle in issue that its dictionary entry holds, with the slot 1 immediate increased by the
sign-extended delta (R68 to R70). Step 5 of a checkpoint bundle's issue, once its loads are back, captures the context
with its windows' bytes; the latches are empty, and a region opens (R282, R283). A rollback restores from the capture
the registers, the PC, the results in flight and what a trap in progress set aside, keeps the fault record, counts the
flags' arrivals since on top of it, and discards what the open region held (R282, R287, Tables 3.2 and 8.6); the windows
stay as they are (Table 8.2). The model's own choices in it: log 15, 99. -/
def Obligations.TokensAndCheckpoints : Prop :=
  (∀ (s : State) (index : BitVec 9) (delta : BitVec 7) (e : BitVec 256),
    Tab.get none s.here.a.dict index.toNat = some e → e.extractLsb' 254 2 = 0 →
    (delta = 0 → ∃ t, exec (.token index delta) s = .next t ∧ t.cur.bits = e ∧ t.cur.fromToken = true ∧
      t.cur.todo = todoOf (readBundle e) ∧ t.ctxs = s.ctxs) ∧
    (delta ≠ 0 → hasImmForm e = true → ∃ t, exec (.token index delta) s = .next t ∧ t.cur.fromToken = true ∧
      t.cur.bits = e.extractLsb' 205 51 ++ (e.extractLsb' 184 21 + delta.signExtend 21) ++ e.extractLsb' 0 184 ∧
      t.cur.todo = todoOf (readBundle t.cur.bits) ∧ t.ctxs = s.ctxs)) ∧
  (∀ s : State, s.here.loadsDone = true →
    let u := (s.closeRegion s.cur.ctx).endRerun s.cur.ctx
    let x := u.ctx s.cur.ctx
    let a : Arch := { x.a with latches := [] }
    exec .checkpointBundle s = .next { u with ctxs := Tab.set {} u.ctxs s.cur.ctx { x with
      a := a, cap := { a with spad := u.windowBytes s.cur.ctx }, capMid := true, reply := none, released := false, arrived := [], capSeq := x.seq
      regionPc := x.a.pc, regionCount := 1, regionNo := x.regionNo + 1 } }) ∧
  ∀ x : Ctx, x.closed = false → x.past = [] → Tab.wf 0 x.cap.cr = true → Tab.wf 0 x.cap.f = true →
    Tab.wf 0 x.arrived = true →
    let y := x.rollback
    y.a = { x.cap with f := y.a.f, cr := y.a.cr } ∧
    (∀ k, Tab.get 0 y.a.cr k = if 8 ≤ k ∧ k ≤ 11 then Tab.get 0 x.a.cr k else Tab.get 0 x.cap.cr k) ∧
    (∀ k, Tab.get 0 y.a.f k = Tab.get 0 x.cap.f k + Tab.get 0 x.arrived k) ∧
    y.st = (if x.cap.trap.isSome then .trap else .run) ∧ y.cap = x.cap ∧ y.seq = x.capSeq ∧
    y.cbuf = [] ∧ y.loads = [] ∧ y.deferred = (x.deferred.filter fun f => f.1 ≤ x.capSeq)

/-! ## The machine's steps -/

/-- A step runs the decoded instructions: the oldest event at hand is executed; else the oldest grant issues. For a context
that issues alone, a bundle that raises a fault is suppressed by it; the instructions read from the 256 bits of one that is
ready are executed in turn, each in its slot, with the capture between the two parts of a checkpoint bundle and only the
second part at a rerun; then the PC advances unless the bundle has moved it (R43, R54, R72, R107, R283).
The model's own choices in it: log 8, 11. -/
def Obligations.StepRunsTheDecodedInstruction : Prop :=
  (∀ (s : State) (i : Instr) (l : List Instr), s.agenda = i :: l → step s = exec i { s with agenda := l }) ∧
  (∀ (s : State) (c : Nat) (l : List Nat) (s1 : State),
    s.agenda = [] → s.grants = c :: l →
    ({ s with grants := l } : State).group c = [c] → (({ s with grants := l } : State).ctx c).scheduled = true →
    (∀ f, ({ s with grants := l } : State).trial c = (s1, .fault f) → step s = .next (s1.suppress c f)) ∧
    ∀ u t : State, ({ s with grants := l } : State).trial c = (s1, .ready) →
      u = ((s1.prepare c).1.openCycle c).countIssue c true → u.here.task.inEsp = false →
      let rest := u.cur.todo.filter fun p => !actsFirst p.2
      let ends := step s =
        .next (((if t.cur.moved then t else t.advance).modCtx c fun x => { x with replay := false }).nextStep [c])
      (u.cur.ckpt = false → u.runAll u.cur.todo = .next t → ends) ∧
      (u.cur.ckpt = true → u.here.replay = true → u.runAll rest = .next t → ends) ∧
      (u.cur.ckpt = true → u.here.replay = false → ∀ v w : State, u.runAll (u.cur.todo.filter fun p => actsFirst p.2) = .next v →
        exec .checkpointBundle (v.atSlot 15) = .next w → w.runAll rest = .next t → ends)) ∧
  (∀ s : State, s.runAll [] = .next s) ∧
  (∀ (s t : State) (k : Nat) (i : Instr) (l : List (Nat × Instr)), exec i (s.atSlot k) = .next t →
    s.runAll ((k, i) :: l) = t.runAll l) ∧
  ∀ (s : State) (w : BitVec 256), isPacket w = false → ∃ t, s.place w = .ok t ∧ t.cur.bits = w ∧
    t.cur.todo = (match (readBundle w).plog with | some i => [(0, i)] | none => []) ++
      (readBundle w).slots.filter (fun p => !isNop p.2) ∧
    t.cur.ckpt = w.getLsbD 253 ∧ t.cur.profile = (w.extractLsb' 247 6).toNat ∧ t.ctxs = s.ctxs ∧ t.mem = s.mem

/-- What module reset leaves (R493): every byte of HBM reads zero, region 0 is the one region, no context holds a task,
every port is DOWN, no row is counted, measurement registers 11 to 15 hold zero, and the module has the id that F5 gives
it (R402). The model's own choices in it: log 4, 102. -/
def Obligations.ResetState : Prop :=
  (∀ pa, pa < 0x80_0000_0000 → State.reset.homeByte pa = 0) ∧
  (∀ r, (State.reset.region r).isSome = true ↔ r = 0) ∧
  (∀ c, (State.reset.ctx c).st = .idle) ∧
  (∀ p, (Tab.get {} State.reset.ports p).st = .down) ∧
  (∀ k r, Tab.get 0 (Tab.get {} State.reset.hbm k).cnt r = 0) ∧
  (∀ k, 11 ≤ k → k < 16 → State.reset.meas[k]? = some []) ∧ State.reset.modid = Config.moduleId.val

/-- The state after reset is in canonical form. -/
def Obligations.ResetIsCanonical : Prop := State.reset.Canonical

/-- Every step keeps the canonical form of memory, of host memory and of the table of contexts: from every state, not
only those that runs reach. -/
def Obligations.StepsKeepTheCanonicalForm : Prop :=
  ∀ s t : State, s.Canonical → step s = .next t → t.Canonical

/-- A byte written at its home is read back, and every other byte reads as before: HBM and host memory alike, but for
bit 2 of a byte that holds a completion node's UNDER, which a write of 1 clears (R8, log 87); a write to addresses that are neither changes
nothing (R3, R335, Table 11.3). The model's own choices in it: log 4, 87. -/
def Obligations.HomeBytesReadBack : Prop :=
  ∀ (s : State) (pa : Nat) (l : List Byte), s.Canonical →
    (∀ i, i < l.length → paKind (pa + i) = .hbm →
      (s.homeWrite pa l).homeByte (pa + i) = if s.holdsUnder (pa + i) then l.getD i 0 ^^^ 4 else l.getD i 0) ∧
    (∀ i, i < l.length → paKind (pa + i) = .host → (s.homeWrite pa l).homeByte (pa + i) = l.getD i 0) ∧
    (∀ a, a < pa ∨ pa + l.length ≤ a → (s.homeWrite pa l).homeByte a = s.homeByte a) ∧
    (s.homeWrite pa l).Canonical ∧
    ((∀ i, i < l.length → paKind (pa + i) = .device ∨ paKind (pa + i) = .unmapped) → s.homeWrite pa l = s)

/-- Decoding the bits of an encoded well-formed instruction, at its place, gives the instruction back (R41 to R52, R80,
and the encoding tables). -/
def Obligations.DecodeOfEncode : Prop :=
  ∀ i : Instr, WellFormed i → (encode i).1 ≠ .event → decodeAt (encode i).1 (encode i).2 = some i

/-- Words that the spec writes out decode to what they stand for: the S, V, M, C, Y and X slots, a token, and the whole
bundle of R80's example. -/
def Obligations.DecodedWords : Prop :=
  decodeAt .s 0x92113FFFFB = some (.cmplti 2 (.reg 9) (BitVec.ofInt 21 (-5))) ∧
  decodeAt .s 0xA210200000 = some (.trn 2 false false 1) ∧
  decodeAt .s 0xA4070001A0 = some (.call (.special .pc) 0x1A0) ∧
  decodeAt .v 0x7A4021106 = some (.vfma .f32 (.reg 8) (.reg 1) (.reg 2) (.reg 8) 3) ∧
  decodeAt .v 0xC230A0840 = some (.vcvt (.reg 6) (.reg 5) 1 2 0) ∧
  decodeAt .m 0x190020 = some (.macc .sx4 .sx4 false 0 1) ∧
  decodeAt .m 0x526800 = some (.mdrain 1 true true 4 0) ∧
  decodeAt .c 0x1B450 = some (.cmcast ⟨3, 4, 5, false, false⟩) ∧
  decodeAt .y 0x1383 = some (.fwaitAcq 3 3) ∧
  decodeAt .x 0x1C49186D = some (.aor (.reg 9) (.reg 8) (.special .zero) ⟨.acqRel, .die, 1⟩) ∧
  decodeAt .x 0x1000A304 = some (.aaddU (.reg 5) (.reg 6)) ∧
  decodeAt .x 0x38288301 = some (.qpushT (.reg 5) (.reg 4) (.reg 6)) ∧
  decodeAt .token 0x0284 = some (.token 5 4) ∧
  readBundle 0x01A00000_80082000_20682041_80000000_00000000_00000000_00000000_00000000 =
    ⟨false, 3, 512, 256, none, [(1, .addi (.reg 1) (.reg 1) 32), (2, .vfadd .f32 (.reg 4) (.reg 2) (.reg 3) 0),
      (3, .vnop), (4, .mnop), (5, .cnop), (6, .cnop), (7, .ynop), (8, .xnop)]⟩

/-- A result not yet due comes one issue cycle nearer; one that is due lands (R55, R56, R83, R157): its register holds
it, in the bits that its mask names for v, m and e registers, the latch of its slot takes its value and the older latch the
one before, and the status that it raises is ORed into CTXSTAT. A nest record's reserved bits read as zero (R10). A CWR
keeps reserved bits and the registers that cannot be written (R101, R102, R123, R274, R355), and one to LOOPST closes inner
levels and no more (R114). Nothing else of the machine changes. -/
def Obligations.ResultsLand : Prop :=
  (∀ (s : State) (c : Nat) (l : Land), (s.ctx c).a.flight = [l] →
    let a := (s.ctx c).a
    let leaves (b : Arch) : Prop :=
      exec (.resultLanding c) s = .next { s with ctxs := Tab.set {} s.ctxs c { s.ctx c with a := b } }
    (2 ≤ l.left → leaves { a.raise 0 with flight := [{ l with left := l.left - 1 }] }) ∧
    (l.left = 1 → leaves ((({ a with flight := [] } : Arch).landOne l).raise l.status))) ∧
  (∀ (a : Arch) (st : Word), a.raise st = { a with cr := Tab.set 0 a.cr 1 (Tab.get 0 a.cr 1 ||| st) }) ∧
  (∀ (a : Arch) (k : Nat) (wr : List Wr) (st : Word) (u : Nat) (x : LatchVal), let b := a.landOne ⟨k, wr, none, st⟩
    a.landOne ⟨k, wr, some (u, x), st⟩ = { b with
      latches := Tab.set none (Tab.set none b.latches (2 * u + 1) (Tab.get none b.latches (2 * u))) (2 * u) (some x) }) ∧
  ∀ (a : Arch) (k n : Nat) (st w : Word), let lands (r : Wr) : Arch := a.landOne ⟨k, [r], none, st⟩
    lands (.s n w) = { a with s := Tab.set 0 a.s n w } ∧
    (∀ v, lands (.c n v) = { a with c := Tab.set false a.c n v }) ∧
    lands (.b n w) = { a with b := Tab.set 0 a.b n w } ∧
    (∀ v, lands (.i n v) = { a with i := Tab.set 0 a.i n v }) ∧
    lands (.g n w) = { a with g := Tab.set 0 a.g n w } ∧
    (∀ v, lands (.n n v) = { a with n := Tab.set 0 a.n n ((v.setWidth 456 : BitVec 456).setWidth 512) }) ∧
    (∀ v m, lands (.v n v m) = { a with v := Tab.set 0 a.v n ((Tab.get 0 a.v n &&& ~~~m) ||| (v &&& m)) }) ∧
    (∀ v m, lands (.m n v m) = { a with m := Tab.set 0 a.m n ((Tab.get 0 a.m n &&& ~~~m) ||| (v &&& m)) }) ∧
    (∀ v m, lands (.e n v m) = { a with e := Tab.set 0 a.e n ((Tab.get 0 a.e n &&& ~~~m) ||| (v &&& m)) }) ∧
    lands (.cr 1 w) = { a with cr := Tab.set 0 a.cr 1 (w &&& 0x3FF) } ∧
    lands (.cr 2 w) = { a with cr := Tab.set 0 a.cr 2 (w &&& ~~~0x7) } ∧
    lands (.cr 3 w) = { a with cr := Tab.set 0 a.cr 3 (w &&& ~~~0x1F) } ∧
    lands (.cr 4 w) = { a with cr := Tab.set 0 a.cr 4 w } ∧
    lands (.cr 5 w) = { a with cr := Tab.set 0 a.cr 5 (w &&& 0xFFFF) } ∧
    (∃ l, lands (.cr 7 w) = { a with loops := l } ∧ l <:+ a.loops ∧
      l.length = Nat.min (w &&& 0x7).toNat a.loops.length) ∧
    (∀ j, j < 6 → lands (.cr (0x10 + j) w) = { a with i := Tab.set 0 a.i j (w.setWidth 32) }) ∧
    (n ∉ [1, 2, 3, 4, 5, 7, 0x10, 0x11, 0x12, 0x13, 0x14, 0x15] → lands (.cr n w) = a)

/-! ## Events of a context -/

/-- `v` once the background of core `k` is granted: its yield counter returns to 0 (R75). -/
def Sys2Proof.Claim.background (v : State) (k : Nat) : State :=
  { v with
    cores := Tab.set {} v.cores k { v.core k with yieldCnt := 0 }
    ctxs := Tab.set {} v.ctxs (2 * k + 1) { v.ctx (2 * k + 1) with sliceIssued := true }
    grants := v.grants ++ [2 * k + 1] }

/-- The merge stage of a core that issues alone decides as Table 2.18 says; a forced yield grants the background; a load's
data is written and leaves the loads outstanding, and a device load takes the hub's bytes, with the context's own held
stores over them, in its turn; a drain write that is due lands its bytes in the scratchpad; the generator appends its
next block (R72 to R75, R84, R97, R98, R151, R197, R203, R334). The model's own choices in it: log 8, 10, 94. -/
def Obligations.CycleEvents : Prop :=
  (∀ (s u v : State) (k : Nat) (p : Pair), u = s.clock k → u.together k = [k] → u.pair k = (v, p) → p.core = k →
    p.f.v ≠ .waits true → p.b.v ≠ .waits true →
    let fore (x : State) : State := { x with grants := x.grants ++ [2 * k] }
    exec (.mergeDecision k) s = .next (
      if p.b.ready = false then
        let w := if p.due && p.f.ready then fore v else v
        { w with ctxs := Tab.set {} v.ctxs (2 * k + 1) { v.ctx (2 * k + 1) with sliceReady := false } }
      else if (p.due && p.f.ready) = false then Claim.background v k
      else if compatible p.f p.b then Claim.background (fore v) k
      else if (v.core k).yieldCnt = 255 ∧ (v.ctx (2 * k)).task.det = false then Claim.background v k
      else { fore v with
        cores := Tab.set {} v.cores k { v.core k with yieldCnt := Nat.min 255 ((v.core k).yieldCnt + 1) } })) ∧
  (∀ (s u : State) (k : Nat) (p : Pair), s.pair k = (u, p) → u.yields p = true →
    exec (.forcedYield k) s = .next (Claim.background u k)) ∧
  (∀ (s : State) (c k e : Nat) (o : Outst), (s.ctx c).loads[k]? = some o → o.bad = none → o.asked = false → o.ext = false →
    exec (.interlockedLoadData c k e) s = .next { s with ctxs := Tab.set {} s.ctxs c { s.ctx c with
      loads := (s.ctx c).loads.eraseIdx k, a := (s.ctx c).a.write o.wr } }) ∧
  (∀ (s : State) (c k e : Nat) (o : Outst) (pa n : Nat) (w : Word), (s.ctx c).loads[k]? = some o → o.bad = none →
    o.asked = false → o.ext = true → o.wr = .s n w → o.acq = none → s.vaPa (s.asidAt c) o.va.toNat = some pa →
    s.peerAt pa = none → s.deviceTurn c k = true →
    let a := (s.ctx c).a
    let b := overlay o.own (s.deviceRead pa o.size)
    exec (.interlockedLoadData c k e) s = .next { s with ctxs := Tab.set {} s.ctxs c { s.ctx c with
      loads := (s.ctx c).loads.eraseIdx k, a := { a with s := Tab.set 0 a.s n (BitVec.ofNat 64 (ofBytes b)) } } }) ∧
  (∀ (s : State) (c lo : Nat) (st : Word) (l : List Byte), Tab.wf {} s.ctxs = true →
    (s.ctx c).a.drains = [⟨1, some lo, l, st⟩] → lo % 0x10_0000 + l.length ≤ 0x10_0000 →
    ∃ t, exec (.drainWrite c) s = .next t ∧
      t = { s with
        cores := t.cores
        ctxs := Tab.set {} s.ctxs c { s.ctx c with a := { (s.ctx c).a.raise st with drains := [] } } } ∧
      (∀ k, k ≠ coreOf c → t.core k = s.core k) ∧
      t.core (coreOf c) = { s.core (coreOf c) with spad := (t.core (coreOf c)).spad } ∧
      (∀ j, j < l.length → Tab.get none (t.core (coreOf c)).spad ((s.ctx c).task.spadPa lo + j) = l[j]?) ∧
      ∀ a, (∀ j, j < l.length → a ≠ (s.ctx c).task.spadPa lo + j) →
        Tab.get none (t.core (coreOf c)).spad a = Tab.get none (s.core (coreOf c)).spad a) ∧
  ∀ (s : State) (k : Nat), (s.ctx (2 * k)).busy = true → (s.ctx (2 * k)).a.rbq.length + 2 ≤ 32 →
    let a := (s.ctx (2 * k)).a
    let w := genBlock a.seed a.stream a.lane a.nextBlock
    exec (.rbqFill k) s = .next { s with ctxs := Tab.set {} s.ctxs (2 * k) { s.ctx (2 * k) with a := { a with
      rbq := a.rbq ++ (if a.skipWord then [w.2] else [w.1, w.2]), nextBlock := a.nextBlock + 1, skipWord := false } } }

/-- The command at the head of an engine's queue that the engine chooses moves its next granule of 256 bytes, once the
members that it names are there and, at its start, XORD is met: elements (CPY, CPYT, CMCAST, CGATH), fills (CFILL), lines
brought in (CPREF). It completes with its last granule, or stops at its first bad one; a CMCAST to no member reads nothing
and completes. A fabric command reads its handle,
sends a fragment at a time as its region's credit admits, and completes, a GET when its replies are in. A post that
reaches its flag adds one to it, and counts toward a rollback (R226 to R228, R240 to R242, R244, R246, R247, R434, R436,
R439). The model's own choices in it: log 25, 26, 27, 28, 29, 30, 55. -/
def Obligations.CopyEvents : Prop :=
  (∀ (s u t : State) (c eng : Nat) (m y : Cmd) (q : List Cmd), (s.ctx c).queued eng = m :: q →
    s.chosen (coreOf c) eng = some c → s.passTurn (coreOf c) eng = u → (∀ k ∈ m.members, (u.memberAt c k).isSome = true) →
    m.fabric = false →
    (m.started = true ∧ t = u ∧ y = m ∨ m.started = false ∧ (m.xord = false ∨ (u.ctx c).otherBusy eng m = false) ∧
      t = u.startCmd c m 0 ∧ y = ((t.ctx c).queued eng).headD m) →
    let es := Nest.size y.src
    let n := Nat.min (Nest.count y.src) (y.moved + granuleSize es)
    let l := ((t.elements c y).drop y.moved).take (n - y.moved)
    let ends (v : State) : Prop := exec (.copyCompletion c eng) s = .next (
      if Nest.count y.src ≤ n then v.completeCmd c y else v.modCtx c fun x => x.modCmd y.seq fun z => { z with moved := n })
    let moved (r : State × List Move × Option CmdStop) : Prop :=
      (∀ v ms, r = (v, ms, none) → ends (v.performMoves c y ms)) ∧
      ∀ v ms e, r = (v, ms, some e) →
        exec (.copyStop c eng) s = .next (((v.someMoves ms).1.performMoves c y (v.someMoves ms).2).stopCmd c eng y e)
    (y.op ∈ [1, 2, 3, 4] → (y.op = 3 → y.members ≠ []) → moved (t.moves c es (Cw.hint y.cw) y.moved l)) ∧
    (y.op = 3 → y.members = [] → exec (.copyCompletion c eng) s = .next (t.completeCmd c y)) ∧
    (y.op = 5 → moved (t.fillMoves c es (fillBytes es (y.word 1)) y.moved l)) ∧
    (y.op = 6 → (∀ v, t.prefetch c es (Cw.hint y.cw) l = (v, none) → ends v) ∧
      ∀ v e, t.prefetch c es (Cw.hint y.cw) l = (v, some e) → exec (.copyStop c eng) s = .next (v.stopCmd c eng y e))) ∧
  (∀ (s u : State) (c eng : Nat) (m : Cmd) (q : List Cmd), (s.ctx c).queued eng = m :: q →
    s.chosen (coreOf c) eng = some c → s.passTurn (coreOf c) eng = u → m.fabric = true →
    (m.started = false → (m.xord = false ∨ (u.ctx c).otherBusy eng m = false) → m.fabricLen ≠ 0 →
      (∀ v h, u.readHandle c m = (v, .ok h) → exec (.copyCompletion c eng) s = .next (v.startCmd c m h)) ∧
      ∀ v e, u.readHandle c m = (v, .error e) → exec (.copyStop c eng) s = .next (v.stopCmd c eng m e)) ∧
    (m.started = false → (m.xord = false ∨ (u.ctx c).otherBusy eng m = false) → m.fabricLen = 0 →
      (∀ g ∈ u.frags, ¬ (g.uid = (u.ctx c).task.uid ∧ g.member = (u.ctx c).task.member ∧ g.seq = m.seq)) → m.moved = 0 →
      exec (.copyCompletion c eng) s = .next ((u.emptyAck c m).completeCmd c m)) ∧
    (m.started = true → m.fabricLen ≠ 0 → m.fragments[m.moved]? = none → m.op = 8 →
      (∀ g ∈ u.frags, ¬ (g.uid = (u.ctx c).task.uid ∧ g.member = (u.ctx c).task.member ∧ g.seq = m.seq)) →
      exec (.copyCompletion c eng) s = .next (u.completeCmd c m)) ∧
    (m.started = true → ∀ f, m.fragments[m.moved]? = some f →
      let last := decide (m.moved + 1 = m.fragments.length)
      (∀ v d, u.fragData c m f = (v, .ok d) →
        v.fabAdmits (u.ctx c).task.region (v.injectBytes (v.fragPacket m f last d)) = true →
        let w := v.sendFrag c eng m f last d
        exec (.copyCompletion c eng) s = .next (
          if m.op ≠ 8 ∧ m.fragments.length ≤ m.moved + 1 then w.completeCmd c m
          else w.modCtx c fun x => x.modCmd m.seq fun z => { z with moved := m.moved + 1 })) ∧
      ∀ v e, u.fragData c m f = (v, .error e) → exec (.copyStop c eng) s = .next (v.stopCmd c eng m e))) ∧
  (∀ (s : State) (c : Nat) (m : Cmd), m.posted = [] → ∃ x, s.completeCmd c m = { s with ctxs := Tab.set {} s.ctxs c x } ∧
    x.q0 = (s.ctx c).q0.filter (fun y => y.seq ≠ m.seq) ∧ x.q1 = (s.ctx c).q1.filter (fun y => y.seq ≠ m.seq) ∧
    x.a = (if Cw.lpost m.cw && (s.ctx c).busy && !(s.ctx c).exited
      then { (s.ctx c).a with f := Tab.set 0 (s.ctx c).a.f m.flag (Tab.get 0 (s.ctx c).a.f m.flag + 1) }
      else (s.ctx c).a)) ∧
  ∀ (s : State) (k c : Nat) (p : Post), s.posts[k]? = some p → s.postFirst k p = true →
    s.ctxs.find? (fun q => q.2.live && q.2.task.uid = p.uid && q.2.task.member = p.member) = some (c, s.ctx c) →
    (s.ctx c).busy = true → (s.ctx c).task.uid = p.uid → (s.ctx c).task.member = p.member →
    let x := s.ctx c
    exec (.flagPostArrival k) s = .next { s with
      posts := s.posts.eraseIdx k
      ctxs := Tab.set {} s.ctxs c { x with
        a := { x.a with f := Tab.set 0 x.a.f p.flag (Tab.get 0 x.a.f p.flag + 1) }
        arrived := Tab.set 0 x.arrived p.flag (Tab.get 0 x.arrived p.flag + 1) } }

/-- Pre-emption and saves (R268 to R273, R312, R325): a request becomes pending where the save has a slot; a pending one
stops a task of one member at its bundle boundary and is counted, and discards a tile step that has released nothing; a
completed save takes the member's whole context out, with its windows parked, once its loads, its GETs' replies and the
posts on their way to it are in (Table 8.6); parked windows are written out; a saved task is named in the banks of the
contexts that it resumes in; a slice's end asks for the pre-emption of a background task that was ready for the whole of
it and issued nothing; no new request comes from F2 while it is being replaced (R465).
The model's own choices in it: log 31, 33, 40, 101. -/
def Obligations.PreemptionAndResumption : Prop :=
  (∀ (s : State) (c : Nat), let x := s.ctx c
    x.busy = true → x.st ≠ .save → x.ending = none → x.exited = false → s.holders x.task.uid = [c] →
    (x.preempt = false → s.fnAway 2 = false → s.slotFree c = true →
      exec (.preemptionRequest c) s = .next { s with ctxs := Tab.set {} s.ctxs c { x with preempt := true } }) ∧
    (x.preempt = true → x.task.w * x.task.h = 1 → s.savedAway x.task.uid = 0 → s.holdsRequest c = false →
      let u := s.modRegion x.task.region fun r => { r with preempts := r.preempts + 1 }
      (x.task.tile = none ∨ x.task.released = true → exec (.preemptionRequest c) s = .next (u.toSave c)) ∧
      (∀ step, x.task.tile = some step → x.task.released = false →
        exec (.preemptionRequest c) s = .next (u.discardStep [c] step)))) ∧
  (∀ (s : State) (c : Nat), let x := s.ctx c
    Tab.wf {} s.ctxs = true → x.st = .save → x.loadsDone = true → s.repliesDue x = false → s.postsDue x = false →
    (s.core (coreOf c)).stopped = false →
    (∀ l ∈ (s.core (coreOf c)).l1, l.st = .u .fadd → s.orderedLine l.line = false) →
    s.savedOf x.task.uid = none → x.task.member = 0 → x.task.w * x.task.h = 1 →
    ∃ t, exec (.saveComplete c) s = .next t ∧ t.ctx c = { bank := x.bank } ∧ s.SameOthers t c ∧
      t.saved = s.saved ++ [⟨s.nextSaved, [x], [none], [coreOf c], x.task.saveArea, true⟩] ∧
      t.nextSaved = s.nextSaved + 1) ∧
  (∀ (s : State) (core k : Nat) (v : Saved), s.saved.find? (fun v => v.id = k) = some v →
    v.members.length = v.windows.length → ∃ t, exec (.parkedWindowWrite core k) s = .next t ∧ t.ctxs = s.ctxs ∧
      ∀ w ∈ t.saved, w.id = k → w.members = v.members ∧ ∀ m, m < v.windows.length → v.homes.getD m 0 = core →
        (v.members.getD m {}).busy = true → (w.windows.getD m none).isSome = true) ∧
  (∀ (s : State) (k c : Nat) (v : Saved) (l : List (Nat × List Nat)), s.saved.find? (fun v => v.id = k) = some v →
    let q := (v.members.getD 0 {}).task
    s.unmet q.region q.w q.h (decide (q.ew ≠ 0)) q.det q.win = none → s.resumeFits v c = some l →
    Tab.wf {} s.ctxs = true → (l.map (·.1)).Nodup →
    ∃ t, exec (.resumption k c) s = .next t ∧
      (∀ m, m < l.length → (t.ctx (2 * (l.getD m (0, [])).1 + c % 2)).bank = some (.saved k m)) ∧
      (∀ w ∈ t.saved, w.id = k → w.live = false)) ∧
  (∀ (s : State) (core : Nat), let c := 2 * core + 1
    (s.fnAway 2 = true → exec (.timeSliceExpiry core) s = .next s) ∧
    (s.fnAway 2 = false →
      exec (.timeSliceExpiry core) s = .next ((if (s.ctx c).busy && (s.ctx c).sliceReady && !(s.ctx c).sliceIssued
        then s.requestPreempt c else s).modCtx c fun x => { x with sliceIssued := false, sliceReady := (s.ctx c).busy })))

/-- Errors that a core's checks detect (R286 to R289, R332): a corrected one is counted; an uncorrectable clean L1 line is
dropped; any other, in the open region of a context, rolls every member of its espalier back and begins a rerun, with the
other contexts of their cores held. After the first rerun the region is run once more; two reruns that agree let the
closing checkpoint issue, with the other contexts still held; when they differ, and on an error in a rerun, the core stops
and is reported to F4, which retires it unless F4 is being replaced (R441, R465).
The model's own choices in it: log 34, 35, 36, 37, 99. -/
def Obligations.ErrorsAndReruns : Prop :=
  (∀ (s : State) (c : Nat), exec (.dataError ⟨c, .corrected⟩) s = .next { s with eccCount := s.eccCount + 1 }) ∧
  (∀ (s : State) (c n : Nat) (l : L1Line), s.l1Find (coreOf c) n = some l → l.st = .c →
    exec (.dataError ⟨c, .l1Line n⟩) s = .next (s.l1Drop (coreOf c) n)) ∧
  (∀ (s : State) (c : Nat) (e : DetectedError), e = .operation ∨ (∃ n l, e = .l1Line n ∧ s.l1Find (coreOf c) n = some l ∧ l.st ≠ .c) →
    s.espCtxs c = [c] → (s.core (coreOf c)).stopped = false →
    let u : State := { s with dataErrors := s.dataErrors + 1 }
    ((s.ctx c).rerun = none → (s.ctx c).closed = false → (s.ctx c).st = .run ∨ (s.ctx c).st = .trap →
      exec (.dataError ⟨c, e⟩) s = .next ((u.modCtx c fun x =>
        { x.rollback with rerun := some ⟨1, 0, 0⟩ }).modCtx (partner c) Ctx.hold)) ∧
    ((s.ctx c).rerun ≠ none → exec (.dataError ⟨c, e⟩) s = .next (u.reportRetire (coreOf c)))) ∧
  (∀ (s : State) (c : Nat) (r : Rerun), (s.ctx c).rerun = some r → r.phase = 3 → exec (.rerunVerdict c) s = .next s) ∧
  (∀ (s : State) (c : Nat) (r : Rerun), (s.ctx c).rerun = some r → s.espCtxs c = [c] → s.atClose c = true →
    (s.core (coreOf c)).stopped = false →
    (r.phase = 1 → exec (.rerunVerdict c) s = .next (s.modCtx c fun x =>
      { x.rollback with rerun := some ⟨2, (s.ctx c).regionCount, (s.closing c).signature⟩ })) ∧
    (r.phase = 2 → r.count = (s.ctx c).regionCount → r.sig = (s.closing c).signature →
      exec (.rerunVerdict c) s = .next (({ s with rerunsAgreed := s.rerunsAgreed + 1 } : State).modCtx c fun x =>
        { x with rerun := some { r with phase := 3 }, step := 0 })) ∧
    (r.phase = 2 → r.count ≠ (s.ctx c).regionCount ∨ r.sig ≠ (s.closing c).signature →
      exec (.rerunVerdict c) s = .next (s.reportRetire (coreOf c)))) ∧
  (∀ (s : State) (k : Nat), (s.core k).stopped = false → (s.core k).dead = false →
    s.reportRetire k = (s.modCore k fun x => { x with stopped := true }).modNal 4 fun n => n.send (.retire k)) ∧
  ∀ (s : State) (k : Nat), Tab.wf {} s.cores = true → k < 96 → (s.core k).dead = false →
    (s.fnAway 4 = true → exec (.coreRetirement k) s = .next (s.reportRetire k)) ∧
    (s.fnAway 4 = false → Letter.retire k ∉ (s.nal 4).waits → ∃ t, exec (.coreRetirement k) s = .next t ∧
      t.retirements = s.retirements + 1 ∧ (t.core k).l1 = [] ∧ (t.core k).tlb = [])

/-! ## Clusters, stealing and records -/

/-- Reservation `r` of die `d` and ticket `n` has failed: RELEASE goes to every core that it wants, and it waits to retry
(R262). -/
def Sys2Proof.Claim.failed (s : State) (d n : Nat) (r : Reservation) : State :=
  { s with
    agenda := s.agenda ++ r.coresWanted.map (fun k => .release k n)
    reservations := s.reservations.map fun x => if x.die = d ∧ x.ticket = n then
      { x with granted := [], committed := [], attempt := Nat.min 16 (x.attempt + 1), waiting := true } else x }

/-- Cluster reservation and work that moves (R261, R262, R290, R295, R300, R309, R310, R312): RESERVE takes an empty latch
whose bank is free; COMMIT marks the latch, and on the last core places the task once its windows fit; LOST, and a COMMIT
that meets a latch that is not the launch's, a dead core or a budget that no longer allows the task, release what was
reserved; RELEASE empties a latch; a waiting launch reserves again; a thief takes the oldest entry of a deque, or of an overflow
queue; a launch whose condition words are met goes on to its reservation.
The model's own choices in it: log 38, 41, 42, 83. -/
def Obligations.ClustersAndWork : Prop :=
  (∀ (s : State) (k n : Nat) (cls : CtxClass) (fl : Bool) (r : Reservation), s.reservation (dieOfCore k) n = some r →
    r.waiting = false → k ∈ r.coresWanted → (∀ p ∈ r.granted, p.1 ≠ k) → (s.core k).rlatch = .empty →
    (s.core k).dead = false → (s.ctx (ctxIn k cls)).bank = none →
    let u := { s with cores := Tab.set {} s.cores k { s.core k with rwait := (s.core k).rwait.filter fun x => x ≠ n } }
    exec (.reserve k n cls fl) s = .next (u.grantReserve k n cls) ∧ ((u.grantReserve k n cls).core k).rlatch = .held n) ∧
  (∀ (s : State) (k n : Nat) (r : Reservation) (l : Launch), s.reservation (dieOfCore k) n = some r →
    s.launchOf (dieOfCore k) n = some l → r.waiting = false → r.granted.length = r.coresWanted.length →
    k ∈ r.coresWanted → k ∉ r.committed → (s.core k).rlatch = .held n → (∀ j ∈ r.coresWanted, (s.core j).dead = false) →
    (r.committed = [] → s.budgetsAllow l r = true) →
    let q : Reservation := { r with committed := r.committed ++ [k] }
    let u := (s.modCore k fun x => { x with rlatch := .committed n }).modReservation (dieOfCore k) n fun _ => q
    (q.committed.length ≠ r.coresWanted.length → exec (.commit k n) s = .next u) ∧
    (q.committed.length = r.coresWanted.length →
      (∀ t, u.placeLaunch l q = some t → exec (.commit k n) s = .next t) ∧
      (u.placeLaunch l q = none → exec (.commit k n) s = .next u))) ∧
  (∀ (s : State) (k n : Nat) (r : Reservation) (l : Launch), s.reservation (dieOfCore k) n = some r →
    s.launchOf (dieOfCore k) n = some l → r.waiting = false → r.granted.length = r.coresWanted.length → k ∈ r.coresWanted →
    ((s.core k).rlatch ≠ .held n ∧ (s.core k).rlatch ≠ .committed n ∨ (∃ j ∈ r.coresWanted, (s.core j).dead = true) ∨
      r.committed = [] ∧ s.budgetsAllow l r = false) →
    exec (.commit k n) s = .next (Claim.failed s (dieOfCore k) n r)) ∧
  (∀ (s : State) (d n : Nat) (r : Reservation), s.reservation d n = some r → r.waiting = false →
    exec (.lost d n) s = .next (Claim.failed s d n r)) ∧
  (∀ (s : State) (k n : Nat), (s.core k).rlatch = .held n ∨ (s.core k).rlatch = .committed n →
    exec (.release k n) s = .next { s with cores := Tab.set {} s.cores k { s.core k with
      rlatch := .empty
      rheld := (s.core k).rheld.filter fun h => h.1 ≠ n
      rwait := (s.core k).rwait.filter fun x => x ≠ n } }) ∧
  (∀ (s : State) (d n : Nat) (l : Launch), s.launchOf d n = some l → l.stage = .reserve →
    s.hasRect d (Frame.w l.frameBits) (Frame.h l.frameBits) = true → Frame.members l.frameBits ≤ (s.regionD 0).cores →
    (∀ r, s.reservation d n = some r → r.waiting = true) →
    exec (.reservationRetry d n) s = .next (s.beginReservation l)) ∧
  (∀ (s t : State) (v c : Nat), s.thief c = true → s.stealCore v c = some t → exec (.steal v c) s = .next t) ∧
  (∀ (s t : State) (v c : Nat) (l : List Nat), s.thief c = true → victims c = v :: l → s.stealCore v c = some t →
    exec (.stealRound c) s = .next t) ∧
  (∀ (s t u : State) (v c : Nat) (e : DqEnt) (l : List DqEnt), (s.ctx v).spill = [] → (s.ctx v).deque = e :: l →
    s.mayTake c e.region = true → t = (s.modCtx v fun x => { x with deque := l }) → t.startEntry c e = (u, .started) →
    s.stealFrom v c = some (u.modCtx c fun x => { x with taken := some (e, t.resumes e) }).recount) ∧
  (∀ (s u : State) (r c : Nat) (e : DqEnt) (l : List DqEnt), s.thief c = true → Tab.get [] s.overflow r = e :: l →
    s.mayTake c r = true → bitN (s.effDiemask r) (dieOf c) = true → (s.regionD r).halted = false →
    ({ s with overflow := Tab.set [] s.overflow r l } : State).startEntry c e = (u, .started) →
    exec (.overflowQueueDispatch r c) s = .next u.recount) ∧
  ∀ (s : State) (k : Nat) (l : Launch) (g : Lease), s.launches[k]? = some l → l.stage = .cond →
    s.leases.find? (fun x => x.id = l.lease) = some g →
    (∀ p ∈ l.waits, ∃ e ∈ g.ranges, e.grants p.1 8 Need.read = true) →
    let u := l.waits.foldl (fun (u : State) p =>
      match u.vaPa (s.asidOf l.region) p.1 with
      | some pa => ((u.walkReads l.region (s.asidOf l.region) p.1).readHome l.region .normal pa 8).1
      | none => u) s
    (∀ p ∈ l.waits, ∃ pa, u.vaPa (s.asidOf l.region) p.1 = some pa ∧ p.2 ≤ u.homeNat pa 8) →
    exec (.launchConditionMet k) s = .next { u with launches := u.launches.map fun x =>
      if x.die = l.die && x.ticket = l.ticket then { x with stage := .reserve } else x }

/-- Operator records (R299, R454, Table 15.7): the record that a queue has next, of its own kind, has its effect; those that
F1 performs wait while it is being replaced (R465). The model's own choices in it: log 44, 45, 46, 47, 49, 50. -/
def Obligations.RecordsActByKind : Prop :=
  (∀ (s : State) (q : Nat) (w : Walk), s.walks.find? (fun w => w.q = q) = some w → w.next < Walk.steps w.topb →
    (∀ g ∈ s.grantsF3, g.launch.q ≠ some q) → (∀ l ∈ s.launches, l.q ≠ some q) →
    exec (.walk q) s = .next (s.walkStep w)) ∧
  ∀ (s u : State) (q : Nat) (r : BitVec 512), s.nextRecord q = (u, some r) →
    let region := (u.queue q).owner
    (Rec.kind r = 0 → exec (.emptyRecord q) s = .next (u.finishRecord q)) ∧
    (7 < Rec.kind r → exec (.emptyRecord q) s = .next ((u.post region ev.badrec (Rec.kind r)
      (u.queue q).dispt.toNat).finishRecord q)) ∧
    (Rec.kind r = 1 → u.frameUnmapped q (Rec.addr r) = false → ∀ d v w t view,
      d = ((u.queuePa q (Rec.addr r)).map (u.dieFor region)).getD (u.chooseDie region 1 1) →
      u.takeTicket d = (v, t) → v.readFrame false d region (Rec.addr r) = (w, .view view) →
      w.frameDetail (w.asidOf region) none view = none → w.unmetBy region view.bits = none →
      exec (.task q) s = .next ((w.launchLease (view.launch (some q) d t region)).holdQueue q)) ∧
    (Rec.kind r = 2 → s.walks.find? (fun w => w.q = q) = none → exec (.walk q) s = .next (u.walkRecord q r)) ∧
    (∀ pa, Rec.kind r = 3 → Rec.addr r % 8 = 0 → u.queuePa q (Rec.addr r) = some pa →
      exec (.wait q) s = .next (if Rec.word2 r ≤ u.homeNat pa 8 then (u.readHome region .normal pa 8).1.finishRecord q
        else (u.readHome region .normal pa 8).1.holdQueue q)) ∧
    (∀ pa v, Rec.kind r = 4 → Rec.addr r % 8 = 0 → u.queuePa q (Rec.addr r) = some pa →
      v = (if r.getLsbD 192
        then (u.readHome region .normal pa 8).1.writeHome region .normal pa
          (bytesOf 8 ((u.homeNat pa 8 + Rec.word2 r) % 2 ^ 64))
        else u.writeHome region .normal pa (bytesOf 8 (Rec.word2 r))) →
      exec (.signal q) s = .next ((if r.getLsbD 193 then v.msix region (Rec.vec r) else v).finishRecord q)) ∧
    (∀ i ∈ [(5, Instr.bind q), (6, .lease q), (7, .summary q)], Rec.kind r = i.1 → u.fnAway 1 = true →
      exec i.2 s = .next (u.holdQueue q)) ∧
    (Rec.kind r = 5 → u.fnAway 1 = false → Rec.len r = 0 → exec (.bind q) s = .next (u.finishRecord q)) ∧
    (∀ pas, Rec.kind r = 5 → u.fnAway 1 = false → Rec.len r ≠ 0 →
      ((List.range ((Rec.addr r % 128 + Rec.len r + 127) / 128)).map fun i => Rec.addr r / 128 * 128 + 128 * i).mapM
        (u.queuePa q) = some pas →
      exec (.bind q) s = .next ((pas.foldl (fun (v : State) pa =>
        if paKind pa = .hbm && bitN (Rec.dies r) (homeDie pa) then v.bindLine (v.queue q).owner (pa / 128) else v) u).finishRecord
          q)) ∧
    (Rec.kind r = 6 → u.fnAway 1 = false → r.getLsbD 128 = false → u.heldLease region (Rec.addr r) = none →
      u.frameUnmapped q (Rec.addr r) = false → ∀ d w view,
      d = ((u.queuePa q (Rec.addr r)).map (u.dieFor region)).getD (u.chooseDie region 1 1) →
      u.readFrame false d region (Rec.addr r) = (w, .view view) → w.frameDetail (w.asidOf region) none view = none →
      exec (.lease q) s = .next ((w.askGrant (view.launch (some q) d (u.queue q).dispt.toNat region) true false).holdQueue
        q)) ∧
    (Rec.kind r = 6 → u.fnAway 1 = false → r.getLsbD 128 = true → ∀ g, u.heldLease region (Rec.addr r) = some g →
      exec (.lease q) s = .next (((u.modLease g.id fun x => { x with record := none }).dropLease g.id).finishRecord q)) ∧
    (Rec.kind r = 7 → u.fnAway 1 = false → (u.queue q).ctrl = true → Rec.addr r % 4096 = 0 → ∀ t,
      ({ u with snapseq := u.snapseq + 1 } : State).writeVa region (Rec.addr r)
        ((u.summaryHeader region (u.snapseq + 1) (Rec.len r) (u.sections region) ++
          (u.sections region).flatMap (·.2.2)).take (Rec.len r)) = some t →
      exec (.summary q) s = .next ((t.complete region (Rec.node r)).finishRecord q))

/-- Leases and pages (R388 to R397), and ordered atomics at their home (R343, R372, R373): a grant whose stretches are
pinned makes its lease; F3's answer maps the page that was asked for, or denies it; a page that moves is marked, closed
once nothing pins it, copied once no access uses a removed translation, and mapped at its new frame; one that stays pinned
is withdrawn; F3 does none of it while it is being replaced (R465); a contribution in order is applied; a retry is sent
again, from the core that its context stands on. The model's own choices in it: log 48, 51, 52. -/
def Obligations.LeasesPagesAndOrderedAdds : Prop :=
  (∀ (s u : State) (k : Nat) (g : Grant), s.grantsF3[k]? = some g → (s.nal 3).has (.grant g.id) = true →
    s.fnAway 3 = false →
    s.grantMalformed (s.asidOf g.launch.region) g.launch.ents = false → s.leaseRoom g.launch.region = true →
    s.grantStretches g.id (s.asidOf g.launch.region) g.launch.stretches = (u, .ok) → tileNeed g.launch.ents ≤ tilePool →
    ((u.leases.flatMap (·.tensors)).map fun t => t.tiles.length).sum + tileNeed g.launch.ents ≤ tilePool →
    exec (.leaseGrant k) s = .next (u.makeLease g)) ∧
  (∀ (s t : State) (k id : Nat) (p : PageReq) (x : Word), s.pageReqs[k]? = some p → p.queue = none →
    s.fnAway 3 = false →
    (({ s with pageReqs := s.pageReqs.eraseIdx k } : State).mapPage p.asid p.va x = some t →
      exec (.pagereq k (some x)) s = .next t) ∧
    (p.grant = some id → exec (.pagereq k none) s = .next { s with
      pageReqs := s.pageReqs.eraseIdx k
      grantsF3 := s.grantsF3.map fun g => if g.id = id then { g with denied := some p.va } else g })) ∧
  (∀ (s t : State) (k q : Nat) (p : PageReq) (x : Word), s.pageReqs[k]? = some p → p.queue = some q →
    (s.nal 3).has (.page q p.va) = true → s.fnAway 3 = false →
    let u := ({ s with pageReqs := s.pageReqs.eraseIdx k } : State).modNal 3 fun n => n.retire (.page q p.va)
    (u.mapPage p.asid p.va x = some t → exec (.pagereq k (some x)) s =
      .next (t.modQueue q fun y => if y.st = .fetchWait then { y with st := .active } else y)) ∧
    exec (.pagereq k none) s = .next (u.stopQueue q 1)) ∧
  (∀ (s : State) (asid va frame a : Nat), let g := s.seg asid va
    va % 2 ^ g.plog = 0 → s.leafAddr asid va = some a → s.fnAway 3 = false →
    let x : Word := BitVec.ofNat 64 (s.homeNat a 8)
    let owner := (Tab.get none s.spaces asid).elim 0 (·.region)
    let v := s.walkReads owner asid va
    let goes (n : MigStep) (l : List Migration) : List Migration :=
      l.map fun y => if y.asid = asid ∧ y.va = va then { y with step := n } else y
    (s.migrations.find? (fun m => m.asid = asid && m.va = va) = none → g.mtype ≠ 1 → g.plog ≠ 0 → frame % 2 ^ g.plog = 0 →
      typeFits g.mtype frame = true → pteValid x g.plog 0 = true →
      exec (.migration asid va frame) s = .next { s with migrations := s.migrations ++ [⟨asid, va, frame, .marked⟩] }) ∧
    ∀ step, s.migrations.find? (fun m => m.asid = asid && m.va = va) = some ⟨asid, va, frame, step⟩ →
      (step = .marked → v.pinned asid va = true → exec (.migration asid va frame) s = .next v) ∧
      (step = .marked → v.pinned asid va = false → ∀ u,
        u = (v.writeHome owner .normal a (bytesOf 8 (x ||| 0x10).toNat)).performInvl asid false va 1 →
        exec (.migration asid va frame) s = .next { u with migrations := goes .closed u.migrations }) ∧
      (step = .closed → v.invlBusy asid false va 1 = false → ∀ u b w,
        v.readHome owner .normal (pteFrame x) (2 ^ g.plog) = (u, b) →
        w = ((u.forgetUnder frame (2 ^ g.plog)).writeHome owner .normal frame b).moveUnder (pteFrame x) frame
          (2 ^ g.plog) →
        exec (.migration asid va frame) s = .next { w with migrations := goes .copied w.migrations }) ∧
      (step = .copied → ∀ u,
        u = v.writeHome owner .normal a (bytesOf 8 ((x &&& ~~~0x10).toNat - pteFrame x + frame)) →
        exec (.migration asid va frame) s = .next { u with
          migrations := u.migrations.filter (fun m => !(m.asid = asid && m.va = va)) })) ∧
  (∀ (s : State) (asid va frame a : Nat), let g := s.seg asid va
    va % 2 ^ g.plog = 0 → (⟨asid, va, frame, .marked⟩ : Migration) ∈ s.migrations → s.pinned asid va = true →
    s.leafAddr asid va = some a → s.fnAway 3 = false →
    exec (.migfail asid va) s = .next (({ s with
      migrations := s.migrations.filter (fun m => !(m.asid = asid && m.va = va)) } : State).post
        ((Tab.get none s.spaces asid).elim 0 (·.region)) ev.migfail (Seg.sizeCode (s.rafEntry asid va)) 0
        (va + asid * 2 ^ 64))) ∧
  (∀ (s : State) (k : Nat) (q : OrdReq) (r : Reduction), s.Canonical → s.ordNet[k]? = some q → s.ordFirst k q = true →
    s.reductions = [r] → r.words = [q.pa] → r.fp = q.fp → r.buf = [] → r.next = [q.t] → q.t < 2 ^ 16 →
    (q.t + 2 ^ 16 - r.tfirst) % 2 ^ 16 < r.tcount → r.tfirst < 2 ^ 16 →
    let n := if q.fp then 4 else 8
    let op : AtOp := if q.fp then .fadd else .add
    ∃ t, exec (.orderedAtomicArrival k) s = .next t ∧
      t.reductions = [{ r with next := [(q.t + 1) % 2 ^ 16] }] ∧
      t.ordNet = s.ordNet.eraseIdx k ∧ t.ctxs = s.ctxs ∧
      (q.pa + n ≤ 0x80_0000_0000 → (∀ i, i < n → s.holdsUnder (q.pa + i) = false) →
        t.homeNat q.pa n = (op.apply (BitVec.ofNat 64 (s.homeNat q.pa n)) q.v 0).toNat % 2 ^ (8 * n)) ∧
      (∀ a, a < q.pa ∨ q.pa + n ≤ a → t.homeByte a = s.homeByte a)) ∧
  ∀ (s : State) (c k : Nat) (q : OrdReq), (s.ctx c).retry[k]? = some q →
    exec (.orderedRetry c k) s = .next { s with
      ctxs := Tab.set {} s.ctxs c { s.ctx c with retry := (s.ctx c).retry.eraseIdx k }
      ordNet := s.ordNet ++ [{ q with src := coreOf c }] }

/-! ## HBM, the fabric and its links -/

/-- The HBM controllers (R339, R344 to R346, R495): an admitted request leaves its queue, waits for its activation, takes
its bytes from its class's credit, and counts in its region's HBMBYTES; a row that is opened is counted, and at its region's
threshold its counter clears, the bank backs off and ROWALERT is posted; a back-off that is over ends; refresh and idle
time act on one bank; a line of HBM becomes uncorrectable, while an address that the map does not have stops the machine.
The model's own choices in it: log 9, 55, 56, 57. -/
def Obligations.HbmControllerEvents : Prop :=
  (∀ (s : State) (k j t : Nat) (q : HbmReq), s.now ≤ t → s.mayAdmit k j t = true → (s.hbmAt k).waiting[j]? = some q →
    let h := s.hbmAt k
    let free : Prop := s.classShare k q.cos = 256 ∨ s.classShare k q.cos = 0
    let admits (h : Hbm) : Prop := exec (.hbmRequestAdmit k j t) s = .next (({ s with
      now := t
      hbm := Tab.set {} s.hbm k
        { h with waiting := h.waiting.eraseIdx j, admitted := h.admitted ++ [{ q with arrived := t }] } } : State).modRegion
        q.region fun r => { r with hbmbytes := r.hbmbytes + BitVec.ofNat 64 q.bytes })
    (free → admits h) ∧
    (¬ free → admits { h with
      credit := Tab.set 0 h.credit q.cos (s.lacks k q t + 256 * q.bytes), creditAt := Tab.set 0 h.creditAt q.cos t })) ∧
  (∀ (s : State) (k t : Nat) (q : HbmReq), s.now ≤ t → (s.hbmAt k).admitted = [q] → Tab.wf {} s.hbm = true →
    Tab.get {} (s.hbmAt k).banks q.bankKey = {} →
    let h := s.hbmAt k
    let row := homeRow q.pa
    let key := q.bankKey * 65536 + row
    let n := Nat.min 0xFFFF ((Tab.get 0 h.cnt key).toNat + 1)
    let opens (back : Option Nat) : Tab HbmBank :=
      Tab.set {} h.banks q.bankKey { openRow := some row, lastUse := t, lastAct := some t, backoff := back }
    (n < s.rowThreshold q.region → exec (.activation k 0 t) s = .next { s with
      now := t
      hbm := Tab.set {} s.hbm k { h with
        admitted := [], actcnt := h.actcnt + 1, cnt := Tab.set 0 h.cnt key (BitVec.ofNat 16 n), banks := opens none } }) ∧
    (s.rowThreshold q.region ≤ n → exec (.activation k 0 t) s = .next (({ s with
      now := t
      hbm := Tab.set {} s.hbm k { h with
        admitted := [], actcnt := h.actcnt + 1, cnt := Tab.set 0 h.cnt key 0, alerts := h.alerts + 1
        rfmcnt := h.rfmcnt + BitVec.ofNat 64 (neighbours row), banks := opens (some (t + 48 + 240)) } } : State).post q.region
        ev.rowalert (k + homeChn q.pa * 2 ^ 3 + homeBank q.pa * 2 ^ 9 + row * 2 ^ 13) (q.pa / 128 * 128)))) ∧
  (∀ (s : State) (k c b t e : Nat), s.now ≤ t → (Tab.get {} (s.hbmAt k).banks (c * 16 + b)).backoff = some e → e ≤ t →
    (s.hbmAt k).admitted = [] → ∀ x, x = { Tab.get {} (s.hbmAt k).banks (c * 16 + b) with backoff := none, openRow := none } →
    exec (.backoffEnd k c b t) s = .next { s with
      now := t
      hbm := Tab.set {} s.hbm k { s.hbmAt k with banks := Tab.set {} (s.hbmAt k).banks (c * 16 + b) x } }) ∧
  (∀ (s : State) (k c b row : Nat), exec (.periodicRefresh k c b row) s = .next { s with
    hbm := Tab.set {} s.hbm k { s.hbmAt k with cnt := Tab.set 0 (s.hbmAt k).cnt ((c * 16 + b) * 65536 + row) 0 } }) ∧
  (∀ (s : State) (k c b t : Nat), s.now ≤ t → (Tab.get {} (s.hbmAt k).banks (c * 16 + b)).lastUse + 100 ≤ t →
    ∀ x, x = { Tab.get {} (s.hbmAt k).banks (c * 16 + b) with openRow := none } →
    exec (.rowIdleClose k c b t) s = .next { s with
      now := t
      hbm := Tab.set {} s.hbm k { s.hbmAt k with banks := Tab.set {} (s.hbmAt k).banks (c * 16 + b) x } }) ∧
  ∀ (s : State) (pa : Nat),
    (pa < 0x80_0000_0000 → pa / 128 ∉ s.badLines →
      exec (.hbmLineUncorrectable pa) s = .next { s with badLines := s.badLines ++ [pa / 128] }) ∧
    (0x80_0000_0000 ≤ pa → exec (.hbmLineUncorrectable pa) s = .fault (.unmappedPhysical pa))

/-- Packets at their target and at the issuing hub (R431, R434, R435, R437): a request that passes its window's checks is
performed, counted and answered; one that fails is rejected, counted, and answered with its reason; GETDATA is written
to the walk; DONE ends a fragment that has its data; a NACK of the fragment's handle and a time-out stop the command
with DATA. The model's own choices in it: log 30, 78. -/
def Obligations.FabricPackets : Prop :=
  (∀ (s : State) (p : Packet), s.windowReason p = none →
    let region := Handle.region p.handle
    let va := Handle.base p.handle + p.roff
    exec (.putPacket p) s = .next ((s.hubWrite region va (p.data.take p.len)).counted p) ∧
    (∀ u b, s.hubRead region va (Pk.span p) = (u, some b) →
      exec (.getreq p) s = .next ((u.inject (Packet.answer p u.modid 2 0 b)).counted p)) ∧
    (∀ u, s.hubRead region va (Pk.span p) = (u, none) → exec (.getreq p) s = .next (u.inject (nackOf u.modid p 5))) ∧
    exec (.raddPacket p) s = .next ((s.hubAdd region va p.value).counted p)) ∧
  (∀ (s : State) (p : Packet) (r : Nat), s.windowReason p = some r →
    ∀ i ∈ [Instr.putPacket p, .getreq p, .raddPacket p], exec i s = .next ((s.modWindow (Handle.wslot p.handle) fun w =>
      { w with rejects := w.rejects + 1 }).inject (nackOf s.modid p r))) ∧
  (∀ (s u : State) (p : Packet) (g : Frag) (c : Nat) (m : Cmd), s.frags.find? (fun g => g.xid = p.xid) = some g →
    s.fragCmd g = some (c, m) → s.replyData c m g p.data = (u, none) →
    exec (.getdata p) s = .next ((u.modFrag p.xid fun g => { g with got := true }).settle p.xid)) ∧
  (∀ (s : State) (p : Packet) (g : Frag), s.frags = [g] → g.xid = p.xid → g.got = true → s.hasCmd g = false →
    exec (.done p) s = .next (match g.ack with
      | some f => { s with frags := [], posts := s.posts ++ [⟨g.core, g.uid, g.member, f⟩] }
      | none => { s with frags := [] })) ∧
  ∀ (s : State) (g : Frag) (c xid reason : Nat) (p : Packet), s.frags.find? (fun g => g.xid = xid) = some g →
    s.ctxs.find? (fun q => q.2.live && q.2.task.uid = g.uid && q.2.task.member = g.member) = some (c, s.ctx c) →
    (s.ctx c).busy = true →
    let t : State := { s with
      frags := s.frags.filter fun x => !x.same g
      ctxs := Tab.set {} s.ctxs c { s.ctx c with
        q0 := (s.ctx c).q0.filter (fun m => m.seq ≠ g.seq), q1 := (s.ctx c).q1.filter (fun m => m.seq ≠ g.seq)
        deferred := (s.ctx c).deferred ++ [(g.seq + 1, ⟨0x08, g.slot, 0, g.pc, BitVec.ofNat 64 g.roff,
          BitVec.ofNat 64 (g.eng + g.slot * 2 ^ 8 + reason * 2 ^ 12)⟩)] } }
    (p.xid = xid → p.handle = g.handle → p.value.toNat % 256 = reason → exec (.nack p) s = .next t) ∧
    (reason = 6 → exec (.fragmentTimeout xid) s = .next t)

/-- Port `k` once it has heard a flit, good with type `type` or bad: it is counted, and none of the 1088 since the last
RESYNC was one, unless this one is (R417). -/
def Sys2Proof.Claim.counted (s : State) (k : Nat) (resync : Bool) : State :=
  let u := s.modPort k fun p => { p with rx := { p.rx with sinceResync := p.rx.sinceResync + 1 } }
  if resync then u else u.resyncMissing k

/-- A good flit heard at port `k`: it is counted, and it returns slots of one virtual channel (R414, R417). -/
def Sys2Proof.Claim.heard (s : State) (k : Nat) (f : Flit) : State :=
  (Claim.counted s k (FlitF.type f = 6)).modPort k fun p => { p with tx := p.tx.creditBy f }

/-- Flits at a port that is UP once the lanes that fail with the flit are dropped (R411 to R417, R482, R483, Tables 14.4,
14.5): a bad flit is refused whatever its type; a good one of each type acts, and the port then sends what it may. A NAK that
comes again counts in RETRIES once. The model's own choices in it: log 79, 80, 119, 120. -/
def Obligations.LinkFlits : Prop :=
  (∀ (s : State) (k : Nat) (f : Flit), f.lost = 0 → s.lanesLost k f = s) ∧
  (∀ (s : State) (k e : Nat), let p := s.port k
    (s.countNak k e).port k = if p.tx.naked = some e then p
      else { p with retries := p.retries + 1, tx := { p.tx with naked := some e } }) ∧
  ∀ (s0 s : State) (k : Nat) (f : Flit), k < 48 → s = s0.lanesLost k f → (s.port k).st = .up →
    (FlitF.good f = false → ∀ i ∈ [Instr.idle k f, .pkt k f, .ack k f, .nak k f, .lmap k f, .lmreq k f, .resync k f],
      exec i s0 = .next ((Claim.counted s k false).badFlit k)) ∧
    (FlitF.good f = true →
    let h := Claim.heard s k f
    let p := h.port k
    let m : BitVec 8 := f.payload.setWidth 8
    let acts (i : Instr) (u : State) : Prop := exec i s0 = .next (u.pumpAll k)
    (FlitF.type f = 0 → acts (.idle k f) h) ∧
    (FlitF.type f = 1 → FlitF.vc f < 12 → FlitF.seq f = p.rx.expect → acts (.pkt k f) (h.accept k f)) ∧
    (FlitF.type f = 1 → FlitF.vc f < 12 → FlitF.seq f ≠ p.rx.expect → acts (.pkt k f)
      (if inWindow 1 511 ((p.rx.expect + 4096 - FlitF.seq f) % 4096) then h.sendAck k else h.badFlit k)) ∧
    (FlitF.type f = 2 → acts (.ack k f)
      (if p.tx.holds (FlitF.seq f) then h.freeTo k (FlitF.seq f) else h.resyncFail k)) ∧
    (FlitF.type f = 3 → let u := h.countNak k (FlitF.seq f)
      let told := if p.tx.mapSeq.isSome then u.sendLmap k ((p.tx.replay.head?.map (·.1)).getD p.tx.seq) else u
      (p.tx.holds (FlitF.seq f) = false → acts (.nak k f) (told.resyncFail k)) ∧
      ((∃ x l, p.tx.replay = x :: l ∧ x.1 = FlitF.seq f) → acts (.nak k f) (told.resend k))) ∧
    (FlitF.type f = 4 → acts (.lmap k f)
      (if m = p.rx.map then h else if lanesOf m < 4 then h.enterRetrain k
        else h.modPort k fun p => { p with rx := { p.rx with map := m, pend := none } })) ∧
    (FlitF.type f = 5 → acts (.lmreq k f)
      (if lanesOf m < 4 then h.enterRetrain k else if p.tx.mapSeq.isSome ∧ m = p.tx.map then h
        else (h.modPort k fun p => { p with tx := { p.tx with map := m } }).sendLmap k p.tx.seq)) ∧
    let w := f.payload.toNat
    let r := h.modPort k fun p => { p with
      rx := { p.rx with sinceResync := 0 }
      tx := { p.tx with
        returned := (List.range 12).foldl (fun t v => Tab.set 0 t v (eltN 16 (w / 2 ^ 32) v)) p.tx.returned } }
    FlitF.type f = 6 →
      (inWindow (r.port k).rx.expect 512 (w % 2 ^ 16 % 4096) = true →
        acts (.resync k f) (r.modPort k fun p => { p with rsRow := 0 })) ∧
      (inWindow (r.port k).rx.expect 512 (w % 2 ^ 16 % 4096) = false → acts (.resync k f) (r.resyncFail k)))

/-- A port's own events (R403, R404, R409, R412, R413, R416 to R419, R423 to R425, R427, R428); what F5 or F7 does in them
waits while that function is being replaced (R465). The model's own choices in it: log 78, 79, 80, 81, 120. -/
def Obligations.PortEvents : Prop :=
  ∀ (s : State) (k : Nat), let p := s.port k
    (∀ lane errors, p.st = .up → p.rx.pend = none → lane < 8 → p.rx.map.getLsbD lane = true →
      (errors = none ∨ ∃ n, errors = some n ∧ 2 ^ 24 < n * 2 ^ p.thrLog) →
      let m := p.rx.map &&& ~~~(BitVec.ofNat 8 (2 ^ lane))
      let u := (s.modPort k fun p => { p with drops := p.drops + 1 }).modNal 5 fun n => n.send (.lane k lane)
      (4 ≤ lanesOf m → exec (.laneFail k ⟨lane, errors⟩) s =
        .next ((u.modPort k fun p => { p with rx := { p.rx with pend := some m } }).sendLmreq k m)) ∧
      (lanesOf m < 4 → exec (.laneFail k ⟨lane, errors⟩) s = .next (u.enterRetrain k))) ∧
    (∀ lane n, n * 2 ^ p.thrLog ≤ 2 ^ 24 → exec (.laneFail k ⟨lane, some n⟩) s = .next s) ∧
    (p.st = .up → p.rx.accepted ≠ 0 → exec (.ackTimer k) s = .next (s.sendAck k)) ∧
    (p.st = .up → p.rx.waiting = true → exec (.nakResend k) s = .next (s.sendNak k)) ∧
    (p.st = .up → p.tx.replay ≠ [] →
      (p.tx.resends < 16 → exec (.replayTimeout k) s =
        .next ((s.modPort k fun p => { p with tx := { p.tx with resends := p.tx.resends + 1 } }).replayAll k)) ∧
      (16 ≤ p.tx.resends → exec (.replayTimeout k) s =
        .next ((s.modPort k fun p => { p with tx := { p.tx with resends := 0 } }).enterRetrain k))) ∧
    (p.st = .up → 1024 ≤ p.tx.sinceResync → ∃ t, exec (.resyncSend k) s = .next t ∧
      (t.port k).tx.sinceResync = 0 ∧ (t.port k).rx.told = p.rx.returns ∧
      ∃ f l, t.outbox = s.outbox ++ [.flit k f l] ∧ FlitF.type f = 6 ∧ f.payload = p.resyncBits) ∧
    (p.st = .up → 1088 ≤ p.rx.sinceResync →
      let u := (s.modPort k fun p => { p with rx := { p.rx with sinceResync := 0 } }).modPort k fun p =>
        { p with rsfail := p.rsfail + 1, rsRow := p.rsRow + 1 }
      (p.rsRow + 1 < 3 → exec (.resyncMissing k) s = .next u) ∧
      (3 ≤ p.rsRow + 1 → exec (.resyncMissing k) s =
        .next ((u.modPort k fun p => { p with rsRow := 0 }).enterRetrain k))) ∧
    (p.st = .up → p.tx.queue = [] → ∃ t, exec (.retrain k) s = .next t ∧ t.port k = { p with st := .retrain } ∧
      (∀ j, j ≠ k → t.port j = s.port j) ∧ t = { s with ports := t.ports }) ∧
    (s.fnAway 5 = true → ∀ (lanes : LanePair) (peer pp : Nat) (t : Training), exec (.retrainDone k lanes) s = .next s ∧
      exec (.linkTrained k peer pp t) s = .next s ∧ exec (.sparePortAssign k) s = .next s) ∧
    (∀ lanes : LanePair, p.st = .retrain → s.fnAway 5 = false → lanesOf lanes.tx < 4 ∨ lanesOf lanes.rx < 4 →
      (p.retrainRow + 1 < 3 →
        exec (.retrainDone k lanes) s = .next (s.modPort k fun p => { p with retrainRow := p.retrainRow + 1 })) ∧
      (3 ≤ p.retrainRow + 1 → exec (.retrainDone k lanes) s =
        .next (((s.modPort k fun p => { p with retrainRow := p.retrainRow + 1 }).modPort k fun p =>
          { p with retrainRow := 0 }).portDown k))) ∧
    (∀ lanes : LanePair, p.st = .retrain → s.fnAway 5 = false → 4 ≤ lanesOf lanes.tx → 4 ≤ lanesOf lanes.rx →
      exec (.retrainDone k lanes) s = .next ((((({ s with treeStale := true } : State).modPort k fun p => { p with
        st := .up, drops := 0, retrainRow := 0, rsRow := 0
        tx := { p.tx with map := lanes.tx, resends := 0 }, rx := { p.rx with map := lanes.rx, pend := none } }).sendLmap k
          ((p.tx.replay.head?.map (·.1)).getD p.tx.seq)).replayAll k).pumpAll k)) ∧
    (∀ peer pp (t : Training), k < 48 → p.st = .training ∨ p.st = .down → s.spareFor ≠ some k → peer < 16416 →
      s.fnAway 5 = false → (p.prot || t.policy) = false ∨ s.fnAway 7 = false →
      (lanesOf t.lanes < 4 → exec (.linkTrained k peer pp t) s = .next (s.modPort k fun p => { p with st := .training })) ∧
      (4 ≤ lanesOf t.lanes →
        let q : Port := { p with
          st := .up, peer := peer, peerport := pp, drops := 0, rsRow := 0, retrainRow := 0, tagRow := 0
          thrLog := if 10 ≤ t.thr ∧ t.thr ≤ 20 then t.thr else 14
          tx := { map := t.lanes, queue := p.tx.queue, keys := p.tx.keys }, rx := { map := t.lanes, keys := p.rx.keys } }
        exec (.linkTrained k peer pp t) s = .next (({ s with
          treeStale := true
          ports := Tab.set {} s.ports k (if p.prot || t.policy then q.protect (dirId s.modid k) else q) } : State).pumpAll k))) ∧
    (k < 47 → p.st = .down → s.fnAway 5 = false →
      (s.spareFor = none → exec (.sparePortAssign k) s = .next { s with
        ports := Tab.set {} s.ports 47 { s.port 47 with peer := p.peer, peerport := p.peerport }, spareFor := some k }) ∧
      ∀ j u, s.spareFor = some j → j ≠ k → u = s.portDown 47 → exec (.sparePortAssign k) s = .next { u with
        ports := Tab.set {} u.ports 47 { u.port 47 with peer := (u.port k).peer, peerport := (u.port k).peerport }
        spareFor := some k }) ∧
    (p.prot = true → s.fnAway 7 = false →
      (p.tx.rekeying = false → p.tx.keys.idleFree = true → exec (.rekey ⟨k, false⟩) s = .next (s.modPort k fun p =>
        { p with tx := { p.tx with keys := p.tx.keys.install (dirId s.modid k), rekeying := true } })) ∧
      (p.rx.keys.idleFree = true → exec (.rekey ⟨k, true⟩) s = .next (s.modPort k fun p =>
        { p with rx := { p.rx with keys := p.rx.keys.install (dirId p.peer p.peerport) } }))) ∧
    (∀ j q, p.tx.queue[j]? = some q → q.esc = false → exec (.escapeWaitTimeout k j) s = .next ((s.modPort k fun p =>
      { p with tx := { p.tx with queue := p.tx.queue.eraseIdx j } }).relay { q with esc := true, epoch := s.epoch })) ∧
    ∀ (links : List (Nat × Nat × Nat × Nat)) (e : Bool), s.epoch = !e → s.epochHere e = false → s.fnAway 5 = false →
      (∀ j, j < 48 → (s.port j).st = .up) →
      let u : State := { s with
        fabric := links.map fun l => ⟨l.1, l.2.1, l.2.2.1, l.2.2.2⟩, treeStale := false, epoch := e }
      let table := escapeTableOf (spanningTree u.knownLinks u.modid) u.modid
      exec (.escapeTreeInstall links e) s = .next (if e then { u with escape1 := table } else { u with escape0 := table })

/-! ## The host, trust and power -/

/-- What a served message leaves when its effects gave `t` (R441, R442, R446): the message is retired from the mailbox of
function `fn`, its reply `a` goes to the ring of its function, and waiting mailboxes are taken. -/
def Sys2Proof.Claim.replied (t : State) (fn : Nat) (q : Req) (a : Answer) : State :=
  ((t.modNal fn fun n => n.retire (.host q)).sendReply q.func (Req.reply q a)).takeMboxes

/-- Host messages that can be served have their effect and are answered OK (R21 to R26, R32, R34, R35, R348, R378, R420, R427,
R429, R443, R444, R448 to R450, R458, R462, R488); the messages of a function that is being replaced wait (R465). A region
created under region 0 gets its own address space, with no segment mapped.
The model's own choices in it: log 58, 59, 60, 61, 62, 63, 64, 65, 66, 71, 72. -/
def Obligations.HostMessages : Prop :=
  ∀ (s : State) (q : Req),
    (∀ p ∈ [(Instr.regionCreate q, 2), (.regionUpdate q, 2), (.regionDestroy q, 2), (.queueCreate q, 2), (.queueDestroy q, 2),
        (.asCreate q, 3), (.windowCreate q, 3), (.windowDestroy q, 3), (.mapDevice q, 3), (.setRowthr q, 3),
        (.linkProtect q, 5), (.vfBind q, 0), (.peerWindow q, 0), (.graft q, 7), (.setPowercap q, 6)],
      s.fnAway p.2 = true → exec p.1 s = .next s) ∧
    ((∀ fn, fn < 8 → s.fnAway fn = false) →
    (∀ parent p r, q.args = .regionCreate parent → q.func = 0 → s.within 0 parent = true → s.region parent = some p →
      p.level = 0 → (List.range 4096).find? (fun r => (s.region r).isNone) = some r →
      exec (.regionCreate q) s = .next (Claim.replied
        ((s.setRegion r { parent := parent, level := 1 }).giveSpace r []).setCos 2 q (.ok r))) ∧
    (∀ r t, s.region r = some t → let u := s.giveSpace r []
      u.asidOf r = s.freeAsid ∧ ∀ va, (u.seg s.freeAsid va).valid = false) ∧
    (∀ parent p r, q.args = .regionCreate parent → q.func = 0 → s.within 0 parent = true → s.region parent = some p →
      0 < p.level → p.level < 7 → (List.range 4096).find? (fun r => (s.region r).isNone) = some r →
      exec (.regionCreate q) s = .next (Claim.replied (s.setRegion r { parent := parent, level := p.level + 1 }).setCos 2 q
        (.ok r)) ∧ (q.op = 0x01 → ∀ a, ((Req.reply q a).extractLsb' 64 64).toNat = Config.rcbBase % 2 ^ 64)) ∧
    (∀ fs x y, q.args = .regionUpdate fs false → s.region q.region = some x →
      fs.foldlM (fun y f => Region.put y f) x = some y → (s.settleFab.setRegion q.region y).budgetsOk = true →
      exec (.regionUpdate q) s = .next (Claim.replied (((s.settleFab.setRegion q.region y).setCos.fitHoldings
        q.region).wakeQueues fun x => x.denied && decide (x.owner = q.region)) 2 q .ok)) ∧
    (∀ x, q.args = .regionDestroy → s.region q.region = some x → q.region ≠ 0 → s.subtree q.region = [q.region] →
      (∀ p ∈ s.funcs, p.2.region = q.region → s.funcInUse p.1 = false) →
      exec (.regionDestroy q) s = .next (Claim.replied (s.endRegion q.region).setCos.recount 2 q .ok)) ∧
    (∀ x va lg tm pu wk ct fu an k, q.args = .queueCreate va lg tm pu wk ct fu an → s.region q.region = some x →
      va % 64 = 0 → va < 2 ^ 57 → 4 ≤ lg → lg ≤ 15 → fu < 128 →
      (List.range 4096).find? (fun k => !(s.queue k).live && (s.queue k).st ≠ .held) = some k →
      ∀ y : Queue, y = ⟨q.region, va, lg, tm, pu, wk, ct, fu, an, (s.queue k).gen, true, .empty, 0, 0, [], false, false⟩ →
      exec (.queueCreate q) s = .next (Claim.replied { s with queues := Tab.set {} s.queues k y } 2 q
        (.ok (y.cap k).toNat))) ∧
    (∀ k, q.args = .queueDestroy k → Tab.wf {} s.queues = true → (∀ p ∈ (s.nal 2).mail, p.1 = .host q → p.2 = false) →
      (s.queue k).live = true → (s.queue k).owner = q.region → (s.queue k).st ≠ .held → (∀ l ∈ s.leases, l.record ≠ some k) →
      ∃ t, exec (.queueDestroy q) s = .next (Claim.replied t 2 q .ok) ∧ t.queue k = { gen := (s.queue k).gen + 1 } ∧
        (∀ j, j ≠ k → t.queue j = s.queue j) ∧ t.wakes = s.wakes.filter (fun w => w ≠ k) ∧ t.ctxs = s.ctxs) ∧
    (∀ x raf a, q.args = .asCreate raf → s.region q.region = some x → raf.length ≤ 16 → raf.all rafEntryOk = true →
      x.asid = some a →
      (∀ k, k < 16 → Seg.kept (raf.getD k 0) ≠ s.rafEntry a (k * 2 ^ 53) → s.segmentPinned a k = false) →
      exec (.asCreate q) s = .next (Claim.replied { s.performInvl a true 0 0 with
        spaces := Tab.set none s.spaces a (some ⟨q.region, (List.range 16).map fun k => Seg.kept (raf.getD k 0)⟩) } 3 q .ok)) ∧
    (∀ x va n wr rd ad k u id, q.args = .windowCreate va n wr rd ad → s.region q.region = some x → 0 < n → n < 2 ^ 40 →
      (List.range 4096).find? (fun k => !(s.window k).valid) = some k →
      s.pinWaits q.region va n = false → s.rangeLease q.region va n ⟨rd || ad, wr || ad, false⟩ = (u, none, id) →
      ∃ w : Window, w.valid = true ∧ w.gen = (u.window k).gen ∧ w.region = q.region ∧ w.base = va ∧ w.bound = n ∧
        exec (.windowCreate q) s = .next (Claim.replied { u with windows := Tab.set {} u.windows k w } 3 q
          (.ok (Handle.make va n wr rd ad q.region k w.gen u.modid).toNat))) ∧
    (∀ k, q.args = .windowDestroy k → k < 4096 → (s.window k).valid = true → (s.window k).region = q.region →
      exec (.windowDestroy q) s = .next (Claim.replied (((s.modWindow k fun w =>
        { w with valid := false, gen := w.gen + 1 }).dropLease (s.window k).lease).recount) 3 q .ok)) ∧
    (∀ x va pa n t, q.args = .mapDevice va pa n → s.region q.region = some x → 0 < n →
      s.mappable q.region pa n = true → va < 2 ^ 57 → let g := s.seg (s.asidOf q.region) va
      let pages := (n + 2 ^ g.plog - 1) / 2 ^ g.plog
      g.mtype = 1 → g.mapped va = true → va % 2 ^ g.plog = 0 → pa % 2 ^ g.plog = 0 →
      va / 2 ^ 53 = (va + pages * 2 ^ g.plog - 1) / 2 ^ 53 →
      s.mapDevicePages (s.asidOf q.region) g.plog va pa pages = some t →
      exec (.mapDevice q) s = .next (Claim.replied t 3 q .ok)) ∧
    (∀ x n, q.args = .setRowthr n → s.region q.region = some x → 32 ≤ n → n < 2048 → s.rowthr.length < 16 →
      exec (.setRowthr q) s = .next (Claim.replied { s with
        rowthr := s.rowthr.filter (fun p => p.1 ≠ q.region) ++ [(q.region, n)] } 3 q .ok)) ∧
    (∀ k, q.args = .linkProtect k → (s.port k).st = .up → (s.port k).prot = false →
      ∃ t, exec (.linkProtect q) s = .next (Claim.replied t 5 q .ok) ∧ (t.port k).prot = true ∧
        (∀ j, j ≠ k → t.port j = s.port j) ∧ t.ctxs = s.ctxs) ∧
    (∀ x f es u ids, q.args = .vfBind f true es → q.func = 0 → 0 < f → f < 128 → s.region q.region = some x → x.level = 1 →
      (s.func f).bound = false → es.length ≤ 16 →
      (∀ e ∈ es, e.2.1 ≠ 0 → s.pinWaits q.region e.1 (e.2.1 * 4096) = false) → s.entryLeases q.region es = (u, none, ids) →
      (∀ p ∈ u.pins, p.2 ≤ 65535) → exec (.vfBind q) s = .next (Claim.replied (u.modFunc f fun x =>
        { x with bound := true, region := q.region, bar2 := es, bar2Leases := ids }) 0 q .ok)) ∧
    (∀ x k bus n, q.args = .peerWindow k bus (2 ^ n) → q.func = 0 → s.region q.region = some x → k < 64 → 12 ≤ n → n ≤ 32 →
      exec (.peerWindow q) s = .next (Claim.replied { s with
        peers := Tab.set none s.peers k (some ⟨q.region, bus, 2 ^ n⟩) } 0 q .ok)) ∧
    (∀ fn a b, q.args = .graft fn a b → q.func = 0 → fn < 8 → a + b ≤ 0x80_0000_0000 →
      (∀ k, k < 8 → (s.nal k).graft = .stock ∧ (s.nal k).graftReq = none) →
      exec (.graft q) s = .next ((s.modNal fn fun n => { n with graftReq := some q }).modNal 7 fun n =>
        { n with mail := n.mail.map fun p => if p.1 = .host q then (.host q, true) else p })) ∧
    (∀ w, q.args = .setPowercap w → q.func = 0 → 1500 ≤ w → w ≤ 3400 →
      exec (.setPowercap q) s = .next (Claim.replied { s with power := { s.power with cap := w } } 6 q .ok)))

/-- The host link (R8, R10, R445 to R449, R453, R456), for a function that answers and for one that does not. A message in
one 64-byte TLP with MBFULL = 0 is answered DENIED or BADMSG, or posted to the function that serves it, or stays in MBOX;
any other is dropped. A reply goes to its slot of the ring in host memory. REPLYHEAD is written. A counter is read, and
clears. REPLYBASE, REPLYLOG and REPLYVEC, a vector's address, data and mask, BAR2's size, a controller's ROWSEL and what
only Nalvel writes are written, and a write of another register is ignored, while an address that the map does not have
stops the machine. A wake is staged, and unsealed sets its queue's pending bit or counts in WAKEREJ, and a context's four
stores make one. A push fills a record, waits, or counts in QAREJ. An access of BAR2 reads or writes the bytes at their
home, or is an Unsupported Request. A peer read without an answer reads as ones and fails.
The model's own choices in it: log 54, 60, 66, 67, 68, 69, 70, 98, 116, 117, 118. -/
def Obligations.HostAccesses : Prop :=
  (∀ (s : State) (f : Nat) (m : HostMessage) (whole : Bool),
    let x := s.func f
    let q := Req.ofMessage f m.message m.args
    let mine := s.within (if f = 0 then 0 else x.region) q.region
    (s.answers f = false ∨ whole = false ∨ x.mbox ≠ none → exec (.mboxWrite f m whole) s = .next s) ∧
    (s.answers f = true → x.mbox = none → Tab.wf {} s.funcs = true →
      let stays : State := { s with funcs := Tab.set {} s.funcs f { x with mbox := some q } }
      (x.heldReplies ≠ [] ∨ s.fnAway 0 = true → exec (.mboxWrite f m true) s = .next stays) ∧
      (s.fnAway 0 = false → x.heldReplies = [] → mine = false → exec (.mboxWrite f m true) s = .next (s.sendReply f (Req.reply q .denied))) ∧
      (s.fnAway 0 = false → x.heldReplies = [] → mine = true → servingOf q.op = none →
        exec (.mboxWrite f m true) s = .next (s.sendReply f (Req.reply q .badMsg))) ∧
      ∀ fn, s.fnAway 0 = false → x.heldReplies = [] → mine = true → servingOf q.op = some fn →
        ((s.nal fn).mail.length < 32 → exec (.mboxWrite f m true) s = .next (s.modNal fn fun n => n.send (.host q))) ∧
        (32 ≤ (s.nal fn).mail.length → exec (.mboxWrite f m true) s = .next stays))) ∧
  (∀ (s : State) (f : Nat) (m : BitVec 512), let x := s.func f
    let a := x.replybase.toNat + 64 * (x.replytail.toNat % 2 ^ x.replylog.toNat)
    (x.heldReplies ≠ [] ∨ x.ringFull = true ∨ s.fnAway 0 = true →
      s.sendReply f m = { s with funcs := Tab.set {} s.funcs f { x with heldReplies := x.heldReplies ++ [m] } }) ∧
    (x.heldReplies = [] → x.ringFull = false → s.fnAway 0 = false → a + 64 ≤ 2 ^ 50 →
      let t := s.sendReply f m
      (∀ i, i < 64 → t.homeByte (hostPa a + i) = BitVec.ofNat 8 (m.toNat / 2 ^ (8 * i))) ∧
      Out.reply f a m ∈ t.outbox ∧ t.mem = s.mem ∧ t.ctxs = s.ctxs)) ∧
  (∀ (s : State) (f v : Nat), let x := s.func f
    let u : State := { s with funcs := Tab.set {} s.funcs f { x with replyhead := BitVec.ofNat 32 v } }
    (s.answers f = false → exec (.replyheadWrite f v) s = .next s) ∧
    (s.answers f = true → x.heldReplies = [] → x.mbox = none → Tab.wf {} s.funcs = true →
      exec (.replyheadWrite f v) s = .next u) ∧
    (s.answers f = true → exec (.replyheadWrite f v) s = .next ((u.sendHeld f x.heldReplies.length).takeMbox f))) ∧
  (∀ (s : State) (f : Nat), let x := s.func f
    let reads (v : BitVec 32) (y : Func) : State := { s with
      outbox := s.outbox ++ [.regData f v], funcs := Tab.set {} s.funcs f y }
    let ones : State := { s with outbox := s.outbox ++ [.regData f (BitVec.allOnes 32)] }
    (s.answers f = true → exec (.wakerejRead f) s = .next (reads x.wakerej { x with wakerej := 0 }) ∧
      exec (.qarejRead f) s = .next (reads x.qarej { x with qarej := 0 })) ∧
    (s.answers f = false → exec (.wakerejRead f) s = .next ones ∧ exec (.qarejRead f) s = .next ones)) ∧
  (∀ (s : State) (f off : Nat) (v : Word), let x := s.func f
    let sets (y : Func) : State := { s with funcs := Tab.set {} s.funcs f y }
    (f < 128 → s.answers f = false → exec (.registerWrite (f + 1) off v) s = .next s) ∧
    (s.answers f = true →
      (off = 24 → exec (.registerWrite (f + 1) off v) s = .next (sets { x with replybase := v &&& ~~~0x3F })) ∧
      (off = 32 → exec (.registerWrite (f + 1) off v) s =
        .next (sets { x with replylog := v.extractLsb' 0 4, replyvec := v.extractLsb' 4 11 })) ∧
      (∀ n, n < 2048 → let e := Tab.get 0 x.msi n
        (off = 0x1_0000 + 16 * n → exec (.registerWrite (f + 1) off v) s =
          .next (sets { x with msi := Tab.set 0 x.msi n (e.extractLsb' 64 32 ++ v) })) ∧
        (off = 0x1_0000 + 16 * n + 8 → Tab.wf {} s.funcs = true → Tab.wf 0 x.msi = true →
          let e' : BitVec 96 := v.extractLsb' 0 32 ++ e.extractLsb' 0 64
          let y : Func := { x with msi := Tab.set 0 x.msi n e' }
          let free : Func := { y with
            unmasked := if n ∈ y.unmasked then y.unmasked else y.unmasked ++ [n]
            pendingVec := y.pendingVec.filter (fun w => w ≠ n) }
          (v.getLsbD 32 = true → exec (.registerWrite (f + 1) off v) s =
            .next (sets { y with unmasked := y.unmasked.filter (fun w => w ≠ n) })) ∧
          (v.getLsbD 32 = false → n ∉ x.pendingVec → exec (.registerWrite (f + 1) off v) s = .next (sets free)) ∧
          (v.getLsbD 32 = false → n ∈ x.pendingVec → exec (.registerWrite (f + 1) off v) s =
            .next { sets free with outbox := s.outbox ++ [.msix f n e'] }))) ∧
      (off ≠ 24 → off ≠ 32 → ¬ (0x1_0000 ≤ off ∧ off < 0x1_8000 ∧ off % 8 = 0) →
        exec (.registerWrite (f + 1) off v) s = .next s)) ∧
    (f < 128 → let code := (v.extractLsb' 0 6).toNat
      (s.linkUp = true → 10 ≤ code → code ≤ 19 →
        exec (.registerWrite (f + 129) off v) s = .next (sets { x with bar2log := 20 + code })) ∧
      (s.linkUp = false ∨ code < 10 ∨ 19 < code → exec (.registerWrite (f + 129) off v) s = .next s))) ∧
  (∀ (s : State) (k off : Nat) (v : Word),
    (k < 4 → s.fnAway 2 = false → exec (.registerWrite (257 + k) off v) s = .next (s.modDie k fun d => { d with
      wreq := v.toNat % 16, wwb := v.toNat / 16 % 16, word := v.toNat / 256 % 16, wput := v.toNat / 4096 % 16 })) ∧
    (k = 4 → s.fnAway 7 = false → exec (.registerWrite (257 + k) off v) s = .next { s with
      meas := s.meas.set 11 (s.meas.getD 11 [] ++ [.digest (Config.policyDigest v.toNat)]) }) ∧
    (4 < k ∨ k < 4 ∧ s.fnAway 2 = true ∨ k = 4 ∧ s.fnAway 7 = true →
      exec (.registerWrite (257 + k) off v) s = .next s)) ∧
  (∀ (s : State) (off : Nat) (v : Word),
    (∀ k, k < 8 → off = 0x1000 * k + 24 → exec (.registerWrite 0 off v) s = .next { s with
      hbm := Tab.set {} s.hbm k { s.hbmAt k with
        selchn := v.extractLsb' 0 6, selbank := v.extractLsb' 6 4, selrow := v.extractLsb' 10 16 } }) ∧
    (off < 0x8000 → off % 0x1000 < 24 ∨ 32 ≤ off % 0x1000 → exec (.registerWrite 0 off v) s = .next s) ∧
    (0x8000 ≤ off → paKind (0x8_0000_0000_0000 + off) = .device → exec (.registerWrite 0 off v) s = .next s) ∧
    (paKind (0x8_0000_0000_0000 + off) ≠ .device →
      exec (.registerWrite 0 off v) s = .fault (.unmappedPhysical (0x8_0000_0000_0000 + off)))) ∧
  (∀ (s : State) (f : Nat) (cap : BitVec 256), let n := Cap.qnum cap
    let x := s.queue n
    let may : Prop := s.capLive cap = true ∧ x.wake = true ∧ (x.func = f ∨ x.anyf = true)
    let away : Prop := s.power.lost = true ∨ s.power.stuck ≠ none ∨ s.isBound f = false
    (away → exec (.wakeWrite f cap) s = .next s) ∧
    (¬ away → s.staged.length < 16 → exec (.wakeWrite f cap) s = .next { s with staged := s.staged ++ [(some f, cap)] }) ∧
    (¬ away → 16 ≤ s.staged.length →
      exec (.wakeWrite f cap) s = .next { s with withheld := s.withheld ++ [(some f, cap)] }) ∧
    (s.staged = [(some f, cap)] → let u : State := { s with staged := s.withheld.take 16, withheld := s.withheld.drop 16 }
      (may → s.unsealWakes = { u with wakes := if s.wakes.contains n then s.wakes else s.wakes ++ [n] }) ∧
      (¬ may → s.unsealWakes =
        { u with funcs := Tab.set {} s.funcs f { s.func f with wakerej := (s.func f).wakerej + 1 } }))) ∧
  (∀ (s : State) (c off slot n : Nat) (v : Word), let x := s.ctx c
    let holds (g : Option WakeGroup) : State := { s with ctxs := Tab.set {} s.ctxs c { x with wake := g } }
    (n ≠ 8 ∨ off % 8 ≠ 0 → exec (.deviceWakeStore c off n v) s = .next (holds none)) ∧
    exec (.deviceWakeStore c (32 * slot) 8 v) s = .next (holds (some ⟨slot, 1, v.setWidth 256⟩)) ∧
    ∀ k, 1 ≤ k → k < 4 →
      (∀ b, x.wake = some ⟨slot, k, b⟩ → let w := b ||| (v.setWidth 256 <<< (64 * k))
        (k < 3 → exec (.deviceWakeStore c (32 * slot + 8 * k) 8 v) s = .next (holds (some ⟨slot, k + 1, w⟩))) ∧
        (k = 3 → exec (.deviceWakeStore c (32 * slot + 8 * k) 8 v) s = .next ((holds none).stageWake none w))) ∧
      (x.wake = none → exec (.deviceWakeStore c (32 * slot + 8 * k) 8 v) s = .next (holds none))) ∧
  (∀ (s : State) (f n : Nat) (data : BitVec 1024),
    let cap := data.extractLsb' 0 256
    let r := data.extractLsb' 256 512
    let rejected : State := { s with funcs := Tab.set {} s.funcs f { s.func f with qarej := (s.func f).qarej + 1 } }
    (s.answers f = false → exec (.queueApertureWrite f n data) s = .next s) ∧
    (s.answers f = true → n ≠ 128 ∨ data.extractLsb' 768 256 ≠ 0 ∨ s.capLive cap = false →
      exec (.queueApertureWrite f n data) s = .next rejected) ∧
    (s.answers f = true → n = 128 → data.extractLsb' 768 256 = 0 → s.capLive cap = true →
      (∀ t, s.hubPush (s.funcRegion f) cap r none = some t → exec (.queueApertureWrite f n data) s = .next t) ∧
      (s.hubPush (s.funcRegion f) cap r none = none → let t := s.pushMissing cap none
        exec (.queueApertureWrite f n data) s = .next { t with aperture := t.aperture ++ [(f, cap, r)] }))) ∧
  (∀ (s : State) (f off pa : Nat) (b : Byte), Memory.wf s.mem → off < 2 ^ (s.func f).bar2log → pa < 0x80_0000_0000 →
    let reads (t : State) (b : Byte) : Prop := exec (.bar2Access f false off [] 1) s = .next t ∧ s.SameBytes t ∧
      t.ctxs = s.ctxs ∧ t.outbox = s.outbox ++ [.bar2Data f [b]]
    let writes (t : State) : Prop := exec (.bar2Access f true off [b] 0) s = .next t ∧ t.homeByte pa = b ∧
      (∀ a, a ≠ pa → t.homeByte a = s.homeByte a) ∧ t.ctxs = s.ctxs ∧ t.outbox = s.outbox
    let finds (write : Bool) : Prop := if f = 0 then pa = off ∧ inTables pa = false
      else ∃ e, (s.func f).bar2[off / 2 ^ 32]? = some e ∧ off % 2 ^ 32 < e.2.1 * 4096 ∧
        (if write then e.2.2.2 else e.2.2.1) = true ∧
        s.vaPa (s.asidOf (s.func f).region) (e.1 + off % 2 ^ 32) = some pa
    (s.answers f = true → finds false → pa / 128 ∉ s.badLines → ∃ t, reads t (s.homeByte pa)) ∧
    (s.answers f = true → finds true → s.holdsUnder pa = false → ∃ t, writes t) ∧
    (s.answers f = false → exec (.bar2Access f true off [b] 0) s = .next s ∧
      exec (.bar2Access f false off [] 1) s = .next { s with outbox := s.outbox ++ [.bar2Data f [0xFF]] })) ∧
  (∀ (s : State) (f off n : Nat) (write : Bool) (l : List Byte), s.answers f = true →
    2 ^ (s.func f).bar2log < off + (if write then l.length else n) ∨
      (f ≠ 0 ∧ ((s.func f).bar2[off / 2 ^ 32]? = none ∨ ∃ e, (s.func f).bar2[off / 2 ^ 32]? = some e ∧
        (e.2.1 * 4096 < off % 2 ^ 32 + (if write then l.length else n) ∨ (if write then e.2.2.2 else e.2.2.1) = false))) →
    exec (.bar2Access f write off l n) s = .next { s with outbox := s.outbox ++ [.bar2Fail f] }) ∧
  ∀ (s : State) (c k pa n : Nat) (w : Nat × Nat) (o : Outst) (v : Word), (s.ctx c).loads[k]? = some o → o.ext = true →
    o.bad = none → s.vaPa (s.asidAt c) o.va.toNat = some pa → s.peerAt pa = some w → o.wr = .s n v →
    exec (.peerReadTimeout c k) s = .next { s with ctxs := Tab.set {} s.ctxs c { s.ctx c with
      loads := (s.ctx c).loads.set k { o with bad := some ⟨0x08, 1, 0, o.pc, o.va, 0⟩ }
      a := { (s.ctx c).a with s := Tab.set 0 (s.ctx c).a.s n (BitVec.ofNat 64 (2 ^ (8 * o.size) - 1)) } } }

/-- Live replacement and attestation (R460 to R464). F7's verdict on a graft's image loads it, or answers REFUSED, as it does
for an image of another digest than the signed one; the stock writes its record into its area and halts; the graft, at the
hub's turn, is measured and refuses a record that it does not accept; its trial is watched, and ends in COMMITTED or
REVERTED, after which the stock goes on. A request that reaches F7 is answered when the earlier ones have been, and with ResponseNotReady while F7 is replaced.
The model's own choices in it: log 9, 72, 73, 74, 117, 121. -/
def Obligations.ReplacementAndAttestation : Prop :=
  (∀ (s : State) (fn v : Nat) (d : BitVec 256) (ok : Bool) (q : Req), (s.nal fn).graftReq = some q → s.fnAway 7 = false → Tab.wf {} s.nalvel = true →
    let u := s.modNal fn fun n => { n with graftReq := none }
    (ok = true ∧ d = s.imageAt q → exec (.graftVerified fn ok v d) s = .next (Claim.replied (u.modNal fn fun n =>
      { n with graft := .loaded, graftVersion := v, graftDigest := d }) 7 q .ok)) ∧
    (ok = false ∨ d ≠ s.imageAt q → exec (.graftVerified fn ok v d) s = .next (Claim.replied u 7 q .refused))) ∧
  (∀ (s : State) (fn schema : Nat) (body : List Byte), (s.nal fn).graft = .loaded → body.length ≤ 65472 →
    ∃ t, exec (.handover fn schema body.length body) s = .next t ∧ (t.nal fn).graft = .handover ∧
      (t.nal fn).seq = (s.nal fn).seq + 1 ∧ t.ctxs = s.ctxs ∧ t.meas = s.meas ∧
      (Memory.wf s.mem → s.under = [] → t.homeRead (areaOf fn) (64 + body.length) =
        handoffRecord schema fn ((s.nal fn).seq + 1) (s.stockOf fn).1 body)) ∧
  (∀ (s : State) (fn : Nat), let n := s.nal fn
    let t := s.replacement fn
    (n.graft = .handover →
      let u := (((s.modNal fn fun n => { n with graft := .trial, trialStart := s.now, beat := 0 }).extend (1 + fn)
        (.digest n.graftDigest)).extend 15 (.log fn 0 n.graftVersion)).postAll s.liveRegions 0x40 (fn + (1 + fn) * 16)
        n.graftVersion
      let head := u.homeRead (areaOf fn) 64
      let body := u.homeRead (areaOf fn + 64) (Nat.min 65472 (ofBytes ((head.drop 4).take 4)))
      (acceptsRecord (Config.graftSchema n.graftDigest) head body = true →
        (t.nal fn).graft = .trial ∧ (t.nal fn).trialStart = s.now ∧ (t.nal fn).beat = 0 ∧ t.meas = u.meas) ∧
      (acceptsRecord (Config.graftSchema n.graftDigest) head body = false → (t.nal fn).graft = .reverted)) ∧
    (n.graft = .committed ∨ n.graft = .reverted → t = s.modNal fn fun n => { n with graft := .stock }) ∧
    (n.graft = .stock ∨ n.graft = .loaded → t = s)) ∧
  (∀ (s : State) (fn : Nat), (s.nal fn).graft = .trial →
    (∃ t, exec (.commitRegisterWrite fn) s = .next t ∧ (t.nal fn).graft = .committed ∧
      (t.nal fn).stock = some ((s.nal fn).graftVersion, (s.nal fn).graftDigest) ∧ t.ctxs = s.ctxs ∧
      (s.meas.length = 16 → t.meas[15]? = some (s.meas.getD 15 [] ++ [.log fn 0 (s.nal fn).graftVersion]))) ∧
    (∃ t, exec (.refuse fn) s = .next t ∧ (t.nal fn).graft = .reverted ∧
      (t.nal fn).stock = (s.nal fn).stock ∧ t.ctxs = s.ctxs) ∧
    exec (.trialExpiry fn) s = .next { s with now := Nat.max s.now ((s.nal fn).trialStart + 500000000) } ∧
    (∀ t, s.now ≤ t → exec (.heartbeat fn t) s = .next { s with
      now := t, nalvel := Tab.set {} s.nalvel fn { s.nal fn with beat := (t - (s.nal fn).trialStart) / 1000000 + 1 } }) ∧
    ∀ t, s.now ≤ t → let u : State := { s with now := t }
      let ms := (t - (s.nal fn).trialStart) / 1000000
      let silent : Prop := (s.nal fn).beat + 3 ≤ ms ∧ (s.nal fn).beat + 3 ≤ 500
      (silent → exec (.heartbeatMissed fn t) s = .next (u.revert fn 2)) ∧
      (¬ silent → 500 ≤ ms → exec (.heartbeatMissed fn t) s = .next (u.revert fn 1)) ∧
      (¬ silent → ms < 500 → exec (.heartbeatMissed fn t) s = .next u)) ∧
  ∀ (s : State) (f : Nat),
    let x := s.spdmOf f
    let sends (y : Spdm) (code : Nat) (w : List (BitVec 256)) : State :=
      { s with spdm := Tab.set {} s.spdm f y, outbox := s.outbox ++ [.doe f code w] }
    let tells (code : Nat) (w : List (BitVec 256)) : State := { s with outbox := s.outbox ++ [.doe f code w] }
    (s.spdmReaches f = false → exec (.getVersion f) s = .next s) ∧
    (s.spdmReaches f = true → s.f7Away = true → exec (.getVersion f) s = .next (tells 0x7F [0x42])) ∧
    (s.spdmReaches f = true → s.f7Away = false →
      exec (.getVersion f) s = .next (sends { versionDone := true, keyGen := x.keyGen } 0x04 [0x1300]) ∧
      (x.versionDone = true → exec (.getCapabilities f) s =
        .next (sends { x with capsDone := true } 0x61 [Config.attest 1 []])) ∧
      (x.capsDone = true → exec (.negotiateAlgorithms f) s = .next { s with
        spdm := Tab.set {} s.spdm f { x with algsDone := true }
        outbox := s.outbox ++ [.doeAlgorithms f [.mlDsa65, .sha3256, .ecdheP384, .aes256Gcm]] }) ∧
      (x.algsDone = true → exec (.getDigests f) s = .next (tells 0x01 [Config.attest 3 []]) ∧
        exec (.getCertificate f 0) s = .next (tells 0x02 [Config.attest 4 []]) ∧
        (∀ nonce, exec (.challenge f 0 nonce) s = .next (tells 0x03 [nonce,
          Config.attest 5 (nonce.toNat :: (s.measBlocks f).map (·.toNat))])) ∧
        (∀ k, k < 16 → exec (.getMeasurements f k) s = .next (tells 0x60 [s.measOf k])) ∧
        (f ≠ 0 → s.isBound f = true → exec (.getMeasurements f 16) s = .next (tells 0x60 [s.rcbDigest (s.func f).region])) ∧
        exec (.getMeasurements f 0xFF) s = .next (tells 0x60 (s.measBlocks f)) ∧
        ∃ w, exec (.keyExchange f) s = .next (sends { x with session := true, established := false, keyGen := x.keyGen + 1 }
          0x64 [w])) ∧
      (x.session = true → ∃ w, exec (.finish f true) s = .next (sends { x with established := true } 0x65 [w])) ∧
      (x.established = true → exec (.keyUpdate f) s = .next (sends { x with keyGen := x.keyGen + 1 } 0x69 []) ∧
        exec (.endSession f) s = .next (sends { x with session := false, established := false } 0x6C [])))

/-- Power, reset and sensors (R487 to R494): a comparison that reaches a trip limit trips; else one over a limit takes the
next throttling action, and one with every quantity 5 % below its limit for 10 ms leaves the stage in force; a trip, a loss
of input power and module reset, whose bring-up needs the input range and may stop in a step, leave what they leave; the
self-test maps a spare that passes or marks the position dead; readings enter the sensor block, whose fields PLDM gives.
The model's own choices in it: log 75, 76, 77, 102. -/
def Obligations.PowerAndReset : Prop :=
  (∀ (s : State) (r : Reading) (t : Nat), s.now ≤ t →
    let at0 : State := { s with now := t, power := { s.power with calmSince := none } }
    let stage (n : Nat) : State := at0.setStage n
    let d := Reading.hottest r
    (Reading.trips r = true → exec (.powerComparison r t) s = .next ({ s with now := t } : State).trip) ∧
    (Reading.trips r = false → s.fnAway 6 = true → exec (.powerComparison r t) s = .next { s with now := t }) ∧
    (Reading.trips r = false → s.fnAway 6 = false → overLimit (Reading.limits r s.power.cap) = true →
      (s.power.stage = 0 → exec (.powerComparison r t) s = .next ((stage 1).throttleEvent 1 true)) ∧
      (s.power.stage = 1 → exec (.powerComparison r t) s =
        .next (((stage 2).setMhz d ((s.die d).mhz - 50)).throttleEvent 2 true)) ∧
      (s.power.stage = 2 → 700 < (s.die d).mhz →
        exec (.powerComparison r t) s = .next (at0.setMhz d ((s.die d).mhz - 50))) ∧
      (s.power.stage = 2 → (s.die d).mhz ≤ 700 → exec (.powerComparison r t) s =
        .next ((((((stage 3).setMhz 0 700).setMhz 1 700).setMhz 2 700).setMhz 3 700).throttleEvent 3 true)) ∧
      (s.power.stage = 3 → exec (.powerComparison r t) s =
        .next (({ stage 4 with power := { (stage 4).power with l2mhz := 1000 } } : State).throttleEvent 4 true))) ∧
    (Reading.trips r = false → s.fnAway 6 = false → overLimit (Reading.limits r s.power.cap) = false →
      calmLimits (Reading.limits r s.power.cap) = false →
      exec (.powerComparison r t) s = .next at0) ∧
    (Reading.trips r = false → s.fnAway 6 = false → overLimit (Reading.limits r s.power.cap) = false →
      calmLimits (Reading.limits r s.power.cap) = true →
      (s.power.calmSince = none → exec (.powerComparison r t) s =
        .next { s with now := t, power := { s.power with calmSince := some t } }) ∧
      ∀ t0, s.power.calmSince = some t0 →
        (t < t0 + 10000000 → exec (.powerComparison r t) s = .next { s with now := t }) ∧
        let left (u : State) (n : Nat) : State :=
          ({ u with power := { u.power with calmSince := some t } } : State).throttleEvent n false
        (t0 + 10000000 ≤ t → s.power.stage = 4 → exec (.powerComparison r t) s =
          .next (left (({ s with now := t, power := { s.power with l2mhz := 1400 } } : State).setStage 3) 4)) ∧
        (t0 + 10000000 ≤ t → s.power.stage = 3 → exec (.powerComparison r t) s =
          .next (left (({ s with now := t } : State).setStage 2) 3)) ∧
        (t0 + 10000000 ≤ t → s.power.stage = 1 → exec (.powerComparison r t) s =
          .next (left (({ s with now := t } : State).setStage 0) 1)))) ∧
  (∀ (s : State) (n : Nat), (s.setStage n).power = { s.power with stage := n } ∧ (s.setStage n).ctxs = s.ctxs ∧
    (s.setStage n).mem = s.mem) ∧
  (∀ s : State, ∃ t, exec .thermalTrip s = .next t ∧ t.power = { s.power with tripped := true } ∧ t.meas = s.meas ∧
    t.wakes = s.wakes ∧ t.staged = s.staged ∧ t.hostMem = s.hostMem ∧ t.ctxs = [] ∧ t.mem = [] ∧ t.regions = [] ∧
    t.outbox = s.outbox ++ [.alert]) ∧
  (∀ s : State, ∃ t, exec .inputPowerLoss s = .next t ∧ t.power.lost = true ∧ t.meas = List.replicate 16 [] ∧
    t.wakes = [] ∧ t.hostMem = s.hostMem ∧ t.ctxs = [] ∧ t.mem = []) ∧
  (∀ s : State, ∃ t, exec .moduleReset s = .next t ∧ t.mem = State.reset.mem ∧ t.ctxs = State.reset.ctxs ∧
    t.hbm = State.reset.hbm ∧ t.hostMem = s.hostMem ∧ let v := Config.inputVoltage s.free
    (v < 4800 ∨ 6000 < v → t.meas = List.replicate 16 [] ∧ t.power.stuck = some 0 ∧ t.outbox = s.outbox ∧ t.regions = []) ∧
    (4800 ≤ v → v ≤ 6000 → Config.bringupFails s.free = none → t.meas = State.reset.meas ∧ t.power = State.reset.power ∧
      t.modid = Config.moduleId.val ∧ t.outbox = s.outbox ∧ ∀ r, (t.region r).isSome = true ↔ r = 0) ∧
    ∀ k, 4800 ≤ v → v ≤ 6000 → Config.bringupFails s.free = some k → t.meas = [.image 0] :: List.replicate 15 [] ∧
      t.power.stuck = some (k.val + 1) ∧ t.outbox = s.outbox ++ [.bringupFailed (k.val + 1)] ∧ t.regions = []) ∧
  (∀ (s : State) (n k : Nat), let t := s.mapSpare n k
    let spare (j : Nat) : Prop := j < 2 ∧ 2 ≤ j + (s.die (dieOfCore k)).spares ∧
      Config.selfTestFails n (96 + 2 * dieOfCore k + j) = false
    ((∃ j, spare j) → ∃ j, spare j ∧ (t.core k).phys = j + 1 ∧ (t.core k).dead = (s.core k).dead) ∧
    ((¬ ∃ j, spare j) → (t.core k).dead = true)) ∧
  (∀ (s : State) (r : Reading), ∃ v, exec (.sensorRefresh r) s = .next { s with power := { s.power with sensor := v } } ∧
    (v.extractLsb' 0 16).toNat = r.vin % 2 ^ 16 ∧ (v.extractLsb' 16 16).toNat = r.pin % 2 ^ 16 ∧
    (v.extractLsb' 96 8).toNat = r.thub % 2 ^ 8) ∧
  ∀ (s : State) (k lo n : Nat), sensorField k = some (lo, n) →
    exec (.pldmRequest k) s = .next { s with outbox := s.outbox ++ [.pldm k (s.power.block / 2 ^ lo % 2 ^ n)] }
end

