-- ==== Sys2Proof/Laws/Tab.lean ====
section
/-! SUPPORT. Laws/Tab.lean: the laws of sparse tables: read after write, and that a write keeps the
canonical form. -/

namespace Sys2Proof.Tab

variable {α : Type}

theorem get_of_above {d : α} {t : Tab α} {n k : Nat} (h : above n t = true) (hk : k ≤ n) :
    get d t k = d := by
  cases t with
  | nil => rfl
  | cons p t =>
    obtain ⟨j, v⟩ := p
    simp only [above, decide_eq_true_eq] at h
    have h1 : k ≠ j := by omega
    have h2 : k < j := by omega
    simp [get, h1, h2]

theorem above_ins {t : Tab α} {n k : Nat} {v : α} (h : above n t = true) (hk : n < k) :
    above n (ins t k v) = true := by
  cases t with
  | nil => simpa [ins, above] using hk
  | cons p t =>
    obtain ⟨j, w⟩ := p
    simp only [above, decide_eq_true_eq] at h
    simp only [ins]
    split
    · simpa [above] using hk
    · split <;> simp [above, h, hk]

theorem above_trans {t : Tab α} {m n : Nat} (h : above n t = true) (hm : m ≤ n) : above m t = true := by
  cases t with
  | nil => rfl
  | cons p t =>
    simp only [above, decide_eq_true_eq] at *
    omega

variable [DecidableEq α]

theorem above_del {d : α} {t : Tab α} {n k : Nat} (hw : wf d t = true) (h : above n t = true) :
    above n (del t k) = true := by
  cases t with
  | nil => rfl
  | cons p t =>
    obtain ⟨j, w⟩ := p
    simp only [wf, Bool.and_eq_true, decide_eq_true_eq] at hw
    have hj : n < j := by simpa [above] using h
    simp only [del]
    split
    · exact above_trans hw.1.2 (by omega)
    · split <;> simp [above, hj]

theorem wf_ins {d : α} {t : Tab α} {k : Nat} {v : α} (hw : wf d t = true) (hv : v ≠ d) :
    wf d (ins t k v) = true := by
  induction t with
  | nil => simp [ins, wf, hv, above]
  | cons p t ih =>
    obtain ⟨j, w⟩ := p
    have hw' := hw
    simp only [wf, Bool.and_eq_true, decide_eq_true_eq] at hw
    simp only [ins]
    split
    · subst_vars; simp [wf, hv, hw.1.2, hw.2]
    · split
      · have hk : k < j := ‹_›
        simp only [wf, Bool.and_eq_true, decide_eq_true_eq]
        exact ⟨⟨hv, by simp [above, hk]⟩, hw⟩
      · have : j < k := by omega
        simp [wf, hw.1.1, above_ins hw.1.2 this, ih hw.2]

theorem wf_del {d : α} {t : Tab α} {k : Nat} (hw : wf d t = true) : wf d (del t k) = true := by
  induction t with
  | nil => rfl
  | cons p t ih =>
    obtain ⟨j, w⟩ := p
    have hw' := hw
    simp only [wf, Bool.and_eq_true, decide_eq_true_eq] at hw
    simp only [del]
    split
    · exact hw.2
    · split
      · exact hw'
      · simp [wf, hw.1.1, above_del hw.2 hw.1.2, ih hw.2]

/-- A write keeps the canonical form. -/
theorem wf_set {d : α} {t : Tab α} {k : Nat} {v : α} (hw : wf d t = true) : wf d (set d t k v) = true := by
  unfold set
  split
  · exact wf_del hw
  · exact wf_ins hw ‹_›

omit [DecidableEq α] in
theorem get_ins_same {d : α} {t : Tab α} {k : Nat} {v : α} : get d (ins t k v) k = v := by
  induction t with
  | nil => simp [ins, get]
  | cons p t ih =>
    obtain ⟨j, w⟩ := p
    simp only [ins]
    split
    · simp [get]
    · split
      · simp [get]
      · simp [get, *]

omit [DecidableEq α] in
theorem get_ins_other {d : α} {t : Tab α} {k a : Nat} {v : α} (h : a ≠ k) :
    get d (ins t k v) a = get d t a := by
  induction t with
  | nil => simp [ins, get, h]
  | cons p t ih =>
    obtain ⟨j, w⟩ := p
    simp only [ins]
    split
    · subst_vars; simp [get, h]
    · split
      · by_cases h1 : a < k
        · have : a ≠ j := by omega
          have : a < j := by omega
          simp [get, *]
        · simp [get, *]
      · simp only [get, ih]

theorem get_del_same {d : α} {t : Tab α} {k : Nat} (hw : wf d t = true) : get d (del t k) k = d := by
  induction t with
  | nil => rfl
  | cons p t ih =>
    obtain ⟨j, w⟩ := p
    simp only [wf, Bool.and_eq_true, decide_eq_true_eq] at hw
    simp only [del]
    split
    · subst_vars; exact get_of_above hw.1.2 (Nat.le_refl _)
    · split
      · simp [get, *]
      · simp [get, *, ih hw.2]

theorem get_del_other {d : α} {t : Tab α} {k a : Nat} (hw : wf d t = true) (h : a ≠ k) :
    get d (del t k) a = get d t a := by
  induction t with
  | nil => rfl
  | cons p t ih =>
    obtain ⟨j, w⟩ := p
    simp only [wf, Bool.and_eq_true, decide_eq_true_eq] at hw
    simp only [del]
    split
    · have hk : k = j := ‹_›
      subst hk
      by_cases h1 : a < k
      · rw [get_of_above hw.1.2 (by omega)]; simp [get, h, h1]
      · simp [get, h, h1]
    · split
      · rfl
      · simp only [get, ih hw.2]

/-- Read after write, same entry. -/
theorem get_set_same {d : α} {t : Tab α} {k : Nat} {v : α} (hw : wf d t = true) :
    get d (set d t k v) k = v := by
  unfold set
  split
  · subst_vars; exact get_del_same hw
  · exact get_ins_same

/-- A write leaves every other entry alone. -/
theorem get_set_other {d : α} {t : Tab α} {k a : Nat} {v : α} (hw : wf d t = true) (h : a ≠ k) :
    get d (set d t k v) a = get d t a := by
  unfold set
  split
  · exact get_del_other hw h
  · exact get_ins_other h

omit [DecidableEq α] in
/-- An empty table reads as the default everywhere. -/
@[simp] theorem get_nil {d : α} {k : Nat} : get d ([] : Tab α) k = d := rfl

end Sys2Proof.Tab
end

