-- ==== Sys2Proof/Laws/Memory.lean ====
section
/-! SUPPORT. Laws/Memory.lean: memory keeps its one canonical form under every write at a home, and a byte that is written
reads back while every other one reads as before. -/

namespace Sys2Proof.Machine

/-- Both memories of a state are in canonical form. -/
abbrev State.MemWf (s : State) : Prop := Memory.wf s.mem ∧ Tab.wf none s.hostMem = true

theorem reset_memWf : State.reset.MemWf := ⟨rfl, rfl⟩

theorem setHomeByte_memWf {s : State} (h : s.MemWf) (pa : Nat) (b : Byte) : (s.setHomeByte pa b).MemWf := by
  unfold State.setHomeByte
  split
  · exact ⟨Tab.wf_set h.1, h.2⟩
  · have := Tab.wf_set (k := pa) (v := some b) h.2
    exact ⟨h.1, this⟩
  · exact h

theorem homeWrite_memWf {s : State} (l : List Byte) : ∀ {pa : Nat}, s.MemWf → (s.homeWrite pa l).MemWf := by
  induction l generalizing s with
  | nil => exact id
  | cons b l ih => exact fun h => ih (setHomeByte_memWf h _ b)

theorem homeWriteOpt_memWf {s : State} (l : List (Option Byte)) : ∀ {pa : Nat}, s.MemWf → (s.homeWriteOpt pa l).MemWf := by
  induction l generalizing s with
  | nil => exact id
  | cons b l ih =>
    cases b with
    | none => exact fun h => ih h
    | some b => exact fun h => ih (setHomeByte_memWf h _ b)

theorem homeWriteNat_memWf {s : State} {pa n v : Nat} (h : s.MemWf) : (s.homeWriteNat pa n v).MemWf :=
  homeWrite_memWf _ h

/-- The byte that is written: HBM and host memory take it, but for an UNDER, whose bit a write of 1 clears. -/
theorem setHomeByte_same {s : State} (h : s.MemWf) {pa : Nat} (hp : paKind pa = .hbm ∨ paKind pa = .host)
    (hu : s.holdsUnder pa = false) (b : Byte) :
    (s.setHomeByte pa b).homeByte pa = b := by
  unfold State.setHomeByte State.homeByte
  rcases hp with hp | hp <;> simp only [hp, hu]
  · exact Tab.get_set_same h.1
  · rw [Tab.get_set_same h.2]; rfl

/-- Every other byte. -/
theorem setHomeByte_other {s : State} (h : s.MemWf) {pa a : Nat} (ha : a ≠ pa) (b : Byte) :
    (s.setHomeByte pa b).homeByte a = s.homeByte a := by
  unfold State.setHomeByte State.homeByte
  cases hp : paKind pa <;> cases hq : paKind a <;> simp only []
  · exact Tab.get_set_other h.1 ha
  · rw [Tab.get_set_other h.2 ha]

/-- Bytes outside those written. -/
theorem homeWrite_other {s : State} (l : List Byte) : ∀ {pa a : Nat}, s.MemWf → a < pa ∨ pa + l.length ≤ a →
    (s.homeWrite pa l).homeByte a = s.homeByte a := by
  induction l generalizing s with
  | nil => intros; rfl
  | cons b l ih =>
    intro pa a h ha
    simp only [List.length_cons] at ha
    rw [State.homeWrite, ih (setHomeByte_memWf h _ b) (by omega), setHomeByte_other h (by omega)]

end Sys2Proof.Machine
end

