-- ==== Sys2Proof/Laws/Canonical.lean ====
section
/-! SUPPORT. Laws/Canonical.lean: the operations that write the state keep its canonical form, whichever state they
start from; what writes none of the three tables keeps it by `canonical_of`. -/

namespace Sys2Proof.Machine

variable {s : State}

/-- A state with the same three tables. -/
theorem canonical_of {t : State} (h : s.Canonical) (hm : t.mem = s.mem) (hh : t.hostMem = s.hostMem)
    (hc : t.ctxs = s.ctxs) : t.Canonical := ⟨hm ▸ h.mem, hh ▸ h.host, hc ▸ h.ctxs⟩

theorem reset_canonical : State.reset.Canonical := ⟨rfl, rfl, rfl⟩

theorem foldl_canonical {α : Type} {f : State → α → State} (hf : ∀ s a, s.Canonical → (f s a).Canonical) (l : List α) :
    ∀ {s : State}, s.Canonical → (l.foldl f s).Canonical := by
  induction l with
  | nil => exact id
  | cons a l ih => exact fun h => ih (hf _ a h)

theorem setCtx_canonical (h : s.Canonical) (c : Nat) (x : Ctx) : (s.setCtx c x).Canonical :=
  ⟨h.mem, h.host, Tab.wf_set h.ctxs⟩
theorem modCtx_canonical (h : s.Canonical) (c : Nat) (f : Ctx → Ctx) : (s.modCtx c f).Canonical := setCtx_canonical h c _
theorem modArch_canonical (h : s.Canonical) (c : Nat) (f : Arch → Arch) : (s.modArch c f).Canonical :=
  modCtx_canonical h c _
theorem setCore_canonical (h : s.Canonical) (k : Nat) (x : Core) : (s.setCore k x).Canonical := canonical_of h rfl rfl rfl
theorem modCore_canonical (h : s.Canonical) (k : Nat) (f : Core → Core) : (s.modCore k f).Canonical :=
  canonical_of h rfl rfl rfl
theorem modDie_canonical (h : s.Canonical) (d : Nat) (f : Die → Die) : (s.modDie d f).Canonical := canonical_of h rfl rfl rfl
theorem modCur_canonical (h : s.Canonical) (f : Cur → Cur) : (s.modCur f).Canonical := canonical_of h rfl rfl rfl
theorem emit_canonical (h : s.Canonical) (o : Out) : (s.emit o).Canonical := canonical_of h rfl rfl rfl
theorem setRegion_canonical (h : s.Canonical) (r : Nat) (x : Region) : (s.setRegion r x).Canonical :=
  canonical_of h rfl rfl rfl
theorem modRegion_canonical (h : s.Canonical) (r : Nat) (f : Region → Region) : (s.modRegion r f).Canonical := by
  unfold State.modRegion; split
  · exact setRegion_canonical h r _
  · exact h
theorem setQueue_canonical (h : s.Canonical) (k : Nat) (x : Queue) : (s.setQueue k x).Canonical := canonical_of h rfl rfl rfl
theorem modQueue_canonical (h : s.Canonical) (k : Nat) (f : Queue → Queue) : (s.modQueue k f).Canonical :=
  canonical_of h rfl rfl rfl
theorem modPort_canonical (h : s.Canonical) (k : Nat) (f : Port → Port) : (s.modPort k f).Canonical :=
  canonical_of h rfl rfl rfl
theorem modHbm_canonical (h : s.Canonical) (k : Nat) (f : Hbm → Hbm) : (s.modHbm k f).Canonical := canonical_of h rfl rfl rfl
theorem modFunc_canonical (h : s.Canonical) (k : Nat) (f : Func → Func) : (s.modFunc k f).Canonical :=
  canonical_of h rfl rfl rfl
theorem modNal_canonical (h : s.Canonical) (k : Nat) (f : Nalvel → Nalvel) : (s.modNal k f).Canonical :=
  canonical_of h rfl rfl rfl
theorem modSpdm_canonical (h : s.Canonical) (k : Nat) (f : Spdm → Spdm) : (s.modSpdm k f).Canonical :=
  canonical_of h rfl rfl rfl

theorem push_canonical (h : s.Canonical) (left : Nat) (wr : List Wr) (latch : Option (Nat × LatchVal)) (st : Word) :
    (s.push left wr latch st).Canonical := modArch_canonical h _ _
theorem hold_canonical (h : s.Canonical) (e : Eff) : (s.hold e).Canonical := modCtx_canonical h _ _
theorem addLoad_canonical (h : s.Canonical) (o : Outst) : (s.addLoad o).Canonical := modCtx_canonical h _ _
theorem popWord_canonical (h : s.Canonical) : s.popWord.Canonical := modArch_canonical h _ _

theorem homeWrite_canonical (h : s.Canonical) (pa : Nat) (l : List Byte) : (s.homeWrite pa l).Canonical := by
  have w := homeWrite_memWf (pa := pa) l ⟨h.mem, h.host⟩
  have c : (s.homeWrite pa l).ctxs = s.ctxs := by
    clear w h
    induction l generalizing s pa with
    | nil => rfl
    | cons b l ih => rw [State.homeWrite, ih]; unfold State.setHomeByte; split <;> rfl
  exact ⟨w.1, w.2, c ▸ h.ctxs⟩

/-- Writing a scratchpad changes no core table but the cores'. -/
theorem spadWrite_tables (l : List (Option Byte)) : ∀ (s : State) (c lo : Nat),
    (s.spadWrite c lo l).mem = s.mem ∧ (s.spadWrite c lo l).hostMem = s.hostMem ∧ (s.spadWrite c lo l).ctxs = s.ctxs := by
  induction l with
  | nil => exact fun _ _ _ => ⟨rfl, rfl, rfl⟩
  | cons b l ih =>
    intro s c lo
    cases b with
    | none => exact ih s c (lo + 1)
    | some b => exact ih _ c (lo + 1)

theorem spadWrite_canonical (h : s.Canonical) (c lo : Nat) (l : List (Option Byte)) : (s.spadWrite c lo l).Canonical :=
  have w := spadWrite_tables l s c lo
  canonical_of h w.1 w.2.1 w.2.2

theorem spadRead_canonical (h : s.Canonical) (c lo n : Nat) : (s.spadRead c lo n).1.Canonical := canonical_of h rfl rfl rfl

end Sys2Proof.Machine
end

