-- ==== Sys2Proof/Laws/State.lean ====
section
/-! SUPPORT. Laws/State.lean: each field of the state under each update by name, true by the update's definition. -/

namespace Sys2Proof.Machine

variable (s : State)

/-! ## setCtx -/

@[simp] theorem setCtx_grants (c : Nat) (x : Ctx) : (s.setCtx c x).grants = s.grants := rfl
@[simp] theorem setCtx_agenda (c : Nat) (x : Ctx) : (s.setCtx c x).agenda = s.agenda := rfl
@[simp] theorem setCtx_turn (c : Nat) (x : Ctx) : (s.setCtx c x).turn = s.turn := rfl
@[simp] theorem setCtx_cur (c : Nat) (x : Ctx) : (s.setCtx c x).cur = s.cur := rfl
@[simp] theorem setCtx_free (c : Nat) (x : Ctx) : (s.setCtx c x).free = s.free := rfl
@[simp] theorem setCtx_now (c : Nat) (x : Ctx) : (s.setCtx c x).now = s.now := rfl
@[simp] theorem setCtx_mem (c : Nat) (x : Ctx) : (s.setCtx c x).mem = s.mem := rfl
@[simp] theorem setCtx_hostMem (c : Nat) (x : Ctx) : (s.setCtx c x).hostMem = s.hostMem := rfl
@[simp] theorem setCtx_ctxs (c : Nat) (x : Ctx) : (s.setCtx c x).ctxs = Tab.set {} s.ctxs c x := rfl
@[simp] theorem setCtx_cores (c : Nat) (x : Ctx) : (s.setCtx c x).cores = s.cores := rfl
@[simp] theorem setCtx_dies (c : Nat) (x : Ctx) : (s.setCtx c x).dies = s.dies := rfl
@[simp] theorem setCtx_regions (c : Nat) (x : Ctx) : (s.setCtx c x).regions = s.regions := rfl
@[simp] theorem setCtx_spaces (c : Nat) (x : Ctx) : (s.setCtx c x).spaces = s.spaces := rfl
@[simp] theorem setCtx_tables (c : Nat) (x : Ctx) : (s.setCtx c x).tables = s.tables := rfl
@[simp] theorem setCtx_pins (c : Nat) (x : Ctx) : (s.setCtx c x).pins = s.pins := rfl
@[simp] theorem setCtx_leases (c : Nat) (x : Ctx) : (s.setCtx c x).leases = s.leases := rfl
@[simp] theorem setCtx_nextLease (c : Nat) (x : Ctx) : (s.setCtx c x).nextLease = s.nextLease := rfl
@[simp] theorem setCtx_grantsF3 (c : Nat) (x : Ctx) : (s.setCtx c x).grantsF3 = s.grantsF3 := rfl
@[simp] theorem setCtx_pageReqs (c : Nat) (x : Ctx) : (s.setCtx c x).pageReqs = s.pageReqs := rfl
@[simp] theorem setCtx_migrations (c : Nat) (x : Ctx) : (s.setCtx c x).migrations = s.migrations := rfl
@[simp] theorem setCtx_queues (c : Nat) (x : Ctx) : (s.setCtx c x).queues = s.queues := rfl
@[simp] theorem setCtx_rrQueue (c : Nat) (x : Ctx) : (s.setCtx c x).rrQueue = s.rrQueue := rfl
@[simp] theorem setCtx_wakes (c : Nat) (x : Ctx) : (s.setCtx c x).wakes = s.wakes := rfl
@[simp] theorem setCtx_overflow (c : Nat) (x : Ctx) : (s.setCtx c x).overflow = s.overflow := rfl
@[simp] theorem setCtx_launches (c : Nat) (x : Ctx) : (s.setCtx c x).launches = s.launches := rfl
@[simp] theorem setCtx_walks (c : Nat) (x : Ctx) : (s.setCtx c x).walks = s.walks := rfl
@[simp] theorem setCtx_reservations (c : Nat) (x : Ctx) : (s.setCtx c x).reservations = s.reservations := rfl
@[simp] theorem setCtx_saved (c : Nat) (x : Ctx) : (s.setCtx c x).saved = s.saved := rfl
@[simp] theorem setCtx_nextSaved (c : Nat) (x : Ctx) : (s.setCtx c x).nextSaved = s.nextSaved := rfl
@[simp] theorem setCtx_nextTask (c : Nat) (x : Ctx) : (s.setCtx c x).nextTask = s.nextTask := rfl
@[simp] theorem setCtx_suspended (c : Nat) (x : Ctx) : (s.setCtx c x).suspended = s.suspended := rfl
@[simp] theorem setCtx_posts (c : Nat) (x : Ctx) : (s.setCtx c x).posts = s.posts := rfl
@[simp] theorem setCtx_ordNet (c : Nat) (x : Ctx) : (s.setCtx c x).ordNet = s.ordNet := rfl
@[simp] theorem setCtx_reductions (c : Nat) (x : Ctx) : (s.setCtx c x).reductions = s.reductions := rfl
@[simp] theorem setCtx_hbm (c : Nat) (x : Ctx) : (s.setCtx c x).hbm = s.hbm := rfl
@[simp] theorem setCtx_badLines (c : Nat) (x : Ctx) : (s.setCtx c x).badLines = s.badLines := rfl
@[simp] theorem setCtx_rowthr (c : Nat) (x : Ctx) : (s.setCtx c x).rowthr = s.rowthr := rfl
@[simp] theorem setCtx_modid (c : Nat) (x : Ctx) : (s.setCtx c x).modid = s.modid := rfl
@[simp] theorem setCtx_ports (c : Nat) (x : Ctx) : (s.setCtx c x).ports = s.ports := rfl
@[simp] theorem setCtx_spareFor (c : Nat) (x : Ctx) : (s.setCtx c x).spareFor = s.spareFor := rfl
@[simp] theorem setCtx_escape0 (c : Nat) (x : Ctx) : (s.setCtx c x).escape0 = s.escape0 := rfl
@[simp] theorem setCtx_escape1 (c : Nat) (x : Ctx) : (s.setCtx c x).escape1 = s.escape1 := rfl
@[simp] theorem setCtx_epoch (c : Nat) (x : Ctx) : (s.setCtx c x).epoch = s.epoch := rfl
@[simp] theorem setCtx_windows (c : Nat) (x : Ctx) : (s.setCtx c x).windows = s.windows := rfl
@[simp] theorem setCtx_frags (c : Nat) (x : Ctx) : (s.setCtx c x).frags = s.frags := rfl
@[simp] theorem setCtx_delivered (c : Nat) (x : Ctx) : (s.setCtx c x).delivered = s.delivered := rfl
@[simp] theorem setCtx_nextXid (c : Nat) (x : Ctx) : (s.setCtx c x).nextXid = s.nextXid := rfl
@[simp] theorem setCtx_funcs (c : Nat) (x : Ctx) : (s.setCtx c x).funcs = s.funcs := rfl
@[simp] theorem setCtx_aperture (c : Nat) (x : Ctx) : (s.setCtx c x).aperture = s.aperture := rfl
@[simp] theorem setCtx_peers (c : Nat) (x : Ctx) : (s.setCtx c x).peers = s.peers := rfl
@[simp] theorem setCtx_nalvel (c : Nat) (x : Ctx) : (s.setCtx c x).nalvel = s.nalvel := rfl
@[simp] theorem setCtx_meas (c : Nat) (x : Ctx) : (s.setCtx c x).meas = s.meas := rfl
@[simp] theorem setCtx_spdm (c : Nat) (x : Ctx) : (s.setCtx c x).spdm = s.spdm := rfl
@[simp] theorem setCtx_snapseq (c : Nat) (x : Ctx) : (s.setCtx c x).snapseq = s.snapseq := rfl
@[simp] theorem setCtx_eccCount (c : Nat) (x : Ctx) : (s.setCtx c x).eccCount = s.eccCount := rfl
@[simp] theorem setCtx_dataErrors (c : Nat) (x : Ctx) : (s.setCtx c x).dataErrors = s.dataErrors := rfl
@[simp] theorem setCtx_rerunsAgreed (c : Nat) (x : Ctx) : (s.setCtx c x).rerunsAgreed = s.rerunsAgreed := rfl
@[simp] theorem setCtx_retirements (c : Nat) (x : Ctx) : (s.setCtx c x).retirements = s.retirements := rfl
@[simp] theorem setCtx_dataFaults (c : Nat) (x : Ctx) : (s.setCtx c x).dataFaults = s.dataFaults := rfl
@[simp] theorem setCtx_power (c : Nat) (x : Ctx) : (s.setCtx c x).power = s.power := rfl
@[simp] theorem setCtx_outbox (c : Nat) (x : Ctx) : (s.setCtx c x).outbox = s.outbox := rfl

/-! ## setCore -/

@[simp] theorem setCore_ctxs (k : Nat) (x : Core) : (s.setCore k x).ctxs = s.ctxs := rfl
@[simp] theorem setCore_cores (k : Nat) (x : Core) : (s.setCore k x).cores = Tab.set {} s.cores k x := rfl
@[simp] theorem setCore_cur (k : Nat) (x : Core) : (s.setCore k x).cur = s.cur := rfl
@[simp] theorem setCore_mem (k : Nat) (x : Core) : (s.setCore k x).mem = s.mem := rfl
@[simp] theorem setCore_hostMem (k : Nat) (x : Core) : (s.setCore k x).hostMem = s.hostMem := rfl
@[simp] theorem setCore_dies (k : Nat) (x : Core) : (s.setCore k x).dies = s.dies := rfl
@[simp] theorem setCore_regions (k : Nat) (x : Core) : (s.setCore k x).regions = s.regions := rfl
@[simp] theorem setCore_outbox (k : Nat) (x : Core) : (s.setCore k x).outbox = s.outbox := rfl
@[simp] theorem setCore_agenda (k : Nat) (x : Core) : (s.setCore k x).agenda = s.agenda := rfl
@[simp] theorem setCore_grants (k : Nat) (x : Core) : (s.setCore k x).grants = s.grants := rfl
@[simp] theorem setCore_free (k : Nat) (x : Core) : (s.setCore k x).free = s.free := rfl
@[simp] theorem setCore_posts (k : Nat) (x : Core) : (s.setCore k x).posts = s.posts := rfl
@[simp] theorem setCore_saved (k : Nat) (x : Core) : (s.setCore k x).saved = s.saved := rfl
@[simp] theorem setCore_frags (k : Nat) (x : Core) : (s.setCore k x).frags = s.frags := rfl
@[simp] theorem setCore_queues (k : Nat) (x : Core) : (s.setCore k x).queues = s.queues := rfl

/-! ## modCur -/

@[simp] theorem modCur_ctxs (f : Cur → Cur) : (s.modCur f).ctxs = s.ctxs := rfl
@[simp] theorem modCur_cores (f : Cur → Cur) : (s.modCur f).cores = s.cores := rfl
@[simp] theorem modCur_cur (f : Cur → Cur) : (s.modCur f).cur = f s.cur := rfl
@[simp] theorem modCur_mem (f : Cur → Cur) : (s.modCur f).mem = s.mem := rfl
@[simp] theorem modCur_hostMem (f : Cur → Cur) : (s.modCur f).hostMem = s.hostMem := rfl
@[simp] theorem modCur_dies (f : Cur → Cur) : (s.modCur f).dies = s.dies := rfl
@[simp] theorem modCur_regions (f : Cur → Cur) : (s.modCur f).regions = s.regions := rfl
@[simp] theorem modCur_outbox (f : Cur → Cur) : (s.modCur f).outbox = s.outbox := rfl
@[simp] theorem modCur_agenda (f : Cur → Cur) : (s.modCur f).agenda = s.agenda := rfl
@[simp] theorem modCur_grants (f : Cur → Cur) : (s.modCur f).grants = s.grants := rfl
@[simp] theorem modCur_free (f : Cur → Cur) : (s.modCur f).free = s.free := rfl
@[simp] theorem modCur_posts (f : Cur → Cur) : (s.modCur f).posts = s.posts := rfl
@[simp] theorem modCur_saved (f : Cur → Cur) : (s.modCur f).saved = s.saved := rfl
@[simp] theorem modCur_frags (f : Cur → Cur) : (s.modCur f).frags = s.frags := rfl
@[simp] theorem modCur_queues (f : Cur → Cur) : (s.modCur f).queues = s.queues := rfl

/-! ## emit -/

@[simp] theorem emit_ctxs (o : Out) : (s.emit o).ctxs = s.ctxs := rfl
@[simp] theorem emit_cores (o : Out) : (s.emit o).cores = s.cores := rfl
@[simp] theorem emit_cur (o : Out) : (s.emit o).cur = s.cur := rfl
@[simp] theorem emit_mem (o : Out) : (s.emit o).mem = s.mem := rfl
@[simp] theorem emit_hostMem (o : Out) : (s.emit o).hostMem = s.hostMem := rfl
@[simp] theorem emit_dies (o : Out) : (s.emit o).dies = s.dies := rfl
@[simp] theorem emit_regions (o : Out) : (s.emit o).regions = s.regions := rfl
@[simp] theorem emit_outbox (o : Out) : (s.emit o).outbox = s.outbox ++ [o] := rfl
@[simp] theorem emit_agenda (o : Out) : (s.emit o).agenda = s.agenda := rfl
@[simp] theorem emit_grants (o : Out) : (s.emit o).grants = s.grants := rfl
@[simp] theorem emit_free (o : Out) : (s.emit o).free = s.free := rfl
@[simp] theorem emit_posts (o : Out) : (s.emit o).posts = s.posts := rfl
@[simp] theorem emit_saved (o : Out) : (s.emit o).saved = s.saved := rfl
@[simp] theorem emit_frags (o : Out) : (s.emit o).frags = s.frags := rfl
@[simp] theorem emit_queues (o : Out) : (s.emit o).queues = s.queues := rfl

/-! ## modDie -/

@[simp] theorem modDie_ctxs (d : Nat) (f : Die → Die) : (s.modDie d f).ctxs = s.ctxs := rfl
@[simp] theorem modDie_cores (d : Nat) (f : Die → Die) : (s.modDie d f).cores = s.cores := rfl
@[simp] theorem modDie_cur (d : Nat) (f : Die → Die) : (s.modDie d f).cur = s.cur := rfl
@[simp] theorem modDie_mem (d : Nat) (f : Die → Die) : (s.modDie d f).mem = s.mem := rfl
@[simp] theorem modDie_hostMem (d : Nat) (f : Die → Die) : (s.modDie d f).hostMem = s.hostMem := rfl
@[simp] theorem modDie_dies (d : Nat) (f : Die → Die) : (s.modDie d f).dies = s.dies.set d (f (s.die d)) := rfl
@[simp] theorem modDie_regions (d : Nat) (f : Die → Die) : (s.modDie d f).regions = s.regions := rfl
@[simp] theorem modDie_outbox (d : Nat) (f : Die → Die) : (s.modDie d f).outbox = s.outbox := rfl
@[simp] theorem modDie_agenda (d : Nat) (f : Die → Die) : (s.modDie d f).agenda = s.agenda := rfl
@[simp] theorem modDie_grants (d : Nat) (f : Die → Die) : (s.modDie d f).grants = s.grants := rfl
@[simp] theorem modDie_free (d : Nat) (f : Die → Die) : (s.modDie d f).free = s.free := rfl
@[simp] theorem modDie_posts (d : Nat) (f : Die → Die) : (s.modDie d f).posts = s.posts := rfl
@[simp] theorem modDie_saved (d : Nat) (f : Die → Die) : (s.modDie d f).saved = s.saved := rfl
@[simp] theorem modDie_frags (d : Nat) (f : Die → Die) : (s.modDie d f).frags = s.frags := rfl
@[simp] theorem modDie_queues (d : Nat) (f : Die → Die) : (s.modDie d f).queues = s.queues := rfl

/-! ## setRegion -/

@[simp] theorem setRegion_ctxs (r : Nat) (x : Region) : (s.setRegion r x).ctxs = s.ctxs := rfl
@[simp] theorem setRegion_cores (r : Nat) (x : Region) : (s.setRegion r x).cores = s.cores := rfl
@[simp] theorem setRegion_cur (r : Nat) (x : Region) : (s.setRegion r x).cur = s.cur := rfl
@[simp] theorem setRegion_mem (r : Nat) (x : Region) : (s.setRegion r x).mem = s.mem := rfl
@[simp] theorem setRegion_hostMem (r : Nat) (x : Region) : (s.setRegion r x).hostMem = s.hostMem := rfl
@[simp] theorem setRegion_dies (r : Nat) (x : Region) : (s.setRegion r x).dies = s.dies := rfl
@[simp] theorem setRegion_regions (r : Nat) (x : Region) : (s.setRegion r x).regions = Tab.set none s.regions r (some x) := rfl
@[simp] theorem setRegion_outbox (r : Nat) (x : Region) : (s.setRegion r x).outbox = s.outbox := rfl
@[simp] theorem setRegion_agenda (r : Nat) (x : Region) : (s.setRegion r x).agenda = s.agenda := rfl

/-! ## setQueue -/

@[simp] theorem setQueue_ctxs (q : Nat) (x : Queue) : (s.setQueue q x).ctxs = s.ctxs := rfl
@[simp] theorem setQueue_cores (q : Nat) (x : Queue) : (s.setQueue q x).cores = s.cores := rfl
@[simp] theorem setQueue_cur (q : Nat) (x : Queue) : (s.setQueue q x).cur = s.cur := rfl
@[simp] theorem setQueue_mem (q : Nat) (x : Queue) : (s.setQueue q x).mem = s.mem := rfl
@[simp] theorem setQueue_hostMem (q : Nat) (x : Queue) : (s.setQueue q x).hostMem = s.hostMem := rfl
@[simp] theorem setQueue_dies (q : Nat) (x : Queue) : (s.setQueue q x).dies = s.dies := rfl
@[simp] theorem setQueue_regions (q : Nat) (x : Queue) : (s.setQueue q x).regions = s.regions := rfl
@[simp] theorem setQueue_outbox (q : Nat) (x : Queue) : (s.setQueue q x).outbox = s.outbox := rfl
@[simp] theorem setQueue_agenda (q : Nat) (x : Queue) : (s.setQueue q x).agenda = s.agenda := rfl
@[simp] theorem setQueue_queues (q : Nat) (x : Queue) : (s.setQueue q x).queues = Tab.set {} s.queues q x := rfl

/-! ## setPort -/

@[simp] theorem setPort_ctxs (p : Nat) (x : Port) : (s.setPort p x).ctxs = s.ctxs := rfl
@[simp] theorem setPort_cores (p : Nat) (x : Port) : (s.setPort p x).cores = s.cores := rfl
@[simp] theorem setPort_cur (p : Nat) (x : Port) : (s.setPort p x).cur = s.cur := rfl
@[simp] theorem setPort_mem (p : Nat) (x : Port) : (s.setPort p x).mem = s.mem := rfl
@[simp] theorem setPort_hostMem (p : Nat) (x : Port) : (s.setPort p x).hostMem = s.hostMem := rfl
@[simp] theorem setPort_dies (p : Nat) (x : Port) : (s.setPort p x).dies = s.dies := rfl
@[simp] theorem setPort_regions (p : Nat) (x : Port) : (s.setPort p x).regions = s.regions := rfl
@[simp] theorem setPort_outbox (p : Nat) (x : Port) : (s.setPort p x).outbox = s.outbox := rfl
@[simp] theorem setPort_agenda (p : Nat) (x : Port) : (s.setPort p x).agenda = s.agenda := rfl
@[simp] theorem setPort_ports (p : Nat) (x : Port) : (s.setPort p x).ports = Tab.set {} s.ports p x := rfl

/-! ## setHbm -/

@[simp] theorem setHbm_ctxs (k : Nat) (x : Hbm) : (s.setHbm k x).ctxs = s.ctxs := rfl
@[simp] theorem setHbm_cores (k : Nat) (x : Hbm) : (s.setHbm k x).cores = s.cores := rfl
@[simp] theorem setHbm_cur (k : Nat) (x : Hbm) : (s.setHbm k x).cur = s.cur := rfl
@[simp] theorem setHbm_mem (k : Nat) (x : Hbm) : (s.setHbm k x).mem = s.mem := rfl
@[simp] theorem setHbm_hostMem (k : Nat) (x : Hbm) : (s.setHbm k x).hostMem = s.hostMem := rfl
@[simp] theorem setHbm_dies (k : Nat) (x : Hbm) : (s.setHbm k x).dies = s.dies := rfl
@[simp] theorem setHbm_regions (k : Nat) (x : Hbm) : (s.setHbm k x).regions = s.regions := rfl
@[simp] theorem setHbm_outbox (k : Nat) (x : Hbm) : (s.setHbm k x).outbox = s.outbox := rfl
@[simp] theorem setHbm_agenda (k : Nat) (x : Hbm) : (s.setHbm k x).agenda = s.agenda := rfl
@[simp] theorem setHbm_hbm (k : Nat) (x : Hbm) : (s.setHbm k x).hbm = Tab.set {} s.hbm k x := rfl

/-! ## modFunc -/

@[simp] theorem modFunc_ctxs (f : Nat) (g : Func → Func) : (s.modFunc f g).ctxs = s.ctxs := rfl
@[simp] theorem modFunc_cores (f : Nat) (g : Func → Func) : (s.modFunc f g).cores = s.cores := rfl
@[simp] theorem modFunc_cur (f : Nat) (g : Func → Func) : (s.modFunc f g).cur = s.cur := rfl
@[simp] theorem modFunc_mem (f : Nat) (g : Func → Func) : (s.modFunc f g).mem = s.mem := rfl
@[simp] theorem modFunc_hostMem (f : Nat) (g : Func → Func) : (s.modFunc f g).hostMem = s.hostMem := rfl
@[simp] theorem modFunc_dies (f : Nat) (g : Func → Func) : (s.modFunc f g).dies = s.dies := rfl
@[simp] theorem modFunc_regions (f : Nat) (g : Func → Func) : (s.modFunc f g).regions = s.regions := rfl
@[simp] theorem modFunc_outbox (f : Nat) (g : Func → Func) : (s.modFunc f g).outbox = s.outbox := rfl
@[simp] theorem modFunc_agenda (f : Nat) (g : Func → Func) : (s.modFunc f g).agenda = s.agenda := rfl
@[simp] theorem modFunc_funcs (f : Nat) (g : Func → Func) : (s.modFunc f g).funcs = Tab.set {} s.funcs f (g (s.func f)) := rfl

/-! ## modWindow -/

@[simp] theorem modWindow_ctxs (k : Nat) (f : Window → Window) : (s.modWindow k f).ctxs = s.ctxs := rfl
@[simp] theorem modWindow_cores (k : Nat) (f : Window → Window) : (s.modWindow k f).cores = s.cores := rfl
@[simp] theorem modWindow_cur (k : Nat) (f : Window → Window) : (s.modWindow k f).cur = s.cur := rfl
@[simp] theorem modWindow_mem (k : Nat) (f : Window → Window) : (s.modWindow k f).mem = s.mem := rfl
@[simp] theorem modWindow_hostMem (k : Nat) (f : Window → Window) : (s.modWindow k f).hostMem = s.hostMem := rfl
@[simp] theorem modWindow_dies (k : Nat) (f : Window → Window) : (s.modWindow k f).dies = s.dies := rfl
@[simp] theorem modWindow_regions (k : Nat) (f : Window → Window) : (s.modWindow k f).regions = s.regions := rfl
@[simp] theorem modWindow_outbox (k : Nat) (f : Window → Window) : (s.modWindow k f).outbox = s.outbox := rfl
@[simp] theorem modWindow_agenda (k : Nat) (f : Window → Window) : (s.modWindow k f).agenda = s.agenda := rfl
@[simp] theorem modWindow_windows (k : Nat) (f : Window → Window) : (s.modWindow k f).windows = Tab.set {} s.windows k (f (s.window k)) := rfl

/-! ## modNal -/

@[simp] theorem modNal_ctxs (n : Nat) (f : Nalvel → Nalvel) : (s.modNal n f).ctxs = s.ctxs := rfl
@[simp] theorem modNal_cores (n : Nat) (f : Nalvel → Nalvel) : (s.modNal n f).cores = s.cores := rfl
@[simp] theorem modNal_cur (n : Nat) (f : Nalvel → Nalvel) : (s.modNal n f).cur = s.cur := rfl
@[simp] theorem modNal_mem (n : Nat) (f : Nalvel → Nalvel) : (s.modNal n f).mem = s.mem := rfl
@[simp] theorem modNal_hostMem (n : Nat) (f : Nalvel → Nalvel) : (s.modNal n f).hostMem = s.hostMem := rfl
@[simp] theorem modNal_dies (n : Nat) (f : Nalvel → Nalvel) : (s.modNal n f).dies = s.dies := rfl
@[simp] theorem modNal_regions (n : Nat) (f : Nalvel → Nalvel) : (s.modNal n f).regions = s.regions := rfl
@[simp] theorem modNal_outbox (n : Nat) (f : Nalvel → Nalvel) : (s.modNal n f).outbox = s.outbox := rfl
@[simp] theorem modNal_agenda (n : Nat) (f : Nalvel → Nalvel) : (s.modNal n f).agenda = s.agenda := rfl
@[simp] theorem modNal_nalvel (n : Nat) (f : Nalvel → Nalvel) : (s.modNal n f).nalvel = Tab.set {} s.nalvel n (f (s.nal n)) := rfl

/-! ## modSpdm -/

@[simp] theorem modSpdm_ctxs (n : Nat) (f : Spdm → Spdm) : (s.modSpdm n f).ctxs = s.ctxs := rfl
@[simp] theorem modSpdm_cores (n : Nat) (f : Spdm → Spdm) : (s.modSpdm n f).cores = s.cores := rfl
@[simp] theorem modSpdm_cur (n : Nat) (f : Spdm → Spdm) : (s.modSpdm n f).cur = s.cur := rfl
@[simp] theorem modSpdm_mem (n : Nat) (f : Spdm → Spdm) : (s.modSpdm n f).mem = s.mem := rfl
@[simp] theorem modSpdm_hostMem (n : Nat) (f : Spdm → Spdm) : (s.modSpdm n f).hostMem = s.hostMem := rfl
@[simp] theorem modSpdm_dies (n : Nat) (f : Spdm → Spdm) : (s.modSpdm n f).dies = s.dies := rfl
@[simp] theorem modSpdm_regions (n : Nat) (f : Spdm → Spdm) : (s.modSpdm n f).regions = s.regions := rfl
@[simp] theorem modSpdm_outbox (n : Nat) (f : Spdm → Spdm) : (s.modSpdm n f).outbox = s.outbox := rfl
@[simp] theorem modSpdm_agenda (n : Nat) (f : Spdm → Spdm) : (s.modSpdm n f).agenda = s.agenda := rfl
@[simp] theorem modSpdm_spdm (n : Nat) (f : Spdm → Spdm) : (s.modSpdm n f).spdm = Tab.set {} s.spdm n (f (s.spdmOf n)) := rfl

/-! ## Contexts, registers and results -/

theorem modCtx_eq (c : Nat) (f : Ctx → Ctx) : s.modCtx c f = s.setCtx c (f (s.ctx c)) := rfl
theorem modArch_eq (c : Nat) (f : Arch → Arch) :
    s.modArch c f = s.setCtx c { s.ctx c with a := f (s.ctx c).a } := rfl
theorem modCore_eq (k : Nat) (f : Core → Core) : s.modCore k f = s.setCore k (f (s.core k)) := rfl
theorem modPort_eq (k : Nat) (f : Port → Port) : s.modPort k f = s.setPort k (f (s.port k)) := rfl
theorem modHbm_eq (k : Nat) (f : Hbm → Hbm) : s.modHbm k f = s.setHbm k (f (s.hbmAt k)) := rfl
theorem modQueue_eq (k : Nat) (f : Queue → Queue) : s.modQueue k f = s.setQueue k (f (s.queue k)) := rfl

/-- A result of the bundle in issue joins those in flight, and nothing else of the machine changes. -/
theorem push_eq (left : Nat) (wr : List Wr) (latch : Option (Nat × LatchVal)) (st : Word) :
    s.push left wr latch st = s.setCtx s.cur.ctx { s.here with a := { s.here.a with
      flight := s.here.a.flight ++ [⟨left, wr, latch, st⟩] } } := rfl

/-- A context that is written reads back, in a table in canonical form. -/
theorem setCtx_ctx_same (h : Tab.wf {} s.ctxs = true) (c : Nat) (x : Ctx) : (s.setCtx c x).ctx c = x :=
  Tab.get_set_same h
theorem setCtx_ctx_other (h : Tab.wf {} s.ctxs = true) {c d : Nat} (hd : d ≠ c) (x : Ctx) : (s.setCtx c x).ctx d = s.ctx d :=
  Tab.get_set_other h hd
/-- One that holds something reads back in every table. -/
theorem setCtx_ctx_ne (c : Nat) {x : Ctx} (hx : x ≠ {}) : (s.setCtx c x).ctx c = x := by
  simp only [State.ctx, setCtx_ctxs, Tab.set, hx, if_false, Tab.get_ins_same]
theorem setCtx_ctx_ne_other {c d : Nat} (hd : d ≠ c) {x : Ctx} (hx : x ≠ {}) : (s.setCtx c x).ctx d = s.ctx d := by
  simp only [State.ctx, setCtx_ctxs, Tab.set, hx, if_false, Tab.get_ins_other hd]

theorem setCtx_wf (h : Tab.wf {} s.ctxs = true) (c : Nat) (x : Ctx) : Tab.wf {} (s.setCtx c x).ctxs = true :=
  Tab.wf_set h

@[simp] theorem setCtx_homeByte (c : Nat) (x : Ctx) (a : Nat) : (s.setCtx c x).homeByte a = s.homeByte a := rfl
@[simp] theorem setCtx_fabric (c : Nat) (x : Ctx) : (s.setCtx c x).fabric = s.fabric := rfl
@[simp] theorem setCtx_treeStale (c : Nat) (x : Ctx) : (s.setCtx c x).treeStale = s.treeStale := rfl
@[simp] theorem setCtx_fabCredit (c : Nat) (x : Ctx) : (s.setCtx c x).fabCredit = s.fabCredit := rfl
@[simp] theorem setCtx_fabCreditAt (c : Nat) (x : Ctx) : (s.setCtx c x).fabCreditAt = s.fabCreditAt := rfl
@[simp] theorem setCore_homeByte (k : Nat) (x : Core) (a : Nat) : (s.setCore k x).homeByte a = s.homeByte a := rfl
@[simp] theorem setCore_turn (k : Nat) (x : Core) : (s.setCore k x).turn = s.turn := rfl
@[simp] theorem setCore_now (k : Nat) (x : Core) : (s.setCore k x).now = s.now := rfl
@[simp] theorem setCore_spaces (k : Nat) (x : Core) : (s.setCore k x).spaces = s.spaces := rfl
@[simp] theorem setCore_tables (k : Nat) (x : Core) : (s.setCore k x).tables = s.tables := rfl
@[simp] theorem setCore_pins (k : Nat) (x : Core) : (s.setCore k x).pins = s.pins := rfl
@[simp] theorem setCore_leases (k : Nat) (x : Core) : (s.setCore k x).leases = s.leases := rfl
@[simp] theorem setCore_nextLease (k : Nat) (x : Core) : (s.setCore k x).nextLease = s.nextLease := rfl
@[simp] theorem setCore_grantsF3 (k : Nat) (x : Core) : (s.setCore k x).grantsF3 = s.grantsF3 := rfl
@[simp] theorem setCore_pageReqs (k : Nat) (x : Core) : (s.setCore k x).pageReqs = s.pageReqs := rfl
@[simp] theorem setCore_migrations (k : Nat) (x : Core) : (s.setCore k x).migrations = s.migrations := rfl
@[simp] theorem setCore_rrQueue (k : Nat) (x : Core) : (s.setCore k x).rrQueue = s.rrQueue := rfl
@[simp] theorem setCore_wakes (k : Nat) (x : Core) : (s.setCore k x).wakes = s.wakes := rfl
@[simp] theorem setCore_overflow (k : Nat) (x : Core) : (s.setCore k x).overflow = s.overflow := rfl
@[simp] theorem setCore_launches (k : Nat) (x : Core) : (s.setCore k x).launches = s.launches := rfl
@[simp] theorem setCore_walks (k : Nat) (x : Core) : (s.setCore k x).walks = s.walks := rfl
@[simp] theorem setCore_reservations (k : Nat) (x : Core) : (s.setCore k x).reservations = s.reservations := rfl
@[simp] theorem setCore_nextSaved (k : Nat) (x : Core) : (s.setCore k x).nextSaved = s.nextSaved := rfl
@[simp] theorem setCore_nextTask (k : Nat) (x : Core) : (s.setCore k x).nextTask = s.nextTask := rfl
@[simp] theorem setCore_suspended (k : Nat) (x : Core) : (s.setCore k x).suspended = s.suspended := rfl
@[simp] theorem setCore_ordNet (k : Nat) (x : Core) : (s.setCore k x).ordNet = s.ordNet := rfl
@[simp] theorem setCore_reductions (k : Nat) (x : Core) : (s.setCore k x).reductions = s.reductions := rfl
@[simp] theorem setCore_hbm (k : Nat) (x : Core) : (s.setCore k x).hbm = s.hbm := rfl
@[simp] theorem setCore_badLines (k : Nat) (x : Core) : (s.setCore k x).badLines = s.badLines := rfl
@[simp] theorem setCore_rowthr (k : Nat) (x : Core) : (s.setCore k x).rowthr = s.rowthr := rfl
@[simp] theorem setCore_modid (k : Nat) (x : Core) : (s.setCore k x).modid = s.modid := rfl
@[simp] theorem setCore_ports (k : Nat) (x : Core) : (s.setCore k x).ports = s.ports := rfl
@[simp] theorem setCore_spareFor (k : Nat) (x : Core) : (s.setCore k x).spareFor = s.spareFor := rfl
@[simp] theorem setCore_fabric (k : Nat) (x : Core) : (s.setCore k x).fabric = s.fabric := rfl
@[simp] theorem setCore_treeStale (k : Nat) (x : Core) : (s.setCore k x).treeStale = s.treeStale := rfl
@[simp] theorem setCore_escape0 (k : Nat) (x : Core) : (s.setCore k x).escape0 = s.escape0 := rfl
@[simp] theorem setCore_escape1 (k : Nat) (x : Core) : (s.setCore k x).escape1 = s.escape1 := rfl
@[simp] theorem setCore_epoch (k : Nat) (x : Core) : (s.setCore k x).epoch = s.epoch := rfl
@[simp] theorem setCore_windows (k : Nat) (x : Core) : (s.setCore k x).windows = s.windows := rfl
@[simp] theorem setCore_fabCredit (k : Nat) (x : Core) : (s.setCore k x).fabCredit = s.fabCredit := rfl
@[simp] theorem setCore_fabCreditAt (k : Nat) (x : Core) : (s.setCore k x).fabCreditAt = s.fabCreditAt := rfl
@[simp] theorem setCore_delivered (k : Nat) (x : Core) : (s.setCore k x).delivered = s.delivered := rfl
@[simp] theorem setCore_nextXid (k : Nat) (x : Core) : (s.setCore k x).nextXid = s.nextXid := rfl
@[simp] theorem setCore_funcs (k : Nat) (x : Core) : (s.setCore k x).funcs = s.funcs := rfl
@[simp] theorem setCore_aperture (k : Nat) (x : Core) : (s.setCore k x).aperture = s.aperture := rfl
@[simp] theorem setCore_peers (k : Nat) (x : Core) : (s.setCore k x).peers = s.peers := rfl
@[simp] theorem setCore_nalvel (k : Nat) (x : Core) : (s.setCore k x).nalvel = s.nalvel := rfl
@[simp] theorem setCore_meas (k : Nat) (x : Core) : (s.setCore k x).meas = s.meas := rfl
@[simp] theorem setCore_spdm (k : Nat) (x : Core) : (s.setCore k x).spdm = s.spdm := rfl
@[simp] theorem setCore_snapseq (k : Nat) (x : Core) : (s.setCore k x).snapseq = s.snapseq := rfl
@[simp] theorem setCore_eccCount (k : Nat) (x : Core) : (s.setCore k x).eccCount = s.eccCount := rfl
@[simp] theorem setCore_dataErrors (k : Nat) (x : Core) : (s.setCore k x).dataErrors = s.dataErrors := rfl
@[simp] theorem setCore_rerunsAgreed (k : Nat) (x : Core) : (s.setCore k x).rerunsAgreed = s.rerunsAgreed := rfl
@[simp] theorem setCore_retirements (k : Nat) (x : Core) : (s.setCore k x).retirements = s.retirements := rfl
@[simp] theorem setCore_dataFaults (k : Nat) (x : Core) : (s.setCore k x).dataFaults = s.dataFaults := rfl
@[simp] theorem setCore_power (k : Nat) (x : Core) : (s.setCore k x).power = s.power := rfl
@[simp] theorem modCur_homeByte (f : Cur → Cur) (a : Nat) : (s.modCur f).homeByte a = s.homeByte a := rfl
@[simp] theorem modCur_turn (f : Cur → Cur) : (s.modCur f).turn = s.turn := rfl
@[simp] theorem modCur_now (f : Cur → Cur) : (s.modCur f).now = s.now := rfl
@[simp] theorem modCur_spaces (f : Cur → Cur) : (s.modCur f).spaces = s.spaces := rfl
@[simp] theorem modCur_tables (f : Cur → Cur) : (s.modCur f).tables = s.tables := rfl
@[simp] theorem modCur_pins (f : Cur → Cur) : (s.modCur f).pins = s.pins := rfl
@[simp] theorem modCur_leases (f : Cur → Cur) : (s.modCur f).leases = s.leases := rfl
@[simp] theorem modCur_nextLease (f : Cur → Cur) : (s.modCur f).nextLease = s.nextLease := rfl
@[simp] theorem modCur_grantsF3 (f : Cur → Cur) : (s.modCur f).grantsF3 = s.grantsF3 := rfl
@[simp] theorem modCur_pageReqs (f : Cur → Cur) : (s.modCur f).pageReqs = s.pageReqs := rfl
@[simp] theorem modCur_migrations (f : Cur → Cur) : (s.modCur f).migrations = s.migrations := rfl
@[simp] theorem modCur_rrQueue (f : Cur → Cur) : (s.modCur f).rrQueue = s.rrQueue := rfl
@[simp] theorem modCur_wakes (f : Cur → Cur) : (s.modCur f).wakes = s.wakes := rfl
@[simp] theorem modCur_overflow (f : Cur → Cur) : (s.modCur f).overflow = s.overflow := rfl
@[simp] theorem modCur_launches (f : Cur → Cur) : (s.modCur f).launches = s.launches := rfl
@[simp] theorem modCur_walks (f : Cur → Cur) : (s.modCur f).walks = s.walks := rfl
@[simp] theorem modCur_reservations (f : Cur → Cur) : (s.modCur f).reservations = s.reservations := rfl
@[simp] theorem modCur_nextSaved (f : Cur → Cur) : (s.modCur f).nextSaved = s.nextSaved := rfl
@[simp] theorem modCur_nextTask (f : Cur → Cur) : (s.modCur f).nextTask = s.nextTask := rfl
@[simp] theorem modCur_suspended (f : Cur → Cur) : (s.modCur f).suspended = s.suspended := rfl
@[simp] theorem modCur_ordNet (f : Cur → Cur) : (s.modCur f).ordNet = s.ordNet := rfl
@[simp] theorem modCur_reductions (f : Cur → Cur) : (s.modCur f).reductions = s.reductions := rfl
@[simp] theorem modCur_hbm (f : Cur → Cur) : (s.modCur f).hbm = s.hbm := rfl
@[simp] theorem modCur_badLines (f : Cur → Cur) : (s.modCur f).badLines = s.badLines := rfl
@[simp] theorem modCur_rowthr (f : Cur → Cur) : (s.modCur f).rowthr = s.rowthr := rfl
@[simp] theorem modCur_modid (f : Cur → Cur) : (s.modCur f).modid = s.modid := rfl
@[simp] theorem modCur_ports (f : Cur → Cur) : (s.modCur f).ports = s.ports := rfl
@[simp] theorem modCur_spareFor (f : Cur → Cur) : (s.modCur f).spareFor = s.spareFor := rfl
@[simp] theorem modCur_fabric (f : Cur → Cur) : (s.modCur f).fabric = s.fabric := rfl
@[simp] theorem modCur_treeStale (f : Cur → Cur) : (s.modCur f).treeStale = s.treeStale := rfl
@[simp] theorem modCur_escape0 (f : Cur → Cur) : (s.modCur f).escape0 = s.escape0 := rfl
@[simp] theorem modCur_escape1 (f : Cur → Cur) : (s.modCur f).escape1 = s.escape1 := rfl
@[simp] theorem modCur_epoch (f : Cur → Cur) : (s.modCur f).epoch = s.epoch := rfl
@[simp] theorem modCur_windows (f : Cur → Cur) : (s.modCur f).windows = s.windows := rfl
@[simp] theorem modCur_fabCredit (f : Cur → Cur) : (s.modCur f).fabCredit = s.fabCredit := rfl
@[simp] theorem modCur_fabCreditAt (f : Cur → Cur) : (s.modCur f).fabCreditAt = s.fabCreditAt := rfl
@[simp] theorem modCur_delivered (f : Cur → Cur) : (s.modCur f).delivered = s.delivered := rfl
@[simp] theorem modCur_nextXid (f : Cur → Cur) : (s.modCur f).nextXid = s.nextXid := rfl
@[simp] theorem modCur_funcs (f : Cur → Cur) : (s.modCur f).funcs = s.funcs := rfl
@[simp] theorem modCur_aperture (f : Cur → Cur) : (s.modCur f).aperture = s.aperture := rfl
@[simp] theorem modCur_peers (f : Cur → Cur) : (s.modCur f).peers = s.peers := rfl
@[simp] theorem modCur_nalvel (f : Cur → Cur) : (s.modCur f).nalvel = s.nalvel := rfl
@[simp] theorem modCur_meas (f : Cur → Cur) : (s.modCur f).meas = s.meas := rfl
@[simp] theorem modCur_spdm (f : Cur → Cur) : (s.modCur f).spdm = s.spdm := rfl
@[simp] theorem modCur_snapseq (f : Cur → Cur) : (s.modCur f).snapseq = s.snapseq := rfl
@[simp] theorem modCur_eccCount (f : Cur → Cur) : (s.modCur f).eccCount = s.eccCount := rfl
@[simp] theorem modCur_dataErrors (f : Cur → Cur) : (s.modCur f).dataErrors = s.dataErrors := rfl
@[simp] theorem modCur_rerunsAgreed (f : Cur → Cur) : (s.modCur f).rerunsAgreed = s.rerunsAgreed := rfl
@[simp] theorem modCur_retirements (f : Cur → Cur) : (s.modCur f).retirements = s.retirements := rfl
@[simp] theorem modCur_dataFaults (f : Cur → Cur) : (s.modCur f).dataFaults = s.dataFaults := rfl
@[simp] theorem modCur_power (f : Cur → Cur) : (s.modCur f).power = s.power := rfl

@[simp] theorem setCtx_staged (c : Nat) (x : Ctx) : (s.setCtx c x).staged = s.staged := rfl
@[simp] theorem setCtx_withheld (c : Nat) (x : Ctx) : (s.setCtx c x).withheld = s.withheld := rfl
@[simp] theorem setCtx_under (c : Nat) (x : Ctx) : (s.setCtx c x).under = s.under := rfl
@[simp] theorem setCore_staged (k : Nat) (x : Core) : (s.setCore k x).staged = s.staged := rfl
@[simp] theorem setCore_withheld (k : Nat) (x : Core) : (s.setCore k x).withheld = s.withheld := rfl
@[simp] theorem setCore_under (k : Nat) (x : Core) : (s.setCore k x).under = s.under := rfl
@[simp] theorem modCur_staged (f : Cur → Cur) : (s.modCur f).staged = s.staged := rfl
@[simp] theorem modCur_withheld (f : Cur → Cur) : (s.modCur f).withheld = s.withheld := rfl
@[simp] theorem modCur_under (f : Cur → Cur) : (s.modCur f).under = s.under := rfl

end Sys2Proof.Machine
end

