-- ==== Sys2Proof/Laws/Ops.lean ====
section
/-! SUPPORT. Laws/Ops.lean: one lemma for each shared operation of the meanings, which says once what it answers: a slot's
outcome, operands, checks, results, held effects, loads, and control transfer. -/

namespace Sys2Proof.Machine

/-! ## A slot's outcome (R258, R259, R276) -/

theorem slot_ok {s t : State} {i : Instr} (h : s.Acts i) : s.slot i (.ok t) = .next t := by
  unfold State.slot; rw [if_neg (by simp [h])]

theorem slot_nullified {s : State} {i : Instr} {r : Res State} (h : s.nullified s.cur.slot i = true) :
    s.slot i r = .next (if popsWord i then s.popWord else s) := by
  unfold State.slot; rw [if_pos h]

theorem slot_fault {s : State} {i : Instr} {f : FaultRec} (h : s.Acts i) :
    s.slot i (.error f) =
      .next { s.takeFault s.cur.ctx f with cur := { (s.takeFault s.cur.ctx f).cur with raised := some f } } := by
  unfold State.slot; rw [if_neg (by simp [h])]

/-- A slot always answers a next state: nothing or a word popped when it is nullified, its effect, or a fault taken. -/
theorem slot_cases (s : State) (i : Instr) (r : Res State) :
    (s.nullified s.cur.slot i = true ∧ s.slot i r = .next (if popsWord i then s.popWord else s)) ∨
    (s.Acts i ∧ ∃ t, r = .ok t ∧ s.slot i r = .next t) ∨
    (s.Acts i ∧ ∃ f, r = .error f ∧ s.slot i r =
      .next { s.takeFault s.cur.ctx f with cur := { (s.takeFault s.cur.ctx f).cur with raised := some f } }) := by
  cases h : s.nullified s.cur.slot i with
  | true => exact .inl ⟨rfl, slot_nullified h⟩
  | false =>
    cases r with
    | ok t => exact .inr (.inl ⟨h, t, rfl, slot_ok h⟩)
    | error f => exact .inr (.inr ⟨h, f, rfl, slot_fault h⟩)

/-! ## Operands and checks -/

theorem both_ok {α β : Type} {x : Res α} {y : Res β} {a : α} {b : β} (hx : x = .ok a) (hy : y = .ok b) :
    Res.both x y = .ok (a, b) := by subst hx; subst hy; rfl

theorem addrRR_ok {s : State} {a b : Src} {x y : Word} (hx : s.srcS a = .ok x) (hy : s.srcS b = .ok y) :
    s.addrRR a b = .ok (x + y).toNat := by unfold State.addrRR; rw [hx, hy]; rfl

theorem addrRI_ok {s : State} {n : Nat} {a : Src} {x : Word} {imm : BitVec n} (hx : s.srcS a = .ok x) :
    s.addrRI a imm = .ok (x + imm.signExtend 64).toNat := by unfold State.addrRI; rw [hx]; rfl

theorem addrV_ok {s : State} {a b : Src} {x y : Word} {off : BitVec 6} (hx : s.srcS a = .ok x) (hy : s.srcS b = .ok y) :
    s.addrV a b off = .ok (x + y + BitVec.ofNat 64 (32 * off.toNat)).toNat := by
  unfold State.addrV; rw [hx, hy]; rfl

theorem require_ok {s : State} {b : Bool} {n : Nat} (h : b = true) : s.require b n = .ok () := by
  unfold State.require; simp [h]

theorem checkSp_ok {s : State} {d : Dst} {v : Word} (h : s.SpOk d v) : s.checkSp d v = .ok () := by
  unfold State.checkSp
  rw [if_neg]
  rintro ⟨a, b⟩
  exact absurd (h a) (by omega)

/-- The checks of an access in their order (R97): it passes, or raises ALIGN, LEASE, or ALIGN for the page's type. -/
theorem checkMem_cases (s : State) (va n al : Nat) (need : Need) (nd nh : Bool) :
    (va % al = 0 ∧ s.here.task.leased va n need = true ∧ (nd = true → s.mtype va ≠ 1) ∧ (nh = true → s.mtype va ≠ 2) ∧
      s.checkMem va n al need nd nh = .ok ()) ∨
    (va % al ≠ 0 ∧ s.checkMem va n al need nd nh = .error (s.alignFault va al)) ∨
    (va % al = 0 ∧ s.here.task.leased va n need = false ∧
      s.checkMem va n al need nd nh = .error (s.leaseFault va n need.w)) ∨
    (va % al = 0 ∧ ((nd = true ∧ s.mtype va = 1) ∨ (nh = true ∧ s.mtype va = 2)) ∧
      s.checkMem va n al need nd nh = .error (s.alignFault va 0)) := by
  unfold State.checkMem
  by_cases h1 : va % al = 0
  · cases h2 : s.here.task.leased va n need with
    | false => exact .inr (.inr (.inl ⟨h1, rfl, by simp [h1]⟩))
    | true =>
      by_cases h3 : (nd = true ∧ s.mtype va = 1) ∨ (nh = true ∧ s.mtype va = 2)
      · exact .inr (.inr (.inr ⟨h1, h3, by simp [h1, h3]⟩))
      · exact .inl ⟨h1, rfl, fun a b => h3 (.inl ⟨a, b⟩), fun a b => h3 (.inr ⟨a, b⟩), by simp [h1, h3]⟩
  · exact .inr (.inl ⟨h1, by simp [h1]⟩)

theorem checkMem_ok {s : State} {va n al : Nat} {need : Need} {nd nh : Bool} (h1 : va % al = 0)
    (h2 : s.here.task.leased va n need = true) (h3 : nd = true → s.mtype va ≠ 1) (h4 : nh = true → s.mtype va ≠ 2) :
    s.checkMem va n al need nd nh = .ok () := by
  rcases checkMem_cases s va n al need nd nh with h | ⟨h, -⟩ | ⟨-, h, -⟩ | ⟨-, ⟨a, b⟩ | ⟨a, b⟩, -⟩
  · exact h.2.2.2.2
  · exact absurd h1 h
  · simp [h] at h2
  · exact absurd b (h3 a)
  · exact absurd b (h4 a)

/-! ## Results, held effects, loads: each changes the context in issue alone -/

theorem push_withFlight (s : State) (left : Nat) (wr : List Wr) (latch : Option (Nat × LatchVal)) (st : Word) :
    s.push left wr latch st = s.withFlight ⟨left, wr, latch, st⟩ := rfl

theorem putS_withFlight (s : State) (u : Nat) (d : Dst) (left : Nat) (v st : Word) :
    s.putS u d left v st = s.withFlight (resultS u d left v st) := rfl

theorem putFlag_withFlight (s : State) (d : BitVec 6) (v : Bool) (st : Word) :
    s.putFlag d v st = s.withFlight ⟨1, [.c (d.toNat % 8) v], none, st⟩ := rfl

theorem hold_withHeld (s : State) (e : Eff) : s.hold e = s.withHeld e := rfl

theorem addLoad_eq (s : State) (o : Outst) :
    s.addLoad o = s.setCtx s.cur.ctx { s.here with loads := s.here.loads ++ [o] } := rfl

theorem issueLoad_ok {s t : State} {va n : Nat} {hint : Hint} {acq : Option (Scope × BitVec 4)} {wr : List Byte → Wr}
    {bytes : List Byte} (h : s.mtype va ≠ 1) (hl : s.loadBytes va n hint acq = (t, .ok bytes)) :
    s.issueLoad va n hint acq wr = t.addLoad { wr := wr bytes, pc := t.pc, va := BitVec.ofNat 64 va, size := n, ext := false, bad := none } := by
  unfold State.issueLoad; simp only [h, if_false, hl]

theorem issueLoad_bad {s t : State} {va n : Nat} {hint : Hint} {acq : Option (Scope × BitVec 4)} {wr : List Byte → Wr}
    {f : FaultRec} (h : s.mtype va ≠ 1) (hl : s.loadBytes va n hint acq = (t, .error f)) :
    s.issueLoad va n hint acq wr =
      t.addLoad { wr := wr (List.replicate n 0), pc := t.pc, va := BitVec.ofNat 64 va, size := n, ext := false
                  bad := some f } := by
  unfold State.issueLoad; simp only [h, if_false, hl]

/-! ## Control transfer (R108, R111) -/

theorem control_free {s : State} (h : s.NoDelay) (r : Res State) : s.control r = r := by
  unfold State.control; rw [if_pos h]

/-- In a delay position no control-flow instruction is performed: it raises 0x11, or an earlier detail of its slot. -/
theorem control_delay {s : State} (h : ¬ s.NoDelay) (r : Res State) :
    s.control r = .error (s.illegal 0x11) ∨ ∃ f, r = .error f ∧ f.detail < 0x11 ∧ s.control r = .error f := by
  unfold State.control; rw [if_neg h]
  cases r with
  | ok t => exact .inl rfl
  | error f =>
    simp only
    split
    · next g => exact .inr ⟨f, rfl, g, rfl⟩
    · exact .inl rfl

theorem steered_own {s : State} (h : (s.here.task.inEsp && !s.here.task.isLead) = false) (own : Steer) :
    s.steered own = own := by unfold State.steered; simp [h]

/-! ## Taking a fault (R276) -/

theorem takeFault_handler {s : State} {c : Nat} {f : FaultRec} (h : s.hasHandler c = true) :
    s.takeFault c f = s.enterTrap c f (s.ctx c).a.pc := by unfold State.takeFault; rw [if_pos h]

theorem takeFault_end {s : State} {c : Nat} {f : FaultRec} (h : s.hasHandler c = false) :
    s.takeFault c f = s.endByFault c f := by unfold State.takeFault; simp [h]

end Sys2Proof.Machine
end

