-- ==== Sys2Proof/Tests/Slice0.lean ====
section
/-! SUPPORT. Tests/Slice0.lean: checks of the decoder against words that the spec writes out, of well-formedness against an
ill-formed term for each of its checks, of results that the spec works out, and a state and operands that meet the
hypotheses of each statement. -/

namespace Sys2Proof.Tests

open Sys2Proof Sys2Proof.Machine

set_option Elab.async false

/-! ## Well-formedness: each check refuses a term, by its detail (Tables 2.15, 8.5) -/

theorem test_wellformed_refuses_scalar :
    ∀ p ∈ [(Instr.add (.reg 1) (.latch 1 false) (.reg 2), 0x0D), (.add (.reg 1) (.bad 40) (.reg 2), 0x08),
      (.add (.bad 3) (.reg 1) (.reg 2), 0x09), (.fma .drop (.reg 1) (.reg 2), 0x09), (.cmpeq 8 (.reg 1) (.reg 2), 0x08),
      (.fcvt (.reg 1) (.reg 2) 9, 0x08), (.movg 16 (.reg 1), 0x08), (.movg 32 (.reg 1), 0x09), (.crd (.reg 1) 0x00C, 0x08),
      (.trn 0 true true 0, 0x03), (.trn 0 false false 4, 0x08), (.loop 6 (.reg 1) 0, 0x08), (.pbr 4 (.reg 1) 0, 0x08),
      (.pand false 8 0 0, 0x08), (.st (.reg 1) (.reg 2) (.reg 3) ⟨.acquire, .die, 0, .normal, .b8⟩, 0x08),
      (.ld (.reg 1) (.reg 2) (.reg 3) ⟨.acquire, .res6, 0, .normal, .b8⟩, 0x08),
      (.ld (.reg 1) (.reg 2) (.reg 3) ⟨.plain, .ctx, 0, .res 0, .b8⟩, 0x08),
      (.ld (.reg 1) (.reg 2) (.reg 3) ⟨.plain, .ctx, 0, .normal, .res 1⟩, 0x08),
      (.ld (.reg 1) (.reg 2) (.reg 3) ⟨.plain, .die, 0, .normal, .b8⟩, 0x08),
      (.spld (.reg 1) (.reg 2) (.reg 3) (.res 0), 0x08)], p.2 ∈ p.1.wfDetails := by decide +kernel

theorem test_wellformed_refuses_other_slots :
    ∀ p ∈ [(Instr.vbcast (.reg 1) (.latch 2 true) 0 0, 0x08), (.vmov (.reg 1) (.bad 63) 0, 0x08),
      (.vsel (.reg 1) (.reg 2) (.reg 3) 16 0, 0x08), (.vshuf (.reg 1) (.reg 2) (.reg 3) 4 0 0, 0x08),
      (.vcvt (.reg 1) (.reg 2) 2 0 0, 0x08), (.vcvt (.reg 1) (.reg 2) 0 24 0, 0x08),
      (.vqnt .sx4 (.reg 1) (.reg 2) 0 3 false 0 0, 0x08), (.vdq .sx4 (.reg 1) (.reg 2) 8 0 0 0, 0x08),
      (.vext .drop (.reg 1) (.reg 2) 0 false, 0x09), (.macc .sx2 .sx4 false 0 0, 0x0A), (.mpush 9 0, 0x08),
      (.mdrain 7 false false 0 0, 0x08), (.mdrain 0 false false 8 0, 0x08), (.mload false 0 6, 0x08),
      (.mdrainq 2 false false 0 0, 0x08), (.cpy ⟨0, 14, 0, false, false⟩, 0x13), (.put ⟨0, 12, 0, false, false⟩, 0x13),
      (.esld 11 (.reg 1) 0, 0x08), (.oadd (.reg 1) (.reg 2) (.reg 3) ⟨.acquire, .die, 0⟩, 0x08),
      (.aadd (.reg 1) (.reg 2) (.reg 3) ⟨.plain, .die, 0⟩, 0x08), (.aadd (.reg 1) (.reg 2) (.reg 3) ⟨.release, .res7, 0⟩, 0x08),
      (.spawn false (.reg 1) (.reg 2), 0x03), (.dld (.special .zero) 0 0, 0x08), (.dld (.reg 1) 511 1, 0x0C)],
      p.2 ∈ p.1.wfDetails := by decide +kernel

/-- Header checks: profile 13 (0x05), width code 3 (0x04), a set reserved bit and a width beside a V NOP (0x03); a packet
of no tokens (0x0B). -/
theorem test_bundle_checks :
    (0, 0x05) ∈ bundleDetails (0x0680000000000000 <<< 192) ∧ (0, 0x04) ∈ bundleDetails (0x0060000000000000 <<< 192) ∧
    (0, 0x03) ∈ bundleDetails (0x0000000100000000 <<< 192) ∧ (2, 0x03) ∈ bundleDetails (0x0020000000000000 <<< 192) ∧
    (15, 0x0B) ∈ packetDetails (0x4000000000000000 <<< 192) := by decide +kernel

/-! ## Decoding: words that the spec writes out -/

/-- The whole bundle of R80's example, well-formed, and the token packet of R69's. -/
theorem test_decode_bundle :
    let w : BitVec 256 := 0x01A00000_80082000_20682041_80000000_00000000_00000000_00000000_00000000
    let p : BitVec 256 := 0x4C000284_02880300_00000000_00000000_00000000_00000000_00000000_00000000
    bundleDetails w = [] ∧ (readBundle w).slots.take 2 = [(1, .addi (.reg 1) (.reg 1) 32),
      (2, .vfadd .f32 (.reg 4) (.reg 2) (.reg 3) 0)] ∧ (readBundle w).profile = 3 ∧ (readBundle w).w0 = 512 ∧
    isPacket p = true ∧ tokenCount p = 3 ∧ packetDetails p = [] ∧
    (List.range 3).map (fun j => decodeAt .token (tokenAt p j).toNat) =
      [some (.token 5 4), some (.token 5 8), some (.token 6 0)] := by decide +kernel

/-- PLOG (Table 2.9): `pandn c3, c1, c2` has operation 4 in bits 15 to 13; codes 6 and 7 are unassigned. -/
theorem test_decode_plog :
    decodeAt .plog 0x8312 = some (.pandn false 3 1 2) ∧ decodeAt .plog 0x3A5F = some (.pand true 10 5 15) ∧
    decodeAt .plog 0x4012 = some (.por false 0 1 2) ∧ decodeAt .plog 0x7F01 = some (.pxor true 15 0 1) ∧
    decodeAt .plog 0xA750 = some (.pnot false 7 5) ∧ decodeAt .plog 0xC000 = none ∧
    (readBundle (0x2000000000000000 <<< 192)).ckpt = true := by decide +kernel

theorem test_decode_scalar :
    decodeAt .s 0x92113FFFFB = some (.cmplti 2 (.reg 9) (BitVec.ofInt 21 (-5))) ∧
    decodeAt .s 0xA210200000 = some (.trn 2 false false 1) ∧
    decodeAt .s 0xA4070001A0 = some (.call (.special .pc) 0x1A0) ∧ decodeAt .s 0x4800000000 = none := by decide +kernel

theorem test_decode_vector :
    decodeAt .v 0x7A4021106 = some (.vfma .f32 (.reg 8) (.reg 1) (.reg 2) (.reg 8) 3) ∧
    decodeAt .v 0xC230A0840 = some (.vcvt (.reg 6) (.reg 5) 1 2 0) ∧
    decodeAt .v 0x5E1038000 = some (.vcmplt .w32 2 (.reg 1) (.special .zero) 0) ∧
    decodeAt .v 0x662600840 = some (.vsel (.reg 4) (.special .zero) (.reg 1) 2 0) := by decide +kernel

theorem test_decode_matrix :
    decodeAt .m 0x190020 = some (.macc .sx4 .sx4 false 0 1) ∧ decodeAt .m 0x526800 = some (.mdrain 1 true true 4 0) := by
  decide +kernel

theorem test_decode_copy :
    decodeAt .c 0x1B450 = some (.cmcast ⟨3, 4, 5, false, false⟩) ∧ decodeAt .c 0x3A810 = some (.put ⟨2, 8, 1, false, false⟩) ∧
    decodeAt .c 0x43820 = some (.get ⟨3, 8, 2, false, false⟩) ∧ decodeAt .c 0x48810 = some (.radd ⟨0, 8, 1, false, false⟩) := by
  decide +kernel

theorem test_decode_flags :
    decodeAt .y 0x1383 = some (.fwaitAcq 3 3) ∧ decodeAt .y 0x2102 = some (.fpost 1 2) ∧
    decodeAt .y 0x2181 = some (.fpostRel 1 0 1) ∧ decodeAt .y 0x3300 = some (.fclr 3) ∧
    decodeAt .y 0x4301 = some (.finc 3 1) ∧ decodeAt .y 0x500F = some (.fbar 0 15) := by decide +kernel

theorem test_decode_x_addresses :
    decodeAt .x 0x0A508000 = some (.esld 10 (.reg 4) 0) ∧ decodeAt .x 0x08200000 = some (.rbpop (.reg 4)) ∧
    decodeAt .x 0x50000005 = some (.trap 5) ∧ decodeAt .x 0x52000000 = some .eret ∧
    decodeAt .x 0x4020A300 = some (.mwait (.reg 4) (.reg 5) (.reg 6)) := by decide +kernel

theorem test_decode_x_atomics :
    decodeAt .x 0x1C49186D = some (.aor (.reg 9) (.reg 8) (.special .zero) ⟨.acqRel, .die, 1⟩) ∧
    decodeAt .x 0x1000A304 = some (.aaddU (.reg 5) (.reg 6)) ∧
    decodeAt .x 0x28182100 = some (.ofadd (.reg 3) (.reg 1) (.reg 2) ⟨.plain, .ctx, 0⟩) := by decide +kernel

theorem test_decode_x_tasks :
    decodeAt .x 0x3620C380 = some (.tkt (.reg 4) (.reg 6) (.reg 7)) ∧
    decodeAt .x 0x38288301 = some (.qpushT (.reg 5) (.reg 4) (.reg 6)) ∧
    decodeAt .x 0x30A20001 = some (.spawn true (.reg 20) (.reg 16)) ∧ decodeAt .x 0x32000000 = some .join ∧
    decodeAt .x 0x34000000 = some .exit ∧ decodeAt .x 0x48308280 = some (.invl (.reg 6) (.reg 4) (.reg 5)) ∧
    decodeAt .x 0x48300001 = some (.invlAll (.reg 6)) ∧ decodeAt .x 0x4A388000 = some (.probe (.reg 7) (.reg 4)) := by
  decide +kernel

/-! ## A word for every other instruction, its fields placed by hand by Tables 2.3 to 2.6 and 2.16 -/

theorem test_words_scalar_registers :
    ∀ p ∈ [(0x218210000, Instr.add (.reg 3) (.reg 1) (.reg 2)), (0x418210000, .sub (.reg 3) (.reg 1) (.reg 2)),
      (0x618210000, .and (.reg 3) (.reg 1) (.reg 2)), (0x818210000, .or (.reg 3) (.reg 1) (.reg 2)),
      (0xA18210000, .xor (.reg 3) (.reg 1) (.reg 2)), (0xC18210000, .shl (.reg 3) (.reg 1) (.reg 2)),
      (0xE18210000, .shr (.reg 3) (.reg 1) (.reg 2)), (0x1018210000, .asr (.reg 3) (.reg 1) (.reg 2)),
      (0x1218210000, .mul (.reg 3) (.reg 1) (.reg 2)), (0x1418210000, .mulh (.reg 3) (.reg 1) (.reg 2)),
      (0x1618210000, .min (.reg 3) (.reg 1) (.reg 2)), (0x1818210000, .max (.reg 3) (.reg 1) (.reg 2)),
      (0x2618210000, .fadd (.reg 3) (.reg 1) (.reg 2)), (0x2818210000, .fsub (.reg 3) (.reg 1) (.reg 2)),
      (0x2A18210000, .fmul (.reg 3) (.reg 1) (.reg 2)), (0x2C18210000, .fma (.reg 3) (.reg 1) (.reg 2)),
      (0x2E18210000, .fdiv (.reg 3) (.reg 1) (.reg 2)), (0x1418210001, .mulhN64 (.reg 3) (.reg 1) (.reg 2)),
      (0x1A18210000, .cmpeq 3 (.reg 1) (.reg 2)), (0x1C18210000, .cmpne 3 (.reg 1) (.reg 2)),
      (0x1E18210000, .cmplt 3 (.reg 1) (.reg 2)), (0x2018210000, .cmple 3 (.reg 1) (.reg 2)),
      (0x2218210000, .cmpltn 3 (.reg 1) (.reg 2)), (0x3218210000, .fcmpeq 3 (.reg 1) (.reg 2)),
      (0x3418210000, .fcmplt 3 (.reg 1) (.reg 2)), (0x3618210000, .fcmple 3 (.reg 1) (.reg 2)),
      (0x2418210005, .sel (.reg 3) (.reg 1) (.reg 2) 5), (0x3018200000, .fsqrt (.reg 3) (.reg 1)),
      (0x3818200007, .fcvt (.reg 3) (.reg 1) 7)],
      decodeAt .s p.1 = some p.2 ∧ encode p.2 = (.s, p.1) := by decide +kernel

theorem test_words_scalar_forms :
    ∀ p ∈ [(0x3A18212D4A, Instr.ld (.reg 3) (.reg 1) (.reg 2) ⟨.acquire, .die, 5, .noalloc, .b4⟩),
      (0x3D20215043, .st (.latch 2 false) (.reg 1) (.reg 2) ⟨.release, .module, 1, .normal, .b8⟩),
      (0x3F00210001, .spld .drop (.reg 1) (.reg 2) .b2), (0x4018210000, .spst (.reg 3) (.reg 1) (.reg 2) .b1),
      (0x4248200000, .movg 9 (.reg 1)), (0x4418000000, .pkc (.reg 3)), (0x4600200000, .upc (.reg 1)),
      (0x8018212345, .addi (.reg 3) (.reg 1) 0x12345), (0x8218212345, .andi (.reg 3) (.reg 1) 0x12345),
      (0x8418212345, .ori (.reg 3) (.reg 1) 0x12345), (0x9418212345, .ldi (.reg 3) (.reg 1) 0x12345),
      (0x9618212345, .sti (.reg 3) (.reg 1) 0x12345), (0x9818212345, .spldi (.reg 3) (.reg 1) 0x12345),
      (0x9A18212345, .spsti (.reg 3) (.reg 1) 0x12345), (0x8618200021, .shli (.reg 3) (.reg 1) 33),
      (0x8818200021, .shri (.reg 3) (.reg 1) 33), (0x8A18200021, .asri (.reg 3) (.reg 1) 33),
      (0x8C181FFFFF, .movi (.reg 3) 0x1FFFFF), (0x8E1822BEEF, .movhi (.reg 3) (.reg 1) 0xBEEF 2),
      (0x9018200009, .cmpeqi 3 (.reg 1) 9), (0x9C18000030, .crd (.reg 3) 0x30), (0x9E00200010, .cwr (.reg 1) 0x10),
      (0xA0183FFFE0, .pbr 3 (.reg 1) 0x1FFFE0), (0xA618200040, .loop 3 (.reg 1) 0x40), (0xA800000000, .lend),
      (0x0, .snop)],
      decodeAt .s p.1 = some p.2 ∧ encode p.2 = (.s, p.1) := by decide +kernel

theorem test_words_vector_elements :
    ∀ p ∈ [(0x62021006, Instr.vadd .w32 (.reg 4) (.reg 1) (.reg 2) 3),
      (0xA2021006, .vsub .w16 (.reg 4) (.reg 1) (.reg 2) 3), (0xE2021006, .vadds .w8 (.reg 4) (.reg 1) (.reg 2) 3),
      (0x182021006, .vsubs .w32 (.reg 4) (.reg 1) (.reg 2) 3),
      (0x1C2021006, .vmul .w32 (.reg 4) (.reg 1) (.reg 2) 3),
      (0x1E2021006, .vmulh .w16 (.reg 4) (.reg 1) (.reg 2) 3),
      (0x242021006, .vmin .w16 (.reg 4) (.reg 1) (.reg 2) 3), (0x282021006, .vmax .w8 (.reg 4) (.reg 1) (.reg 2) 3),
      (0x322021006, .vminn .w32 (.reg 4) (.reg 1) (.reg 2) 3),
      (0x362021006, .vmaxn .w16 (.reg 4) (.reg 1) (.reg 2) 3),
      (0x462021006, .vshl .w32 (.reg 4) (.reg 1) (.reg 2) 3), (0x482021006, .vshr .w8 (.reg 4) (.reg 1) (.reg 2) 3),
      (0x502021006, .vasr .w16 (.reg 4) (.reg 1) (.reg 2) 3), (0x3A2021006, .vand (.reg 4) (.reg 1) (.reg 2) 3),
      (0x3C2021006, .vor (.reg 4) (.reg 1) (.reg 2) 3), (0x3E2021006, .vxor (.reg 4) (.reg 1) (.reg 2) 3),
      (0x402020006, .vnot (.reg 4) (.reg 1) 3), (0x562021006, .vcmpeq .w16 4 (.reg 1) (.reg 2) 3),
      (0x622021006, .vcmpltn .w16 4 (.reg 1) (.reg 2) 3), (0x6A2021006, .vfadd .f16 (.reg 4) (.reg 1) (.reg 2) 3),
      (0x722021006, .vfsub .bf16 (.reg 4) (.reg 1) (.reg 2) 3),
      (0x742021006, .vfmul .f32 (.reg 4) (.reg 1) (.reg 2) 3),
      (0x842021006, .vfmin .bf16 (.reg 4) (.reg 1) (.reg 2) 3),
      (0x882021006, .vfmax .f16 (.reg 4) (.reg 1) (.reg 2) 3), (0x8C2021006, .vfcmpeq .f32 4 (.reg 1) (.reg 2) 3),
      (0x942021006, .vfcmplt .f16 4 (.reg 1) (.reg 2) 3), (0x9C2021006, .vfcmple .bf16 4 (.reg 1) (.reg 2) 3)],
      decodeAt .v p.1 = some p.2 ∧ encode p.2 = (.v, p.1) := by decide +kernel

theorem test_words_vector_functions :
    ∀ p ∈ [(0x9E2020006, Instr.vfrcp (.reg 4) (.reg 1) 3), (0xA02020006, .vfrsq (.reg 4) (.reg 1) 3),
      (0xA22020006, .vfexp2 (.reg 4) (.reg 1) 3), (0xA42020006, .vflog2 (.reg 4) (.reg 1) 3),
      (0xA62020006, .vftanh (.reg 4) (.reg 1) 3), (0xA82020006, .vfsigm (.reg 4) (.reg 1) 3),
      (0xAA2021026, .vperm (.reg 4) (.reg 1) (.reg 2) 1 3), (0xAC2021126, .vshuf (.reg 4) (.reg 1) (.reg 2) 2 1 3),
      (0xAE2021046, .vrot (.reg 4) (.reg 1) (.reg 2) 2 3), (0xB02020046, .vbcast (.reg 4) (.reg 1) 2 3),
      (0xB42020006, .vrdsum .i32 (.reg 4) (.reg 1) 3), (0xB62020006, .vrdmax .f32 (.reg 4) (.reg 1) 3),
      (0xBC2020006, .vrdmin .i32 (.reg 4) (.reg 1) 3), (0xBE2020006, .vscan .f32 (.reg 4) (.reg 1) 3)],
      decodeAt .v p.1 = some p.2 ∧ encode p.2 = (.v, p.1) := by decide +kernel

theorem test_words_vector_moves :
    ∀ p ∈ [(0xC62020DC6, Instr.vqnt .sx4 (.reg 4) (.reg 1) 1 2 true 5 3),
      (0xCE2023B26, .vdq .sx8 (.reg 4) (.reg 1) 7 1 3 3), (0xD02021426, .vspld (.reg 4) (.reg 1) (.reg 2) 33 3),
      (0xD42021426, .vld (.reg 4) (.reg 1) (.reg 2) 33 3),
      (0xD31021046, .vspst (.latch 1 false) (.reg 1) (.reg 2) 2 3),
      (0xD71021046, .vst (.latch 1 false) (.reg 1) (.reg 2) 2 3), (0xD82021020, .vins (.reg 4) (.reg 1) (.reg 2) 1),
      (0xDA20210C0, .vext (.reg 4) (.reg 1) (.reg 2) 2 true), (0xDC2020006, .vany 4 1 3), (0xDE2020006, .vall 4 1 3),
      (0xE02020006, .vmov (.reg 4) (.reg 1) 3), (0xE02020026, .vmovExpand (.reg 4) 1 3),
      (0xE02020046, .vmovPack 4 (.reg 1) 3), (0xE22020046, .viota (.reg 4) 1 2 3), (0x0, .vnop)],
      decodeAt .v p.1 = some p.2 ∧ encode p.2 = (.v, p.1) := by decide +kernel

theorem test_words_array_forms :
    ∀ p ∈ [(0x106700, Instr.macc .e4m3 .e5m2 true 3 8), (0x2FD040, .mset .f16 .f16 false 8 2), (0x300240, .mpush 1 2),
      (0x44BE80, .mshift .int8 .int8 true 15 4), (0x540EA0, .mdrain 2 false false 7 5), (0x602000, .mzero true),
      (0x702C60, .mload true 6 3), (0x800000, .mswap), (0x9A4420, .mdrainq 5 true false 2 1), (0x0, .mnop)],
      decodeAt .m p.1 = some p.2 ∧ encode p.2 = (.m, p.1) := by decide +kernel

theorem test_words_copies :
    ∀ p ∈ [(0xA578, Instr.cpy ⟨2, 5, 7, true, false⟩), (0x12578, .cpyt ⟨2, 5, 7, true, false⟩),
      (0x22578, .cgath ⟨2, 5, 7, true, false⟩), (0x2A578, .cfill ⟨2, 5, 7, true, false⟩),
      (0x32578, .cpref ⟨2, 5, 7, true, false⟩), (0x1A574, .cmcast ⟨2, 5, 7, false, true⟩), (0x0, .cnop)],
      decodeAt .c p.1 = some p.2 ∧ encode p.2 = (.c, p.1) := by decide +kernel

theorem test_words_flags_rest :
    ∀ p ∈ [(0x167F, Instr.fwait 6 127), (0x26BA, .fpostRel 6 7 2), (0x0, .ynop)],
      decodeAt .y p.1 = some p.2 ∧ encode p.2 = (.y, p.1) := by decide +kernel

theorem test_words_atomics :
    ∀ p ∈ [(0x2182105, Instr.lea (.reg 3) (.reg 1) (.reg 2) 5), (0x4183FF8, .leai (.reg 3) (.reg 1) 0x1FF8),
      (0x6188008, .agen (.reg 3) 4 8), (0xC382040, .nld 7 (.reg 1) 64), (0xE283FC0, .nst 5 (.reg 1) 0x1FC0),
      (0x10182136, .aadd (.reg 3) (.reg 1) (.reg 2) ⟨.acquire, .fabric, 2⟩),
      (0x12182136, .amin (.reg 3) (.reg 1) (.reg 2) ⟨.acquire, .fabric, 2⟩),
      (0x14182136, .amax (.reg 3) (.reg 1) (.reg 2) ⟨.acquire, .fabric, 2⟩),
      (0x16182136, .aminn (.reg 3) (.reg 1) (.reg 2) ⟨.acquire, .fabric, 2⟩),
      (0x18182136, .amaxn (.reg 3) (.reg 1) (.reg 2) ⟨.acquire, .fabric, 2⟩),
      (0x1A182136, .aand (.reg 3) (.reg 1) (.reg 2) ⟨.acquire, .fabric, 2⟩),
      (0x1C182136, .aor (.reg 3) (.reg 1) (.reg 2) ⟨.acquire, .fabric, 2⟩),
      (0x1E182136, .axor (.reg 3) (.reg 1) (.reg 2) ⟨.acquire, .fabric, 2⟩),
      (0x20182136, .axchg (.reg 3) (.reg 1) (.reg 2) ⟨.acquire, .fabric, 2⟩),
      (0x22182136, .acas (.reg 3) (.reg 1) (.reg 2) ⟨.acquire, .fabric, 2⟩),
      (0x24182136, .afadd (.reg 3) (.reg 1) (.reg 2) ⟨.acquire, .fabric, 2⟩), (0x12002104, .aminU (.reg 1) (.reg 2)),
      (0x14002104, .amaxU (.reg 1) (.reg 2)), (0x16002104, .aminnU (.reg 1) (.reg 2)),
      (0x18002104, .amaxnU (.reg 1) (.reg 2)), (0x1A002104, .aandU (.reg 1) (.reg 2)),
      (0x1C002104, .aorU (.reg 1) (.reg 2)), (0x1E002104, .axorU (.reg 1) (.reg 2)),
      (0x24002104, .afaddU (.reg 1) (.reg 2))],
      decodeAt .x p.1 = some p.2 ∧ encode p.2 = (.x, p.1) := by decide +kernel

theorem test_words_rest_of_x :
    ∀ p ∈ [(0x2618214D, Instr.oadd (.reg 3) (.reg 1) (.reg 2) ⟨.release, .die, 1⟩),
      (0x2818214D, .ofadd (.reg 3) (.reg 1) (.reg 2) ⟨.release, .die, 1⟩),
      (0x2A18204D, .oopen (.reg 3) (.reg 1) ⟨.release, .die, 1⟩),
      (0x2C182136, .oclose (.reg 3) (.reg 1) (.reg 2) ⟨.acquire, .fabric, 2⟩),
      (0x30002000, .spawn false (.reg 0) (.reg 1)), (0x38002100, .qpush (.reg 1) (.reg 2)),
      (0x40182101, .mwaitNe (.reg 3) (.reg 1) (.reg 2)), (0x540FF404, .dld (.reg 1) 509 2), (0x0, .xnop)],
      decodeAt .x p.1 = some p.2 ∧ encode p.2 = (.x, p.1) := by decide +kernel

/-! ## Results that the spec works out -/

/-- R177's example: VRDSUM of 2^24, 1, 1, 1, -2^24, 1, 1, 1 is 3.0 in the linear order and 5.0 in the balanced one. -/
theorem test_vrdsum_orders :
    let x := packN 32 [0x4B800000, 0x3F800000, 0x3F800000, 0x3F800000, 0xCB800000, 0x3F800000, 0x3F800000, 0x3F800000]
    (Vec.reduce .sum true false 256 (2 ^ 128 - 1) x).val = 0x40400000 ∧ (Vec.reduce .sum true false 256 (2 ^ 128 - 1) x).st = 0x10 ∧
    (Vec.reduce .sum true true 256 (2 ^ 128 - 1) x).val = 0x40A00000 ∧ (Vec.reduce .sum true true 256 (2 ^ 128 - 1) x).st = 0x10 := by
  decide +kernel

/-- R208's example: one cell under profiles 1, 2, 6, 10 and 5. -/
theorem test_mac_profiles :
    let v := MFmt.e5m2.elems false 0 0 0x00040C3C
    [1, 2, 6, 10, 5].map (fun n => (mac (Profile.of n) 0 v v).1) =
      [0x3F800001, 0x3F800000, 0x3F800001, 0x3F800000, 0x3F800000] := by decide +kernel

/-- The quantisation example of R147: element plane, scale word and status. -/
theorem test_quantise_block :
    let x := packN 32 [0x40400000, 0xC0200000, 0x3F400000, 0x3F000000, 0x3D800000, 0x3C800000, 0, 0x80000000, 0x40A00000,
      0x7F800000, 0xC0C00000, 0x3FA00000, 0x3EC00000, 0x3E000000, 0xBF800000, 0]
    let q := Vec.qnt .sx4 0 512 0 (2 ^ 128 - 1) x false 0x0123456789ABCDEF
    q.1.val = 0x0A011E75000111A3 ∧ q.2.1 = 0x814C ∧ q.1.st = 0x38 := by decide +kernel

/-- The example after R168: the mask that VCMPLT.I32 writes, and the vector that VSEL gives under it. -/
theorem test_compare_and_select :
    let v1 := packN 32 ([3, -1, 0, -7, 5, 2, -2, 9].map fun i : Int => (i % 2 ^ 32).toNat)
    (Vec.cmp 32 256 (2 ^ 128 - 1) v1 0 fun x y => (decide (sextN 32 x < sextN 32 y), 0)).1 = 0x0F00F0F0 ∧
    (Vec.sel 256 (2 ^ 128 - 1) 0 v1 0x0F00F0F0).val = packN 32 [3, 0, 0, 0, 5, 2, 0, 9] := by decide +kernel

/-- R336's example: where PA 0x0880 is at home. -/
theorem test_home_hash :
    homeDie 0x880 = 1 ∧ homeStk 0x880 = 0 ∧ homeChn 0x880 = 2 ∧ homeBank 0x880 = 0 ∧ homeRow 0x880 = 0 ∧ homeCol 0x880 = 0 ∧
    homeSlice 0x880 = 2 := by decide +kernel

/-- R396's example: coordinate (70, 35) of a tiled BF16 tensor lies in tile 22, at PA 0x31_58CC. -/
theorem test_tensor_place :
    (⟨0, 0, 0, 2, 1, 0, 0x20000000, [300, 200], [5, 4], List.replicate 22 0 ++ [0x62B0], true, true⟩ : Tensor).place
      (fun k => [70, 35].getD k 0) = .pa 0x3158CC 0x200058CC := by decide +kernel

/-- R69: token 0 of the example adds 4, and a delta of -1 subtracts 1, in the S immediate. -/
theorem test_token_expansion :
    let e : BitVec 256 := 0x80_0820_0020#40 ++ 0#184 |>.setWidth 256
    (readBundle (expandToken e 4)).slots.head? = some (1, .addi (.reg 1) (.reg 1) 0x24) ∧
    (readBundle (expandToken e 0x7F)).slots.head? = some (1, .addi (.reg 1) (.reg 1) 0x1F) ∧ hasImmForm e = true := by
  decide +kernel

/-! ## A state and operands that meet the hypotheses of each statement -/

/-- The placed task with a second range, of device memory. -/
def task : Task := { placedTask with ranges := [⟨1, 0, 2 ^ 30, true, true, true⟩, ⟨2, 2 ^ 53, 2 ^ 30, true, true, false⟩] }

/-- Context 0 in that task, with architectural state `a` and bundle `k` in issue; the second segment of address space 1
is one page of device registers; the module's id is 0. -/
def place (a : Arch := {}) (k : Cur := { slot := 1 }) (q : Task := task) : State :=
  { (State.reset.withFetchWord 256 0).homeWrite 0x2000 (bytesOf 8 0x8_0000_0000_0007) with
    grants := [], modid := 0, cur := k, ctxs := [(0, { st := .run, task := q, a := a, cap := a })]
    spaces := [(1, some { region := 0, raf := [0x1000#64 ++ 0x219#64, 0x2000#64 ++ 0x99#64] ++ List.replicate 14 0 })] }

theorem ok_of {ε α : Type} [DecidableEq α] {r : Except ε α} {x : α}
    (h : (match r with | .ok y => decide (y = x) | .error _ => false) = true) : r = .ok x := by
  cases r with
  | ok y => simpa using h
  | error e => simp at h

/-- Registers for the scalar witnesses: a positive, a negative, 1.5 and STKLIM. -/
def regs : Arch :=
  { s := [(1, 7), (2, 0xFFFF_FFFF_FFFF_FFFB), (5, 0x3FC0_0000)], c := [(1, true)], m := [(2, 5)], b := [(1, 0x10040)]
    cr := [(2, 2)], rbq := [9] }

/-- `add s31, s1, s2` leaves s31 exactly at STKLIM, 2; `sel` with its flag set and clear; a suppressed destination. -/
theorem test_witness_IntegerRegisterForms : let s := place regs
    (∀ f ∈ Claim.intRR, s.Acts (f.1 (.reg 3) (.reg 1) (.reg 2)) ∧ s.SpOk (.reg 3) (f.2.2 7 0xFFFF_FFFF_FFFF_FFFB)) ∧
    s.Acts (.add (.reg 31) (.reg 1) (.reg 2)) ∧ s.SpOk (.reg 31) (7 + 0xFFFF_FFFF_FFFF_FFFB) ∧ s.SpOk .drop 0 ∧
    s.srcS (.reg 1) = .ok 7 ∧ s.srcS (.reg 2) = .ok 0xFFFF_FFFF_FFFF_FFFB ∧
    s.Acts (.sel (.reg 3) (.reg 1) (.reg 2) 1) ∧ s.cflag 1 = true ∧ s.cflag 0 = false :=
  ⟨by decide +kernel, by decide +kernel, by decide +kernel, by decide +kernel, rfl, rfl, by decide +kernel,
    by decide +kernel, by decide +kernel⟩

theorem test_witness_IntegerImmediateForms : let s := place regs
    s.srcS (.reg 1) = .ok 7 ∧
    (∀ i ∈ [Instr.addi (.reg 31) (.reg 1) 0x1FFFFB, .andi (.reg 31) (.reg 1) 0x1FFFFB, .ori (.reg 31) (.reg 1) 0x1FFFFF,
      .shli (.reg 31) (.reg 1) 63, .shri (.reg 31) (.reg 1) 1, .asri (.reg 31) (.reg 1) 0, .movi (.reg 31) 0x1FFFFF,
      .movhi (.reg 3) (.reg 1) 0xBEEF 3], s.Acts i) ∧
    s.SpOk (.reg 31) (7 + (0x1FFFFB : BitVec 21).signExtend 64) ∧ s.SpOk (.reg 31) (7 <<< 63) ∧
    s.SpOk (.reg 31) (7 >>> 1) ∧ s.SpOk (.reg 3) 0xBEEF_0000_0000_0007 ∧
    ∀ i, i < 64 → (0xBEEF_0000_0000_0007 : Word).getLsbD i =
      if 16 * 3 ≤ i ∧ i < 16 * 3 + 16 then (0xBEEF : BitVec 16).getLsbD (i - 16 * 3) else (7 : Word).getLsbD i :=
  ⟨rfl, by decide +kernel, by decide +kernel, by decide +kernel, by decide +kernel, by decide +kernel, by decide +kernel⟩

theorem test_witness_ComparesWriteOneFlag : let s := place regs
    s.srcS (.reg 1) = .ok 7 ∧ s.srcS (.reg 2) = .ok 0xFFFF_FFFF_FFFF_FFFB ∧
    (∀ f ∈ Claim.compares, s.Acts (f.1 7 (.reg 1) (.reg 2))) ∧
    s.Acts (.cmpeqi 0 (.reg 1) 7) ∧ s.Acts (.cmplti 0 (.reg 1) 0x100000) :=
  ⟨rfl, rfl, by decide +kernel, by decide +kernel, by decide +kernel⟩

theorem test_witness_PlogFlagsAndMasks : let s := place regs { slot := 0 }
    (∀ f ∈ Claim.plogs, ∀ k, s.Acts (f.1 k 7 2 1)) ∧ (∀ k, s.Acts (.pnot k 7 2)) ∧
    ∀ i, i < 128 → (5 : BitVec 128).getLsbD i = ((s.mreg 2).getLsbD i && (s.mreg 2).getLsbD i) := by
  decide +kernel

theorem test_witness_ScalarFloatForms : let s := place regs
    (∀ f ∈ Claim.scalarFp, s.Acts (f.1 (.reg 3) (.reg 5) (.special .one))) ∧
    s.Acts (.fma (.reg 5) (.reg 5) (.special .one)) ∧ s.Acts (.fsqrt .drop (.reg 5)) ∧
    s.Acts (.fcmplt 7 (.reg 5) (.special .one)) ∧ s.Acts (.fcvt (.reg 3) (.special .one) 3) ∧
    s.srcS (.reg 5) oneF32 = .ok 0x3FC0_0000 ∧ s.srcS (.special .one) oneF32 = .ok 0x3F80_0000 ∧
    s.srcS (.special .one) (fcvtOne 3) = .ok 1 :=
  ⟨by decide +kernel, by decide +kernel, by decide +kernel, by decide +kernel, by decide +kernel, rfl, ok_of (by decide +kernel), ok_of (by decide +kernel)⟩

theorem test_witness_ControlRegisterForms : let s := place regs
    s.srcS (.reg 1) = .ok 7 ∧ (∀ i ∈ [Instr.crd (.reg 3) 0x10, .cwr (.reg 1) 2, .movg 15 (.reg 1), .pkc (.reg 3), .upc (.reg 1),
      .pbr 3 (.reg 1) 0x1FFFFF], s.Acts i) ∧
    ∀ i, i < 64 → (2 : Word).getLsbD i = (decide (i < 8) && s.cflag i) :=
  ⟨rfl, by decide +kernel, by decide +kernel⟩

/-- No delay position; the operand of LOOP is zero or not in its low 32 bits; four levels at most; a level to close. -/
theorem test_witness_ControlTransferForms : let s := place { regs with loops := [⟨2, 1, 0x10020⟩, ⟨1, 5, 0⟩, ⟨0, 5, 0⟩] }
    let t := place { regs with s := [(1, 0x1_0000_0000)] }
    s.NoDelay ∧ (s.here.task.inEsp && !s.here.task.isLead) = false ∧ s.srcS (.reg 1) = .ok 7 ∧
    (7 : Word).setWidth 32 ≠ (0 : BitVec 32) ∧ s.here.a.loops.length < 4 ∧ (∀ l ∈ s.here.a.loops, l.k ≠ 3) ∧
    s.here.a.loops = [⟨2, 1, 0x10020⟩, ⟨1, 5, 0⟩, ⟨0, 5, 0⟩] ∧
    t.NoDelay ∧ (t.here.task.inEsp && !t.here.task.isLead) = false ∧ t.srcS (.reg 1) = .ok 0x1_0000_0000 ∧
    (0x1_0000_0000 : Word).setWidth 32 = (0 : BitVec 32) :=
  ⟨by decide +kernel, by decide +kernel, rfl, by decide +kernel, by decide +kernel, by decide +kernel, by decide +kernel,
    by decide +kernel, by decide +kernel, rfl, by decide +kernel⟩

/-- Slot 2 nullified while c0 is clear: one instruction draws a random word, one does not. -/
theorem test_witness_NopsAndNullifiedSlots : let s := place regs { slot := 2 } { task with pred := 0x80 }
    ∀ i ∈ [Instr.vqnt .sx4 (.reg 1) (.reg 2) 0 0 false 0 0, .vadd .w32 (.reg 1) (.reg 2) (.reg 3) 0],
      (encode i).1 ∈ [Place.plog, .s, .v, .m, .c, .y, .x] ∧ s.nullified s.cur.slot i = true := by decide +kernel

theorem test_witness_ControlFlowInDelayPosition : let s := place { regs with delay := 1, s := (1, 0x8000) :: regs.s.drop 1 }
    s.here.a.delay ≠ 0 ∧ s.srcS (.reg 1) = .ok 0x8000 ∧ s.Acts .join ∧ s.Acts .eret ∧ s.here.loadsDone = true ∧
    s.Acts (.spawn false .drop (.reg 1)) ∧ Tab.wf {} s.ctxs = true ∧ s.cr 0x21 = 0 ∧ s.checkJoin = .ok () ∧
    0x8000 % 256 = 0 ∧ s.here.task.leased 0x8000 256 .read = true ∧ s.inlineSpawn = false ∧
    (∀ i ∈ [Instr.trn 0 false false 0, .call (.reg 1) 0, .loop 0 (.reg 1) 0, .lend, .exit], s.Acts i) ∧
    (place regs).NoDelay ∧ ((place regs).here.task.inEsp && !(place regs).here.task.isLead) = false :=
  ⟨by decide +kernel, rfl, by decide +kernel, by decide +kernel, by decide +kernel, by decide +kernel, by decide +kernel,
    by decide +kernel, ok_of (by decide +kernel), by decide +kernel, by decide +kernel, by decide +kernel, by decide +kernel,
    by decide +kernel, by decide +kernel⟩

/-- The answer to a load whose bytes are there. -/
theorem pair_ok {σ ε α : Type} [DecidableEq α] {r : σ × Except ε α} {x : α}
    (h : (match r.2 with | .ok y => decide (y = x) | .error _ => false) = true) : ∃ t, r = (t, .ok x) :=
  ⟨r.1, Prod.ext rfl (ok_of h)⟩

/-- Addresses in s1 (the placed bundle's), s2 = 2^53 (a device page) and s6, which a second range leases but no page maps. -/
def addrs : Arch := { s := [(1, 0x10000), (2, 2 ^ 53), (4, 0x7C0), (6, 2 ^ 54)], cr := [(2, 0x10000)], m := [(3, 0xFF)] }

def loader : State :=
  place addrs { slot := 1, width := 512 } { task with ranges := task.ranges ++ [⟨3, 2 ^ 54, 64, true, true, false⟩] }

theorem test_witness_LoadsJoinTheOutstanding :
    let s := loader
    let m : Mod := ⟨.plain, .ctx, 0, .normal, .b8⟩
    (s.srcS (.reg 1) = .ok 0x10000 ∧ s.srcS (.reg 4) = .ok 0x7C0 ∧ s.srcS (.reg 2) = .ok (2 ^ 53) ∧
      s.srcS (.reg 6) = .ok (2 ^ 54) ∧ s.srcS (.special .zero) = .ok 0) ∧
    (∀ i ∈ [Instr.ld (.reg 3) (.reg 1) (.reg 4) m, .ld (.reg 3) (.reg 2) (.special .zero) m,
      .ld (.reg 3) (.reg 6) (.special .zero) m, .ldi (.reg 3) (.reg 1) 0, .ldi (.reg 3) (.reg 2) 0, .ldi (.reg 3) (.reg 6) 0,
      .vld (.reg 3) (.reg 1) (.reg 4) 0 3, .vld (.reg 3) (.reg 6) (.special .zero) 0 3, .nld 7 (.reg 1) 0, .nld 7 (.reg 6) 0],
      s.Acts i) ∧
    (0x107C0 % 8 = 0 ∧ s.here.task.leased 0x107C0 8 .read = true ∧ s.mtype 0x107C0 ≠ 1 ∧
      ∃ t, s.loadBytes 0x107C0 8 m.hint (annot m) = (t, .ok (List.replicate 8 0))) ∧
    (∀ n ∈ [8, s.cur.width / 8], 2 ^ 54 % n = 0 ∧ s.here.task.leased (2 ^ 54) n .read = true ∧ s.mtype (2 ^ 54) ≠ 1 ∧
      (match s.loadBytes (2 ^ 54) n m.hint (annot m) with | (_, .error _) => true | _ => false) = true) ∧
    (2 ^ 53 % 8 = 0 ∧ s.here.task.leased (2 ^ 53) 8 .read = true ∧ s.mtype (2 ^ 53) = 1 ∧ annot m = none ∧
      (s.resolve (2 ^ 53) .read).2 = some 0x8_0000_0000_0000 ∧ (s.resolve (2 ^ 53) .read).1.peerAt 0x8_0000_0000_0000 = none) ∧
    (0x10000 % 8 = 0 ∧ s.here.task.leased 0x10000 8 .read = true ∧ s.mtype 0x10000 ≠ 1 ∧
      ∃ t, s.loadBytes 0x10000 8 .normal none = (t, .ok (List.replicate 8 0))) ∧
    (0x107C0 % (s.cur.width / 8) = 0 ∧ s.here.task.leased 0x107C0 (s.cur.width / 8) .read = true ∧
      ∃ t, s.loadBytes 0x107C0 (s.cur.width / 8) .normal none = (t, .ok (List.replicate 64 0))) ∧
    (0x10000 % 64 = 0 ∧ s.here.task.leased 0x10000 64 .read = true ∧
      ∃ t, s.loadBytes 0x10000 64 .normal none = (t, .ok (List.replicate 64 0))) :=
  ⟨⟨rfl, rfl, rfl, rfl, rfl⟩, by decide +kernel,
    ⟨by decide +kernel, by decide +kernel, by decide +kernel, pair_ok (by decide +kernel)⟩, by decide +kernel,
    by decide +kernel, ⟨by decide +kernel, by decide +kernel, by decide +kernel, pair_ok (by decide +kernel)⟩,
    ⟨by decide +kernel, by decide +kernel, pair_ok (by decide +kernel)⟩,
    ⟨by decide +kernel, by decide +kernel, pair_ok (by decide +kernel)⟩⟩

/-- A load of a device page that is not mapped. -/
theorem test_witness_LoadsJoinTheOutstanding_device :
    let s : State := loader.homeWrite 0x2000 (bytesOf 8 0)
    let m : Mod := ⟨.acquire, .die, 1, .normal, .b8⟩
    s.srcS (.reg 2) = .ok (2 ^ 53) ∧ s.srcS (.special .zero) = .ok 0 ∧ s.Acts (.ld (.reg 3) (.reg 2) (.special .zero) m) ∧
    s.here.task.leased (2 ^ 53) 8 .read = true ∧ s.mtype (2 ^ 53) = 1 ∧ (s.resolve (2 ^ 53) .read).2 = none :=
  ⟨rfl, rfl, by decide +kernel, by decide +kernel, by decide +kernel, by decide +kernel⟩

theorem test_witness_StoresAreHeld :
    let s := { loader with cur := { slot := 1, width := 512 } }
    let m : Mod := ⟨.release, .die, 1, .normal, .b8⟩
    (s.srcS (.reg 1) = .ok 0x10000 ∧ s.srcS (.reg 4) = .ok 0x7C0 ∧ s.srcV (.reg 3) 512 8 = .ok 0) ∧
    (∀ i ∈ [Instr.st (.reg 4) (.reg 1) (.reg 4) m, .sti (.reg 4) (.reg 1) 0, .vst (.reg 3) (.reg 1) (.reg 4) 0 3,
      .nst 7 (.reg 1) 0], s.Acts i) ∧
    0x107C0 % 8 = 0 ∧ (s.cr 2).toNat ≤ 0x10000 ∧ s.here.task.leased 0x107C0 8 .write = true ∧
    s.here.task.leased 0x10000 8 .write = true ∧ 0x107C0 % (s.cur.width / 8) = 0 ∧
    s.here.task.leased 0x107C0 (s.cur.width / 8) .write = true ∧ s.mtype 0x107C0 ≠ 1 ∧ 0x10000 % 64 = 0 ∧
    s.here.task.leased 0x10000 64 .write = true ∧ s.mtype 0x10000 ≠ 1 :=
  ⟨⟨rfl, rfl, ok_of (by decide +kernel)⟩, by decide +kernel⟩

/-- Each access at an address that is misaligned, outside its lease, and of a device page; stores of data that is there,
through s30 or s31, below STKLIM and at it. -/
theorem test_witness_BadAccessesFault :
    let s : State := place { addrs with s := addrs.s ++ [(30, 0xFFC0), (31, 0x1_0000)] } { slot := 1, width := 512 }
    let m : Mod := ⟨.plain, .ctx, 0, .normal, .b8⟩
    (s.srcS (.reg 1) = .ok 0x10000 ∧ s.srcS (.reg 2) = .ok (2 ^ 53) ∧ s.srcS (.reg 6) = .ok (2 ^ 54) ∧
      s.srcS (.reg 30) = .ok 0xFFC0 ∧ s.srcS (.reg 31) = .ok 0x10000 ∧ s.srcS (.special .one) = .ok 1 ∧
      s.srcS (.special .zero) = .ok 0) ∧ s.srcV (.reg 3) 512 8 = .ok 0 ∧
    (∀ a ∈ [Src.reg 1, .reg 2, .reg 6, .reg 30, .reg 31], ∀ b ∈ [Src.special .zero, .special .one],
      ∀ i ∈ [Instr.ld (.reg 3) a b m, .st (.reg 4) a b m, .ldi (.reg 3) a 0, .ldi (.reg 3) a 4, .sti (.reg 4) a 0,
        .sti (.reg 4) a 4, .vld (.reg 3) a b 0 3, .vst (.reg 3) a b 0 3, .nld 7 a 0, .nld 7 a 4, .nst 7 a 0, .nst 7 a 4],
      s.Acts i) ∧
    (∀ n ∈ [8, 64], 0x10001 % n ≠ 0 ∧ 0x10004 % n ≠ 0 ∧ 0xFFC0 % n = 0 ∧ 2 ^ 53 % n = 0 ∧ 2 ^ 54 % n = 0 ∧
      ∀ need ∈ [Need.read, .write], s.here.task.leased (2 ^ 54) n need = false ∧ s.here.task.leased (2 ^ 53) n need = true) ∧
    s.cr 2 = 0x10000 ∧ s.mtype (2 ^ 53) = 1 :=
  ⟨⟨rfl, rfl, rfl, rfl, rfl, ok_of (by decide +kernel), rfl⟩, ok_of (by decide +kernel), by decide +kernel,
    by decide +kernel, by decide +kernel, by decide +kernel⟩

/-- Scratchpad offsets in s1 (the last aligned word of a window), s2 and s4, and nest records. -/
def pads : Arch := { s := [(1, 0xF_FFF8), (2, 0x10_0000), (4, 0x40), (5, 7)], m := [(3, 0xFF)], rbq := [9, 10],
                     n := [(0, 0x10_0000), (1, 0x20_0000), (2, BitVec.ofNat 512 (2 ^ 448))] }

theorem test_witness_ScratchpadLoads : let s := place pads { slot := 1, width := 512 }
    (s.srcS (.reg 1) = .ok 0xF_FFF8 ∧ s.srcS (.reg 2) = .ok 0x10_0000 ∧ s.srcS (.reg 4) = .ok 0x40 ∧
      s.srcS (.special .zero) = .ok 0) ∧
    (∀ i ∈ [Instr.spld (.reg 3) (.reg 1) (.special .zero) .b8, .spldi .drop (.reg 1) 0,
      .vspld (.reg 3) (.reg 2) (.reg 4) 63 3, .esld 7 (.reg 2) 16, .esld 8 (.reg 2) 0, .esld 9 (.reg 2) 0,
      .esld 10 (.reg 2) 0], s.Acts i) ∧
    s.checkSpad 0xF_FFF8 8 8 = .ok () ∧ s.checkSpad (0x10_0040 + 32 * 62) 64 64 = .ok () ∧
    s.checkSpad 0x10_0010 16 16 = .ok () ∧ s.checkSpad 0x10_0000 256 256 = .ok () ∧
    s.checkSpad 0x10_0000 512 512 = .ok () ∧ s.checkSpad 0x10_0000 768 256 = .ok () :=
  ⟨⟨rfl, rfl, rfl, rfl⟩, by decide +kernel, ok_of (by decide +kernel), ok_of (by decide +kernel),
    ok_of (by decide +kernel), ok_of (by decide +kernel), ok_of (by decide +kernel), ok_of (by decide +kernel)⟩

theorem test_witness_ScratchpadStores : let s := place pads { slot := 1, width := 512 }
    (s.srcS (.reg 1) = .ok 0xF_FFF8 ∧ s.srcS (.reg 2) = .ok 0x10_0000 ∧ s.srcS (.reg 4) = .ok 0x40 ∧
      s.srcS (.special .zero) = .ok 0 ∧ s.srcV (.reg 3) 512 8 = .ok 0) ∧ s.cur.width ∈ [256, 512, 1024] ∧
    (∀ i ∈ [Instr.spst (.reg 4) (.reg 1) (.special .zero) .b8, .spsti (.reg 4) (.reg 1) 0,
      .vspst (.reg 3) (.reg 2) (.reg 4) 62 3], s.Acts i) ∧
    s.checkSpad 0xF_FFF8 8 8 = .ok () ∧ s.checkSpad (0x10_0040 + 32 * 62) 64 64 = .ok () :=
  ⟨⟨rfl, rfl, rfl, rfl, ok_of (by decide +kernel)⟩, by decide +kernel, by decide +kernel, ok_of (by decide +kernel),
    ok_of (by decide +kernel)⟩

theorem test_witness_AddressesAndRandomWords : let s := place { pads with cr := [(2, 0x40)] } { slot := 8 }
    s.srcS (.reg 4) = .ok 0x40 ∧ s.srcS (.special .zero) = .ok 0 ∧ Tab.wf {} s.ctxs = true ∧ s.here.a.rbq = [9, 10] ∧
    (∀ i ∈ [Instr.lea (.reg 31) (.reg 4) (.special .zero) 7, .leai (.reg 31) (.reg 4) 0, .agen (.reg 31) 0 0,
      .rbpop .drop], s.Acts i) ∧
    s.SpOk (.reg 31) (0x40 + 0 <<< 7) ∧ s.SpOk (.reg 31) (s.nestAddr (s.nreg 0) + 0) ∧
    (place {} { slot := 8 }).here.a.rbq = [] :=
  ⟨rfl, rfl, by decide +kernel, by decide +kernel, by decide +kernel, by decide +kernel, by decide +kernel,
    by decide +kernel⟩

/-- Entry 511 alone, and 512 entries. -/
theorem test_witness_DldFillsTheDictionary : let s := place addrs { slot := 8 }
    s.srcS (.reg 1) = .ok 0x10000 ∧ 0x10000 % 32 = 0 ∧ s.mtype 0x10000 ≠ 1 ∧ Tab.wf none s.here.a.dict = true ∧
    (s.Acts (.dld (.reg 1) 511 0) ∧ s.here.task.leased 0x10000 (32 * ((0 : BitVec 9).toNat + 1)) .read = true ∧
      ∃ t, s.loadRange 0x10000 (32 * ((0 : BitVec 9).toNat + 1)) = (t, .ok (List.replicate 32 0))) ∧
    s.Acts (.dld (.reg 1) 0 511) ∧ s.here.task.leased 0x10000 (32 * ((511 : BitVec 9).toNat + 1)) .read = true :=
  ⟨rfl, by decide +kernel, by decide +kernel, by decide +kernel, ⟨by decide +kernel, by decide +kernel,
    pair_ok (by decide +kernel)⟩, by decide +kernel, by decide +kernel⟩

/-- Vector registers 1 and 2 at width 512, an active mask, flags and random words. -/
def lanes : State := place
  { s := [(5, 9)], v := [(1, 0x80000000_7FFFFFFF), (2, 0x3F800000_FFFFFFFF)], m := [(3, 0xFF), (4, 0xF0F)], rbq := [9]
    e := [(1, 0x7F7F)] } { slot := 2, width := 512 }

theorem test_witness_vector_sources (k : Nat) (o : Word) :
    lanes.srcV (.reg 1) lanes.cur.width k o = .ok 0x80000000_7FFFFFFF ∧
    lanes.srcV (.reg 2) lanes.cur.width k o = .ok 0x3F800000_FFFFFFFF :=
  ⟨congrArg Except.ok (by decide +kernel), congrArg Except.ok (by decide +kernel)⟩

/-- With the sources above. -/
theorem test_witness_VectorIntegerForms : let s := lanes
    (∀ f ∈ Claim.lanesInt, ∀ t ∈ [IntTy.w32, .w16, .w8], s.Acts (f.1 t (.reg 7) (.reg 1) (.reg 2) 3)) ∧
    (∀ t ∈ [MulTy.w32, .w16], s.Acts (.vmul t (.reg 7) (.reg 1) (.reg 2) 3) ∧ s.Acts (.vmulh t (.reg 7) (.reg 1) (.reg 2) 3)) ∧
    ∀ i ∈ [Instr.vand (.reg 7) (.reg 1) (.reg 2) 3, .vor (.reg 7) (.reg 1) (.reg 2) 3, .vxor .drop (.reg 1) (.reg 2) 3,
      .vnot (.reg 1) (.reg 1) 0, .vmov (.reg 7) (.reg 1) 3], s.Acts i := by decide +kernel

/-- With the sources above. -/
theorem test_witness_VectorFloatForms : let s := lanes
    ∀ t ∈ [FpTy.f32, .f16, .bf16], ∀ i ∈ [Instr.vfadd t (.reg 7) (.reg 1) (.reg 2) 3, .vfsub t (.reg 7) (.reg 1) (.reg 2) 3,
      .vfmul t (.reg 7) (.reg 1) (.reg 2) 3, .vfmin t (.reg 7) (.reg 1) (.reg 2) 3, .vfmax t (.reg 7) (.reg 1) (.reg 2) 3,
      .vfma t (.reg 7) (.reg 1) (.reg 2) (.reg 1) 3], s.Acts i := by decide +kernel

/-- With the sources above. -/
theorem test_witness_VectorSpecialFunctions : let s := lanes
    ∀ f ∈ [Instr.vfrcp (.reg 7) (.reg 2) 3, .vfrsq (.reg 7) (.reg 2) 3, .vfexp2 (.reg 7) (.reg 2) 3, .vflog2 (.reg 7) (.reg 2) 3,
      .vftanh (.reg 7) (.reg 2) 3, .vfsigm .drop (.reg 2) 0], s.Acts f := by decide +kernel

/-- With the sources above. -/
theorem test_witness_VectorCompares : let s := lanes
    (∀ t ∈ [IntTy.w32, .w16, .w8], ∀ i ∈ [Instr.vcmpeq t 15 (.reg 1) (.reg 2) 3, .vcmplt t 15 (.reg 1) (.reg 2) 3,
      .vcmpltn t 15 (.reg 1) (.reg 2) 3], s.Acts i) ∧
    ∀ t ∈ [FpTy.f32, .f16, .bf16], ∀ i ∈ [Instr.vfcmpeq t 15 (.reg 1) (.reg 2) 3, .vfcmplt t 15 (.reg 1) (.reg 2) 3,
      .vfcmple t 15 (.reg 1) (.reg 2) 3], s.Acts i := by decide +kernel

/-- With the sources above, and every pattern. -/
theorem test_witness_VectorPermutes : let s := lanes
    s.srcS (.reg 5) = .ok 9 ∧ s.Acts (.vsel (.reg 7) (.reg 1) (.reg 2) 4 3) ∧
    ∀ z ∈ [(0 : BitVec 2), 1, 2], s.Acts (.vperm (.reg 7) (.reg 1) (.reg 2) z 3) ∧
      (∀ p ∈ [(0 : BitVec 3), 1, 2, 3], s.Acts (.vshuf (.reg 7) (.reg 1) (.reg 2) p z 3)) ∧
      s.Acts (.vrot (.reg 7) (.reg 1) (.reg 5) z 3) ∧ s.Acts (.vbcast (.reg 7) (.reg 5) z 3) :=
  ⟨rfl, by decide +kernel, by decide +kernel⟩

/-- With the sources above; an index beyond the elements. -/
theorem test_witness_VectorMoves : let s := lanes
    s.srcS (.reg 5) = .ok 9 ∧ ∀ i ∈ [Instr.vins (.reg 7) (.reg 5) (.reg 5) 0, .vext (.reg 7) (.reg 1) (.reg 5) 0 true,
      .vany 7 4 3, .vall 7 4 3, .vmovExpand (.reg 7) 4 3, .viota (.reg 7) 4 0 3, .vmovPack 15 (.reg 1) 3], s.Acts i :=
  ⟨rfl, by decide +kernel⟩

/-- With the sources above. -/
theorem test_witness_ReductionsAndScans : let s := lanes
    s.cur.width ∈ [256, 512, 1024] ∧ ∀ t ∈ [RedTy.i32, .f32], ∀ i ∈ [Instr.vrdsum t (.reg 7) (.reg 1) 3,
      .vrdmax t (.reg 7) (.reg 1) 3, .vrdmin t (.reg 7) (.reg 1) 3, .vscan t (.reg 7) (.reg 1) 3], s.Acts i := by
  decide +kernel

/-- With the sources above; a conversion that draws a random word and one that does not. -/
theorem test_witness_ConversionsAndQuantisation : let s := lanes
    Tab.wf {} s.ctxs = true ∧ s.here.a.rbq = [9] ∧ Vec.cvtDraws 2 = false ∧ s.Acts (.vcvt (.reg 7) (.reg 1) 1 2 3) ∧
    (∃ c, c < 24 ∧ Vec.cvtDraws c = true ∧ s.Acts (.vcvt (.reg 7) (.reg 1) 0 (BitVec.ofNat 6 c) 3)) ∧
    (∀ t ∈ [BlkTy.sx2, .sx4, .sx8], s.Acts (.vqnt t (.reg 7) (.reg 1) 1 0 true 0 3) ∧ Vec.blkFits t 0 512 0 = true ∧
      s.Acts (.vdq t (.reg 7) (.reg 1) 1 0 0 3)) := by decide +kernel

/-- Record 2 is clipped (its one dimension has bound 0), record 0 lies in bank group 0, record 1 in group 1. -/
def mats : State := place { pads with n := [(0, 0x200), (1, 0x10_0000), (2, BitVec.ofNat 512 (2 ^ 448))] } { slot := 4 }

theorem test_witness_MatrixForms : let s := mats
    (∀ i ∈ [Instr.macc .sx4 .sx4 false 0 1, .mset .sx4 .sx4 true 8 2, .mpush 0 1, .mshift .sx4 .sx4 false 3 1,
      .mdrain 1 true true 1 0, .mdrainq 3 false false 2 0, .mload false 1 0, .mload true 2 1, .mzero true, .mswap],
      s.Acts i) ∧
    (∀ p ∈ [((0, 1) : BitVec 4 × BitVec 4), (8, 2), (0, 8)], (match s.readSides p.1 p.2 with | .ok _ => true | _ => false) = true) ∧
    (match s.readPiece 1 1024 1 with | .ok _ => true | _ => false) = true ∧
    s.piece (s.nreg 1) = some 0x10_0000 ∧ 0x10_0000 % (256 * drainBytes 1) = 0 ∧
    s.here.task.inWindow 0x10_0000 (256 * drainBytes 1) = true ∧ 0x10_0000 % 32 = 0 ∧
    s.here.task.inWindow 0x10_0000 (drainqBytes 3) = true ∧ s.piece (s.nreg 2) = none ∧
    s.checkSpad 0x10_0000 1024 1024 = .ok () :=
  ⟨by decide +kernel, by decide +kernel, by decide +kernel, by decide +kernel, by decide +kernel, by decide +kernel,
    by decide +kernel, by decide +kernel, by decide +kernel, ok_of (by decide +kernel)⟩

/-- Bank 1, whose rows 128 and 255 are its first and last, beside row 127 of bank 0. -/
theorem test_witness_ArrayPointActs :
    let rows : Tab (BitVec 8192) := [(127, 1), (128, 2), (255, 3)]
    let s := place { acc := rows, mflight := [⟨1, .zero 1⟩] }
    let t := place { acc := rows, mflight := [⟨1, .load 1 127 5⟩] }
    Tab.wf 0 (s.ctx 0).a.acc = true ∧ (s.ctx 0).a.mflight = [⟨1, .zero 1⟩] ∧ Tab.wf 0 (t.ctx 0).a.acc = true ∧
    (t.ctx 0).a.mflight = [⟨1, .load 1 127 5⟩] := by decide +kernel

/-- A source of one 8-byte element in memory, a scratchpad destination, a tensor, and a capability for the fabric. -/
def copier (slot : Nat) : State := place
  { n := [(1, BitVec.ofNat 512 (0x10000 + 3 * 2 ^ 453)), (2, BitVec.ofNat 512 (0x100 + 2 ^ 451 + 3 * 2 ^ 453)),
      (3, BitVec.ofNat 512 (2 ^ 452 + 3 * 2 ^ 453))]
    g := [(0, 2), (5, 0x10000), (7, 0)] } { slot := slot }
  { task with tensors := [⟨0, 0, 0, 1, 3, 0, 0, [1], [0], [], true, true⟩] }

/-- Operands with which each command passes its checks. -/
def ops : List COps := [⟨1, 0, 0, false, false⟩, ⟨3, 0, 0, false, false⟩, ⟨1, 0, 0, false, false⟩, ⟨2, 0, 0, false, false⟩,
  ⟨1, 8, 0, false, false⟩, ⟨1, 8, 0, false, false⟩, ⟨1, 8, 0, false, false⟩, ⟨1, 8, 0, false, false⟩, ⟨0, 8, 0, false, false⟩]

/-- In either C slot: the engine has room; and a copy to the scratchpad finds eight commands queued. -/
theorem test_witness_CommandsIssue :
    (∀ p ∈ Claim.commands.zip ops, ∀ k ∈ [5, 6], (copier k).Acts (p.1.1 p.2) ∧
      (copier k).here.queueLen (copier k).engine < 8 ∧
      (match p.1.2.2 (copier k) p.2 ((copier k).command p.1.2.1 p.2) with | .ok _ => true | _ => false) = true) ∧
    let s := copier 5
    let m := s.command 1 ⟨1, 0, 0, false, false⟩
    let t : State := { s with ctxs := [(0, { s.ctx 0 with q0 := List.replicate 8 m })] }
    t.Acts (.cpy ⟨1, 0, 0, false, false⟩) ∧ (t.command 1 ⟨1, 0, 0, false, false⟩).held = false ∧
      8 ≤ t.here.queueLen t.engine := by decide +kernel

/-- Flag 2 holds 3: it suffices for 3, and not for 4; the poster is member 1 of four. -/
def flags (k : Bool) : State := place { f := [(2, 3)] } { slot := 7, ckpt := k } { task with w := 2, h := 2, member := 1 }

theorem test_witness_CountingFlagForms : let s := flags false
    (∀ i ∈ [Instr.fwait 2 2, .fwait 2 3, .fwaitAcq 2 2, .fwaitAcq 2 3, .fclr 2, .finc 2 255, .fpost 2 1, .fpost 2 3,
      .fpostRel 2 1 0, .fpostRel 2 1 7], s.Acts i) ∧
    2 + 1 ≤ (Tab.get 0 s.here.a.f 2).toNat ∧ ¬ 3 + 1 ≤ (Tab.get 0 s.here.a.f 2).toNat ∧
    3 < s.here.task.w * s.here.task.h ∧ s.here.task.postRel 0 1 = some 3 ∧ s.here.task.postRel 7 1 = some 2 ∧
    (flags true).cur.ckpt = true ∧ (flags true).Acts (.fbar 2 2) ∧ ((flags true).barOpen 2).Acts (.fbar 2 2) := by
  decide +kernel

/-- A word at the placed bundle, AFADD outside DET, a plain and an annotated form; and released effects not handed on. -/
def atom : State := place { s := [(1, 0x10000), (2, 5), (6, 0x10040)], cr := [(5, 0xF)] } { slot := 8, ckpt := true }

theorem test_witness_ReturningAtomics : let s := atom
    (s.srcS (.reg 1) = .ok 0x10000 ∧ (∀ one, s.srcS (.reg 2) one = .ok 5) ∧
      s.srcS (.special .one) AtOp.fadd.one = .ok 0x3F800000) ∧
    (∀ f ∈ Claim.atomics, s.Acts (f.1 (.reg 3) (.reg 1) (.reg 2) ⟨.acqRel, .die, 0⟩) ∧ 0x10000 % f.2.bytes = 0 ∧
      s.here.task.leased 0x10000 f.2.bytes .both = true ∧
      (match s.homeAtomic f.2 0x10000 5 0 with | (_, .ok _) => true | _ => false) = true) ∧
    s.cur.ckpt = true ∧ s.here.task.det = false ∧ s.mtype 0x10000 = 0 ∧ s.here.replay = false ∧ Claim.clear s ∧
    (Claim.afterRelease s ⟨.acquire, .die, 0⟩).2 = true ∧ (Claim.afterRelease s ⟨.acqRel, .die, 0⟩).2 = true :=
  ⟨⟨rfl, fun _ => rfl, ok_of (by decide +kernel)⟩, by decide +kernel, by decide +kernel⟩

/-- Outside an espalier, effects not yet handed on; inside one, effects of its past; and a release that waits for an
ordered atomic. -/
theorem test_witness_ReturningAtomics_waits :
    let q : OrdReq := ⟨1, 0, false, 0x8000, 0x8000, 3, 1, 0x10000, 0, 0, 0, false, 0⟩
    let s (f : Ctx → Ctx) : State := { atom with ctxs := [(0, f (atom.ctx 0))] }
    let r := s fun x => { x with rel := [.fpost 1 1 0] }
    let e := s fun x => { x with task := { task with ew := 2, eh := 1 }, past := [⟨{}, [], 0, [.fpost 1 1 0], none⟩] }
    let w := s fun x => { x with retry := [q] }
    (∀ x ∈ [r, e, w], x.Acts (.aadd (.reg 3) (.reg 1) (.reg 2) ⟨.acqRel, .die, 0⟩) ∧ x.cur.ckpt = true ∧
      x.here.replay = false ∧ x.mtype 0x10000 = 0 ∧ x.here.task.leased 0x10000 8 .both = true) ∧
    (r.here.task.inEsp = false ∧ r.here.rel ≠ []) ∧ (e.here.task.inEsp = true ∧ e.here.past ≠ []) ∧
    Claim.clear w ∧ (Claim.afterRelease w ⟨.acqRel, .die, 0⟩).2 = false := by decide +kernel

/-- The last word of HBM below its end would do as well: any leased word of the first page. -/
theorem test_witness_AtomicsUpdateTheirWord : let s := atom
    (s.resolve 0x10000 .both).2 = some 0x10000 ∧ 0x10000 + 8 ≤ 0x80_0000_0000 ∧
    (∀ f ∈ Claim.atomics, let w := (s.resolve 0x10000 .both).1.l1Yield (coreOf s.cur.ctx) (0x10000 / 128)
      Memory.wf w.mem ∧ w.badAt 0x10000 f.2.bytes = none ∧ w.under = [] ∧ w.orderedLine (0x10000 / 128) = false) := by decide +kernel

theorem test_witness_HeldAtomics : let s := { atom with cur := { slot := 8 } }
    (s.srcS (.reg 1) = .ok 0x10000 ∧ ∀ one, s.srcS (.reg 2) one = .ok 5) ∧
    (∀ f ∈ Claim.updates, s.Acts (f.1 (.reg 1) (.reg 2)) ∧ 0x10000 % f.2.bytes = 0 ∧
      s.here.task.leased 0x10000 f.2.bytes .both = true) ∧
    s.here.task.det = false ∧ s.mtype 0x10000 = 0 ∧
    ∀ o ∈ [Ord.plain, .release], s.Acts (.oadd (.reg 2) (.reg 1) (.reg 2) ⟨o, .ctx, 0⟩) ∧
      s.Acts (.ofadd (.reg 2) (.reg 1) (.reg 2) ⟨o, .ctx, 0⟩) :=
  ⟨⟨rfl, fun _ => rfl⟩, by decide +kernel, by decide +kernel, by decide +kernel, by decide +kernel⟩

/-- A descriptor of zeros, which is refused; a reduction of one ticket whose word is complete, and one whose is not. -/
theorem test_witness_CheckpointRequests : let s := atom
    let r : Reduction := ⟨0x10000, [0x10080], 0xFFFF, 1, 1, 1, false, [0], []⟩
    (s.cur.ckpt = true ∧ s.srcS (.reg 1) = .ok 0x10000 ∧ s.srcS (.reg 2) = .ok 5 ∧ s.here.replay = false ∧ Claim.clear s ∧
      Claim.afterRelease s ⟨.plain, .ctx, 0⟩ = (s, true)) ∧
    (∀ i ∈ [Instr.oopen (.reg 3) (.reg 1) ⟨.plain, .ctx, 0⟩, .oclose (.reg 3) (.reg 1) (.reg 2) ⟨.plain, .ctx, 0⟩,
      .tkt (.reg 3) (.reg 1) (.reg 2)], s.Acts i) ∧
    (0x10000 % 64 = 0 ∧ s.here.task.leased 0x10000 64 .read = true ∧ s.mtype 0x10000 ≠ 1) ∧
    (∃ u, s.onDescriptor 0x10000 (fun s pa w => s.openReduction pa w) = (u, .ok 2)) ∧
    (∃ u, s.onDescriptor 0x10000 (fun s pa _ => s.closeReduction pa 5) = (u, .ok 2)) ∧
    (∃ u, s.loadRange 0x10000 32 = (u, .ok (List.replicate 32 0))) ∧ Rdesc.ok 0 = false ∧
    ([r].find? fun x => x.desc = 0x10000) = some r ∧ (∀ t ∈ r.next, t = (r.tfirst + r.tcount) % 2 ^ 16) ∧
    (∃ t ∈ [5], t ≠ (r.tfirst + r.tcount) % 2 ^ 16) :=
  ⟨⟨by decide +kernel, rfl, rfl, by decide +kernel, by decide +kernel, by decide +kernel⟩, by decide +kernel,
    by decide +kernel, pair_ok (by decide +kernel), pair_ok (by decide +kernel), pair_ok (by decide +kernel), by decide +kernel, by decide +kernel,
    by decide +kernel, by decide +kernel⟩

/-- A task with registers for spawning, pushing and waiting: frame and record addresses in s1, a tag in s2, a stack in s31. -/
def tasks (inl : Word := 0) : Arch :=
  { s := [(1, 0x8000), (2, 5), (31, 0x20040)], cr := [(2, 0x20000), (3, 0x11000), (0x20, 0x4000)] ++
      (if inl = 0 then [] else [(0x21, inl)]) }

/-- A spawner with room; and one in an inline child, whose record goes to the last free slot above STKLIM. -/
theorem test_witness_TaskForms_spawn :
    let s := place tasks { slot := 8 }
    let u := place (tasks 0x9000) { slot := 8 }
    (s.srcS (.reg 1) = .ok 0x8000 ∧ u.srcS (.reg 1) = .ok 0x8000) ∧
    (∀ x ∈ [s, u], Tab.wf {} x.ctxs = true ∧ x.NoDelay ∧ x.Acts (.spawn true (.reg 3) (.reg 1)) ∧
      x.here.task.tile = none ∧ x.here.task.w * x.here.task.h = 1 ∧ x.here.task.leased 0x8000 256 .read = true) ∧
    s.cr 0x21 = 0 ∧ s.here.deque.length + s.here.heldSpawns + 1 < 64 ∧ u.cr 0x21 ≠ 0 ∧ 0x8000 % 256 = 0 ∧
    (match (u.countSpawn true (.reg 3)).readFrame true (dieOf u.cur.ctx) u.here.task.region 0x8000 with
      | (w, .view v) =>
        decide (w.frameDetail (u.asidAt u.cur.ctx) (some (u.here.task.ranges, w.leaseTensors u.here.task.lease)) v = none ∧
          0x20000 = (w.reg 31 - 64).toNat ∧ (w.cr 2).toNat ≤ 0x20000 ∧ w.here.task.leased 0x20000 64 .write = true ∧
          w.mtype 0x20000 ≠ 1)
      | _ => false) = true := by
  refine ⟨⟨rfl, rfl⟩, ?_, by decide +kernel, by decide +kernel, by decide +kernel, by decide +kernel, by decide +kernel⟩
  decide +kernel

/-- A push; a JOIN without children; an EXIT, and one of an inline child. -/
theorem test_witness_TaskForms_end :
    let s := place tasks { slot := 8 }
    let u := place (tasks 0x9000) { slot := 8 }
    (s.srcS (.reg 1) = .ok 0x8000 ∧ s.srcS (.reg 2) = .ok 5) ∧
    (∀ i ∈ [Instr.qpush (.reg 1) (.reg 1), .qpushT (.reg 2) (.reg 1) (.reg 1), .join, .exit], s.Acts i ∧ u.Acts i) ∧
    (Tab.wf {} s.ctxs = true ∧ s.NoDelay ∧ s.cr 0x21 = 0 ∧ s.here.task.det = false) ∧
    (s.here.task.leased 0x8000 32 .read = true ∧ s.here.task.leased 0x8000 64 .read = true ∧ s.mtype 0x8000 ≠ 1) ∧
    (match s.loadRange 0x8000 32 with
      | (w, .ok _) => (match (w.loadRange 0x8000 64).2 with | .ok _ => true | .error _ => false)
      | _ => false) = true ∧
    (match (({ s with badLines := [0x8000 / 128] } : State).loadRange 0x8000 32).2 with
      | .error _ => true | .ok _ => false) = true ∧
    s.checkJoin = .ok () ∧ Tab.wf {} u.ctxs = true ∧ u.NoDelay ∧ u.cr 0x21 ≠ 0 ∧
    u.checkMem (u.cr 0x21).toNat 64 8 .read true false = .ok () ∧
    (match (u.loadRange (u.cr 0x21).toNat 64).2 with | .ok _ => true | .error _ => false) = true ∧
    (match (({ u with badLines := [0x9000 / 128] } : State).loadRange (u.cr 0x21).toNat 64).2 with
      | .error _ => true | .ok _ => false) = true :=
  ⟨⟨rfl, rfl⟩, by decide +kernel, by decide +kernel, by decide +kernel, by decide +kernel, by decide +kernel,
    ok_of (by decide +kernel), by decide +kernel, by decide +kernel, by decide +kernel, ok_of (by decide +kernel),
    by decide +kernel, by decide +kernel⟩

/-- The word at 0x8000 is 0: a wait for at least 0 is over, and one until it differs from 0 is not; on a bad line, it cannot
be read. -/
theorem test_witness_WaitsAndInvalidations : let s := place tasks { slot := 8 }
    ((match s.mwaitWord (.reg 1) (.special .zero) with
      | .ok (_, .ok x, _, v) => decide (x = 0 ∧ v = 0) | _ => false) = true ∧
    (match ({ s with badLines := [0x8000 / 128] } : State).mwaitWord (.reg 1) (.special .zero) with
      | .ok (_, .error _, _, _) => true | _ => false) = true) ∧
    (∀ i ∈ [Instr.mwait (.reg 3) (.reg 1) (.special .zero), .mwaitNe (.reg 3) (.reg 1) (.special .zero),
      .invl (.reg 2) (.reg 1) (.reg 2), .invlAll (.reg 2), .probe (.reg 3) (.reg 1)], s.Acts i) ∧
    s.here.task.region = 0 ∧ s.srcS (.reg 2) = .ok 5 ∧ s.srcS (.reg 1) = .ok 0x8000 ∧ (0x8000 : Word).toNat < 2 ^ 57 :=
  ⟨⟨by decide +kernel, by decide +kernel⟩, by decide +kernel, by decide +kernel, rfl, rfl, by decide +kernel⟩

/-- Under a handler; the fault is an illegal encoding met after two loop levels. -/
theorem test_witness_FaultsEnterTheHandler : let s := place { tasks with loops := [⟨1, 5, 0⟩] }
    let f : FaultRec := ⟨0x01, 1, 8, 0x10000, 0, 0⟩
    Tab.wf {} s.ctxs = true ∧ s.hasHandler 0 = true ∧ f.cls ≠ 0x08 ∧ (s.ctx 0).a.mflight = [] ∧ (s.ctx 0).a.drains = [] := by
  decide +kernel

/-- A task that takes its trap, and the handler's return. -/
theorem test_witness_TrapAndEret :
    let s := place tasks { slot := 8 }
    let p : TrapSave := ⟨none, 0, [], [], [], none⟩
    let u : State := { s with ctxs := [(0, { s.ctx 0 with st := .trap, a := { tasks with trap := some p } })] }
    s.Acts (.trap 5) ∧ s.here.task.inEsp = false ∧ Tab.wf {} u.ctxs = true ∧ u.Acts .eret ∧ u.NoDelay ∧ u.here.st = .trap ∧
    u.here.a.loops = [] ∧ u.here.a.mflight = [] ∧ u.here.a.drains = [] ∧
    u.here.a.trap = some p := by decide +kernel

/-- An entry with an ADDI and one of zeros; the checkpoint of a context without loads. -/
theorem test_witness_TokensAndCheckpoints :
    let e : BitVec 256 := 0x00000000_80082000_20000000_00000000_00000000_00000000_00000000_00000000
    let s := place { dict := [(0, some 0), (511, some e)] }
    Tab.get none s.here.a.dict 0 = some 0 ∧ Tab.get none s.here.a.dict 511 = some e ∧ e.extractLsb' 254 2 = 0 ∧
    hasImmForm e = true ∧ s.here.loadsDone = true ∧
    ∀ x ∈ [s.here, { s.here with cap := { s.here.cap with trap := some ⟨none, 0, [], [], [], none⟩ }, arrived := [(2, 1)] }],
      x.closed = false ∧ x.past = [] ∧ Tab.wf 0 x.cap.cr = true ∧ Tab.wf 0 x.cap.f = true ∧ Tab.wf 0 x.arrived = true := by
  decide +kernel

/-- A placed bundle is ready and its instructions run; with bit 253 they run in two parts around the capture, and, at a
rerun, in the second part alone; with profile 13 it faults. -/
theorem test_witness_StepRunsTheDecodedInstruction :
    let at0 (w : Nat) (r : Bool) : State := ({ State.reset.withFetchWord 256 w with grants := [] } : State).modCtx 0
      fun x => { x with replay := r }
    let w := 0x01A00000_80082000_20682041_80000000_00000000_00000000_00000000_00000000
    let runs (o : Outcome) : Bool := match o with | .next _ => true | _ => false
    let opened (w : Nat) (r : Bool) (f : State → Bool) : Bool :=
      decide ((at0 w r).group 0 = [0] ∧ ((at0 w r).ctx 0).scheduled = true) && match (at0 w r).trial 0 with
        | (v, .ready) => let u := ((v.prepare 0).1.openCycle 0).countIssue 0 true
          !u.here.task.inEsp && f u
        | _ => false
    opened w false (fun u => !u.cur.ckpt && runs (u.runAll u.cur.todo)) = true ∧
    opened (w + 2 ^ 253) true (fun u => u.cur.ckpt && u.here.replay &&
      runs (u.runAll (u.cur.todo.filter fun p => !actsFirst p.2))) = true ∧
    opened (w + 2 ^ 253) false (fun u => u.cur.ckpt && !u.here.replay &&
      match u.runAll (u.cur.todo.filter fun p => actsFirst p.2) with
        | .next v => (match exec .checkpointBundle (v.atSlot 15) with
          | .next x => runs (x.runAll (u.cur.todo.filter fun p => !actsFirst p.2))
          | _ => false)
        | _ => false) = true ∧
    (match (at0 (13 * 2 ^ 247) false).trial 0 with | (_, .fault _) => true | _ => false) = true ∧
    (∃ t, exec (.addi (.reg 1) (.reg 2) 3) ((place regs).atSlot 1) = .next t) ∧ isPacket (BitVec.ofNat 256 w) = false :=
  ⟨by decide +kernel, by decide +kernel, by decide +kernel, by decide +kernel, ⟨_, rfl⟩, by decide +kernel⟩

/-- The state after reset is canonical, and has a next one. -/
theorem test_witness_StepsKeepTheCanonicalForm : State.reset.Canonical ∧ ∃ t, step State.reset = .next t :=
  ⟨⟨rfl, rfl, rfl⟩, ⟨_, rfl⟩⟩

/-- Bytes at HBM's last address, at host memory's first, and at the ends of what lies between; one that holds an UNDER. -/
theorem test_witness_HomeBytesReadBack : State.reset.Canonical ∧ paKind (0x7F_FFFF_FFFF + 0) = .hbm ∧
    paKind (0xC_0000_0000_0000 + 0) = .host ∧ paKind (0x80_0000_0000 + 0) = .unmapped ∧
    paKind (0xB_FFFF_FFFF_FFFF + 0) = .device ∧ [(1 : Byte)].length = 1 ∧
    ({ State.reset with under := [0x1000] } : State).holdsUnder (0x1004 + 0) = true :=
  ⟨⟨rfl, rfl, rfl⟩, rfl, rfl, rfl, rfl, rfl, rfl⟩

theorem test_witness_DecodeOfEncode : ∀ i ∈ [Instr.addi (.reg 31) (.special .zero) 0x1FFFFF,
      .vfma .f32 (.reg 8) (.reg 1) (.reg 2) (.reg 8) 3, .aor (.reg 9) (.reg 8) (.special .zero) ⟨.acqRel, .die, 1⟩, .mdrain 1 true true 4 0],
    i.wfDetails = [] ∧ (encode i).1 ≠ .event := by decide +kernel

/-- A vector result two cycles away and one due, with a latch; registers that are written, and one that is not. -/
theorem test_witness_ResultsLand :
    let l (n : Nat) : Land := ⟨n, [.v 31 5 7], some (1, ⟨1024, 5⟩), 1⟩
    ((place { flight := [l 2] }).ctx 0).a.flight = [l 2] ∧ 2 ≤ (l 2).left ∧
    ((place { flight := [l 1] }).ctx 0).a.flight = [l 1] ∧ (l 1).left = 1 ∧
    0x0A ∉ [1, 2, 3, 4, 5, 7, 0x10, 0x11, 0x12, 0x13, 0x14, 0x15] := by decide +kernel

/-- A core whose foreground alone has a bundle: it waits for nothing, and the background, without a task, is not ready. -/
theorem test_witness_CycleEvents_merge :
    let s := State.reset.withFetchWord 256 0
    let u := s.clock 0
    let r := u.pair 0
    u.together 0 = [0] ∧ r.2.core = 0 ∧ r.2.f.v ≠ .waits true ∧ r.2.b.v ≠ .waits true := by decide +kernel

/-- A background that has been ready and passed over 255 times yields. -/
theorem test_witness_CycleEvents_yield :
    let s := State.reset.withFetchWord 256 0x01A00000_80082000_20682041_80000000_00000000_00000000_00000000_00000000
    let x := s.ctx 0
    let u : State := { s with
      ctxs := [(0, x), (1, { x with task := { x.task with uid := 2 } })], cores := [(0, { yieldCnt := 255 })] }
    let r := u.pair 0
    r.1.yields r.2 = true := by decide +kernel

/-- A load outstanding whose data is ready, a drain that is due, ending at the last byte of a window, and a generator with
no words left. -/
theorem test_witness_CycleEvents :
    let o : Outst := { pc := 0x10000, va := 0x8000, size := 8, wr := .s 3 7, bad := none, ext := false }
    let s := place { drains := [⟨1, some 0x0F_FFFC, [1, 2, 3, 4], 1⟩] }
    let u : State := { s with ctxs := [(0, { s.ctx 0 with loads := [o] })] }
    (u.ctx 0).loads[0]? = some o ∧ o.bad = none ∧ o.asked = false ∧ o.ext = false ∧ Tab.wf {} s.ctxs = true ∧
    (s.ctx 0).a.drains = [⟨1, some 0x0F_FFFC, [1, 2, 3, 4], 1⟩] ∧ 0x0F_FFFC % 0x10_0000 + 4 ≤ 0x10_0000 ∧
    (s.ctx (2 * 0)).busy = true ∧ (s.ctx (2 * 0)).a.rbq.length + 2 ≤ 32 := by decide +kernel

/-- A load of a device page, younger than one of a peer device, whose turn it is at the hub. -/
theorem test_witness_CycleEvents_device :
    let o (va : Word) : Outst := { pc := 0x10000, va := va, size := 8, wr := .s 3 7, bad := none, ext := true }
    let s : State := { place with ctxs := [(0, { place.ctx 0 with loads := [o 0x20_0000_0000_0008] })] }
    (s.ctx 0).loads[0]? = some (o 0x20_0000_0000_0008) ∧ s.vaPa (s.asidAt 0) 0x20_0000_0000_0008 = some 0x8_0000_0000_0008 ∧
    s.peerAt 0x8_0000_0000_0008 = none ∧ s.deviceTurn 0 0 = true := by decide +kernel

/-- The copier with one command at the head of its queue. -/
def queued (op : Nat) (o : COps) (bad : List Nat := []) : State × Cmd :=
  let s := copier 5
  let m := s.command op o
  ({ s with ctxs := [(0, { s.ctx 0 with q0 := [m] })], badLines := bad }, m)

/-- A copy, a fill and a prefetch at the head, chosen, each with its granule moved, and each stopped, by a bad line or, for
the fill, a page that is not mapped; and the copy once it has started. -/
theorem test_witness_CopyEvents :
    let head (q : State × Cmd) : Option State :=
      if (q.1.ctx 0).queued 0 = [q.2] ∧ q.1.chosen 0 0 = some 0 ∧ q.2.members = [] ∧ q.2.fabric = false ∧
        q.2.started = false ∧ q.2.xord = false then some ((q.1.passTurn 0 0).startCmd 0 q.2 0) else none
    let elems (u : State) (m : Cmd) := (u.elements 0 m).take 1
    let copies (q : State × Cmd) (f : Bool) : Bool := match head q with
      | some u => ((u.moves 0 (Nest.size q.2.src) (Cw.hint q.2.cw) 0 (elems u q.2)).2.2).isSome == f
      | none => false
    let fills (q : State × Cmd) (f : Bool) : Bool := match head q with
      | some u => ((u.fillMoves 0 (Nest.size q.2.src) (fillBytes (Nest.size q.2.src) (q.2.word 1)) 0 (elems u q.2)).2.2).isSome == f
      | none => false
    let fetches (q : State × Cmd) (f : Bool) : Bool := match head q with
      | some u => ((u.prefetch 0 (Nest.size q.2.src) (Cw.hint q.2.cw) (elems u q.2)).2).isSome == f
      | none => false
    let cpy : COps := ⟨1, 0, 0, false, false⟩
    let begun : State × Cmd := ({ (queued 1 cpy).1 with ctxs := [(0, { (queued 1 cpy).1.ctx 0 with
      q0 := [{ (queued 1 cpy).2 with started := true }] })] }, { (queued 1 cpy).2 with started := true })
    ((queued 3 cpy).2.op = 3 ∧ (queued 3 cpy).2.members = [] ∧ (head (queued 3 cpy)).isSome = true) ∧
    (queued 1 cpy).2.op ∈ [1, 2, 3, 4] ∧ copies (queued 1 cpy) false = true ∧ copies (queued 1 cpy [0x200]) true = true ∧
    ((begun.1.ctx 0).queued 0 = [begun.2] ∧ begun.1.chosen 0 0 = some 0) ∧
    (queued 5 ⟨1, 8, 0, false, false⟩).2.op = 5 ∧ fills (queued 5 ⟨1, 8, 0, false, false⟩) false = true ∧
    fills ({ (queued 5 ⟨1, 8, 0, false, false⟩).1 with spaces := [(1, some ⟨0, List.replicate 16 0⟩)] },
      (queued 5 ⟨1, 8, 0, false, false⟩).2) true = true ∧
    (queued 6 ⟨1, 8, 0, false, false⟩).2.op = 6 ∧ fetches (queued 6 ⟨1, 8, 0, false, false⟩) false = true ∧
    fetches (queued 6 ⟨1, 8, 0, false, false⟩ [0x200]) true = true ∧ (queued 1 cpy).2.posted = [] := by decide +kernel

/-- A fabric command at the head of its queue, with `f` applied. -/
def onFabric (op : Nat) (o : COps) (f : Cmd → Cmd) (bad : List Nat := []) : State × Cmd :=
  let s := copier 5
  let m := f (s.command op o)
  ({ s with ctxs := [(0, { s.ctx 0 with q0 := [m] })], badLines := bad }, m)

/-- A PUT whose handle can be read, and one whose handle lies on a bad line; an add of no bytes; a GET with all its
requests sent and its fragments gone; a PUT with a fragment to send, which its region's credit admits, and one whose data
lies on a bad line. -/
theorem test_witness_CopyEvents_fabric :
    let put : COps := ⟨1, 8, 0, false, false⟩
    let go (m : Cmd) : Cmd := { m with started := true }
    let at0 (q : State × Cmd) : Bool := decide ((q.1.ctx 0).queued 0 = [q.2] ∧ q.1.chosen 0 0 = some 0 ∧ q.2.fabric = true)
    let reads (q : State × Cmd) (ok : Bool) : Bool := at0 q && !q.2.started && decide (q.2.fabricLen ≠ 0) &&
      (match (q.1.passTurn 0 0).readHandle 0 q.2 with | (_, .ok _) => ok | (_, .error _) => !ok)
    let sends (q : State × Cmd) (ok : Bool) : Bool := at0 q && q.2.started && (match q.2.fragments[q.2.moved]? with
      | some f => (match (q.1.passTurn 0 0).fragData 0 q.2 f with
        | (v, .ok d) => ok && v.fabAdmits 0 (v.injectBytes (v.fragPacket q.2 f true d))
        | (_, .error _) => !ok)
      | none => false)
    (reads (onFabric 7 put id) true ∧ reads (onFabric 7 put id [0]) false) ∧
    (let e := onFabric 7 put fun m => { m with src := m.src &&& BitVec.ofNat 512 (2 ^ 64 - 1) ||| BitVec.ofNat 512 (2 ^ 448) };
      at0 e = true ∧ e.2.fabricLen = 0 ∧ e.2.started = false ∧ e.2.moved = 0) ∧
    (let g := onFabric 8 put fun m => { go m with moved := 1 };
      at0 g = true ∧ g.2.fabricLen ≠ 0 ∧ g.2.fragments[g.2.moved]? = none ∧ g.2.op = 8 ∧ g.1.frags = []) ∧
    sends (onFabric 7 put go) true ∧ sends (onFabric 7 put go [0x200]) false := by decide +kernel

/-- A post to a member that stands in context 0, with none before it. -/
theorem test_witness_CopyEvents_posts :
    let s := copier 5
    let u : State := { s with posts := [⟨0, 1, 0, 7⟩] }
    u.posts[0]? = some ⟨0, 1, 0, 7⟩ ∧ u.postFirst 0 ⟨0, 1, 0, 7⟩ = true ∧
    u.ctxs.find? (fun q => q.2.live && q.2.task.uid = 1 && q.2.task.member = 0) = some (0, u.ctx 0) ∧
    (u.ctx 0).busy = true ∧ (u.ctx 0).task.uid = 1 ∧ (u.ctx 0).task.member = 0 := by decide +kernel

/-- A launch of region 0 on die 0 with ticket 4 of the frame of zeros at 0x8000, at stage `g`, and a reservation of core 1
for it. -/
def launch (g : LaunchStage := .reserve) : Launch := ⟨none, 0, 4, 0, 0x8000, 0x8000#2048 <<< 896, [], [], g, 9, 0, none⟩
def reserves (granted : List (Nat × CtxClass)) (waiting : Bool := false) : Reservation :=
  ⟨0, 4, .fg, false, [1], granted, [], 0, waiting⟩

/-- A task for which a request may be made; it pending, for a task, and for a tile step that has and has not released;
one whose save may complete; a saved task parked at core 0, and its resumption there. -/
theorem test_witness_PreemptionAndResumption :
    let s := place
    let x := s.ctx 0
    let y : Ctx := { x with st := .save }
    let v : Saved := ⟨7, [y], [none], [0], 0, true⟩
    let u : State := { s with ctxs := [(0, y)] }
    let w : State := { s with ctxs := [], saved := [v] }
    let away (u : State) : State := { u with nalvel := [(2, { graft := .handover })] }
    (x.busy = true ∧ x.st = .run ∧ x.ending = none ∧ x.exited = false ∧ x.preempt = false ∧ s.holders x.task.uid = [0] ∧
      s.fnAway 2 = false ∧ (away s).fnAway 2 = true ∧ s.slotFree 0 = true) ∧
    (∀ q ∈ [task, { task with tile := some launch, released := true }, { task with tile := some launch }],
      let p : State := { s with ctxs := [(0, { x with preempt := true, task := q })] }
      (p.ctx 0).preempt = true ∧ (p.ctx 0).task.w * (p.ctx 0).task.h = 1 ∧ p.savedAway (p.ctx 0).task.uid = 0 ∧
        p.holdsRequest 0 = false ∧ p.holders (p.ctx 0).task.uid = [0]) ∧
    (Tab.wf {} u.ctxs = true ∧ y.loadsDone = true ∧ u.repliesDue y = false ∧ u.postsDue y = false ∧
      (u.core (coreOf 0)).stopped = false ∧ (u.core (coreOf 0)).l1 = [] ∧ u.savedOf y.task.uid = none ∧
      y.task.member = 0 ∧ y.task.w * y.task.h = 1) ∧
    (w.saved.find? (fun v => v.id = 7) = some v ∧ v.members.length = v.windows.length ∧ v.homes.getD 0 0 = 0 ∧
      (v.members.getD 0 {}).busy = true) ∧
    (w.unmet 0 1 1 (decide (y.task.ew ≠ 0)) y.task.det y.task.win = none ∧ w.resumeFits v 0 = some [(0, [0, 0, 0])] ∧
      Tab.wf {} w.ctxs = true ∧ ([(0, [0, 0, 0])].map (fun p : Nat × List Nat => p.1)).Nodup) := by decide +kernel

/-- The signature of a context whose registers are 0 and which holds no effect. -/
def zeroSignature : BitVec 32 := crc32c (List.replicate 353 0)

/-- Context 0 at the close of its region, after rerun `r`. -/
def atClosing (r : Rerun) : State :=
  let s := State.reset.withFetchWord 256
    (0x01A00000_80082000_20682041_80000000_00000000_00000000_00000000_00000000 + 2 ^ 253)
  { s with grants := [], ctxs := [(0, { s.ctx 0 with rerun := some r })] }

/-- A data error where one may be taken, beside an L1 line that is clean, and one that is not; a context at a region's
close, whatever its reruns have left; a core that is not dead. -/
theorem test_witness_ErrorsAndReruns :
    let s : State := { place with grants := [] }
    let line (k : LineState) : L1Line := ⟨7, 0, k, 0, 0, 0, false, 1, 0, 0, 0, 0, 0, false⟩
    let lines (k : LineState) : State := { s with cores := [(0, { l1 := [line k] })] }
    ((s.ctx 0).rerun = none ∧ (s.ctx 0).closed = false ∧ (s.ctx 0).st = .run ∧ s.espCtxs 0 = [0] ∧
      (s.core (coreOf 0)).stopped = false) ∧ ((atClosing ⟨1, 0, 0⟩).ctx 0).rerun ≠ none ∧
    (s.fnAway 4 = false ∧ (s.nal 4).waits = [] ∧ (s.core 95).stopped = false ∧
      ({ s with nalvel := [(4, { graft := .reverted })] } : State).fnAway 4 = true) ∧
    ((lines .c).l1Find 0 7 = some (line .c) ∧ (lines .d).l1Find 0 7 = some (line .d) ∧ (line .d).st ≠ .c) ∧
    (∀ r ∈ [(⟨1, 0, 0⟩ : Rerun), ⟨2, 0, zeroSignature⟩, ⟨2, 1, 0⟩], (atClosing r).espCtxs 0 = [0] ∧
      (atClosing r).atClose 0 = true ∧ ((atClosing r).ctx 0).regionCount = 0 ∧
      ((atClosing r).core (coreOf 0)).stopped = false) ∧
    Tab.wf {} s.cores = true ∧ (s.core 95).dead = false := by decide +kernel

theorem test_witness_ErrorsAndReruns_agree : (∀ r, ((atClosing r).ctx 0).rerun = some r) ∧
    ((atClosing ⟨2, 0, zeroSignature⟩).closing 0).signature = zeroSignature := by
  refine ⟨fun _ => rfl, ?_⟩
  have h : ((atClosing ⟨2, 0, zeroSignature⟩).closing 0).cbuf = [] ∧
    ((atClosing ⟨2, 0, zeroSignature⟩).closing 0).a.signed = List.replicate 353 0 := by decide +kernel
  rw [Ctx.signature, h.1, h.2]; rfl

theorem test_witness_ClustersAndWork :
    let s : State := { place with launches := [launch], reservations := [reserves []] }
    let u : State := { s with reservations := [reserves [(1, .fg)]], cores := [(1, { rlatch := .held 4 })] }
    let w : State := { s with reservations := [reserves [] true] }
    (s.reservation (dieOfCore 1) 4 = some (reserves []) ∧ (s.core 1).rlatch = .empty ∧ (s.core 1).dead = false ∧
      (s.ctx (ctxIn 1 .fg)).bank = none) ∧
    (u.reservation (dieOfCore 1) 4 = some (reserves [(1, .fg)]) ∧ u.launchOf (dieOfCore 1) 4 = some launch ∧
      (u.core 1).rlatch = .held 4 ∧ (u.core 1).dead = false ∧ u.budgetsAllow launch (reserves [(1, .fg)]) = true) ∧
    (let q : Reservation := { reserves [(1, .fg)] with committed := [1] }
      let v := (u.modCore 1 fun x => { x with rlatch := .committed 4 }).modReservation 0 4 fun _ => q
      (v.placeLaunch launch q).isSome = true ∧
        ({ v with ctxs := [(ctxIn 1 .fg, { bank := some (.saved 0 0) })] } : State).placeLaunch launch q = none) ∧
    (let r := reserves [(1, .fg)]
      let none1 : State := { u with regions := [(0, some { Region.root with diemask := 0 })] }
      r.granted.length = r.coresWanted.length ∧ (∀ v ∈ [{ u with cores := [] }, { u with cores := [(1, { rlatch := .held 4, dead := true })] },
        none1], v.reservation (dieOfCore 1) 4 = some r ∧ v.launchOf (dieOfCore 1) 4 = some launch) ∧
      ({ u with cores := [] } : State).core 1 = {} ∧ none1.budgetsAllow launch r = false ∧ r.committed = []) ∧
    (w.launchOf 0 4 = some launch ∧ launch.stage = .reserve ∧ w.reservation 0 4 = some (reserves [] true) ∧
      w.hasRect 0 (Frame.w launch.frameBits) (Frame.h launch.frameBits) = true ∧
      Frame.members launch.frameBits ≤ (w.regionD 0).cores) := by decide +kernel

/-- An entry of the frame of zeros at 0x8000 with the placed task's ranges. -/
def entry : DqEnt := ⟨0x8000, 5, 0, 0, task.ranges, [], none⟩

/-- Context 2, idle, takes context 0's oldest entry, or one of region 0's overflow queue; a launch whose condition word
0 is at least 0 and may be read. -/
theorem test_witness_ClustersAndWork_moves :
    let s := place
    let u : State := { s with ctxs := [(0, { s.ctx 0 with deque := [entry] })], overflow := [(0, [entry])] }
    let l := launch .cond
    let g : Lease := ⟨9, 0, 4, 0x8000, task.ranges, [], [], 1, none⟩
    let w : State := { s with launches := [l], leases := [g] }
    let starts (r : State × Start) : Bool := match r with | (_, .started) => true | _ => false
    (u.thief 2 = true ∧ (victims 2).contains 0 = true ∧ (u.stealCore 0 2).isSome = true ∧ (u.ctx 0).spill = [] ∧
      (u.ctx 0).deque = [entry] ∧ u.mayTake 2 0 = true ∧
      starts ((u.modCtx 0 fun x => { x with deque := [] }).startEntry 2 entry) = true) ∧
    (Tab.get [] u.overflow 0 = [entry] ∧ bitN (u.effDiemask 0) (dieOf 2) = true ∧ (u.regionD 0).halted = false ∧
      starts (({ u with overflow := Tab.set [] u.overflow 0 [] } : State).startEntry 2 entry) = true) ∧
    (w.launches[0]? = some l ∧ l.stage = .cond ∧ w.leases.find? (fun x => x.id = l.lease) = some g ∧
      l.waits = [(0x8000, 0)] ∧ (∀ p ∈ l.waits, ∃ e ∈ g.ranges, e.grants p.1 8 Need.read = true) ∧ w.vaPa (w.asidOf l.region) 0x8000 = some 0x8000 ∧
      0 ≤ w.homeNat 0x8000 8) := by decide +kernel

/-- A thief's first victim has an entry. -/
theorem test_witness_ClustersAndWork_round :
    let s := place
    let v := (victims 2).headD 0
    let u : State := { s with ctxs := Tab.set {} s.ctxs (2 * v) { deque := [entry] } }
    u.thief 2 = true ∧ (victims 2).head? = some v ∧ (u.stealCore v 2).isSome = true := by decide +kernel

/-- Queue 3 of region 0, with a ring at 0x20000, holds record `r` for ticket 0. -/
def ring (r : BitVec 512) (leases : List Lease := []) : State :=
  { place.homeWrite 0x20040 (bytesOf 64 (r.toNat + 0xFFFF * 2 ^ 16)) with
    queues := [(3, { base := 0x20000, live := true, st := .active, ctrl := true })], leases := leases }

/-- Whether the record that queue 3 has next meets `f`, with the state that it leaves. -/
def meets (s : State) (f : State → BitVec 512 → Bool) : Bool :=
  match s.nextRecord 3 with | (u, some r) => f u r | _ => false

/-- A record of each kind, at 0x8000. -/
theorem test_witness_RecordsActByKind :
    let at8000 (k : Nat) : BitVec 512 := BitVec.ofNat 512 (k + 0x8000 * 2 ^ 64)
    let g : Lease := ⟨1, 0, 0, 0x8000, [], [], [], 1, some 3⟩
    meets (ring 0) (fun _ r => Rec.kind r = 0) = true ∧ meets (ring 8) (fun _ r => 7 < Rec.kind r) = true ∧
    meets (ring (at8000 1)) (fun u r => decide (Rec.kind r = 1 ∧ u.frameUnmapped 3 (Rec.addr r) = false) &&
      match (u.takeTicket 1).1.readFrame false 1 0 0x8000 with
        | (w, .view v) => decide (((u.queuePa 3 (Rec.addr r)).map (u.dieFor 0)).getD (u.chooseDie 0 1 1) = 1 ∧
            w.frameDetail (w.asidOf 0) none v = none ∧ w.unmetBy 0 v.bits = none)
        | _ => false) = true ∧
    meets (ring (at8000 2)) (fun u r => Rec.kind r = 2 ∧ u.walks = []) = true ∧
    (∀ k ∈ [3, 4], meets (ring (at8000 k)) (fun u r => decide (Rec.kind r = k ∧ Rec.addr r % 8 = 0) &&
      (u.queuePa 3 (Rec.addr r)).isSome) = true) ∧
    (∀ k ∈ [5, 6, 7], meets (ring (at8000 k)) (fun u r => Rec.kind r = k ∧ u.fnAway 1 = false) = true ∧
      meets { ring (at8000 k) with nalvel := [(1, { graft := .handover })] } (fun u r => Rec.kind r = k ∧ u.fnAway 1 = true) = true) ∧
    meets (ring (at8000 5)) (fun _ r => Rec.kind r = 5 ∧ Rec.len r = 0) = true ∧
    meets (ring (at8000 5 + 0x81#512 <<< 128)) (fun u r => decide (Rec.kind r = 5 ∧ Rec.len r ≠ 0) &&
      (((List.range ((Rec.addr r % 128 + Rec.len r + 127) / 128)).map fun i => Rec.addr r / 128 * 128 + 128 * i).mapM
        (u.queuePa 3)).isSome) = true ∧
    meets (ring (at8000 6)) (fun u r => decide (Rec.kind r = 6 ∧ r.getLsbD 128 = false ∧ u.heldLease 0 0x8000 = none ∧
        u.frameUnmapped 3 (Rec.addr r) = false) &&
      match u.readFrame false 1 0 0x8000 with
        | (w, .view v) => decide (((u.queuePa 3 (Rec.addr r)).map (u.dieFor 0)).getD (u.chooseDie 0 1 1) = 1 ∧
            w.frameDetail (w.asidOf 0) none v = none)
        | _ => false) = true ∧
    meets (ring (at8000 6 + 1#512 <<< 128) [g]) (fun u r => Rec.kind r = 6 ∧ r.getLsbD 128 = true ∧
      u.heldLease 0 (Rec.addr r) = some g) = true ∧
    meets (ring (at8000 7 + 128#512 <<< 128)) (fun u r => decide (Rec.kind r = 7 ∧ (u.queue 3).ctrl = true ∧
        Rec.addr r % 4096 = 0) &&
      (({ u with snapseq := u.snapseq + 1 } : State).writeVa 0 (Rec.addr r)
        ((u.summaryHeader 0 (u.snapseq + 1) (Rec.len r) (u.sections 0) ++ (u.sections 0).flatMap (·.2.2)).take
          (Rec.len r))).isSome) = true := by decide +kernel

/-- A walk of one step that has still to be made. -/
theorem test_witness_RecordsActByKind_walk :
    let w : Walk := ⟨3, 0, 0, BitVec.ofNat 1024 (2 ^ 64 + 2 ^ 96 + 2 ^ 128), launch, 0, 9⟩
    let s : State := { place with walks := [w] }
    s.walks.find? (fun w => w.q = 3) = some w ∧ w.next < Walk.steps w.topb ∧ s.grantsF3 = [] ∧ s.launches = [] := by
  decide +kernel

/-! Sealed tokens: the tag is over the low 192 bits and stands above them. -/

theorem bytesOf_add (n x y : Nat) : bytesOf n (x + 2 ^ (8 * n) * y) = bytesOf n x := by
  induction n generalizing x with
  | zero => rfl
  | succ n ih =>
    have h : 2 ^ (8 * (n + 1)) * y = 256 * (2 ^ (8 * n) * y) := by
      rw [show 8 * (n + 1) = 8 + 8 * n by omega, Nat.pow_add, Nat.mul_assoc]
    simp only [bytesOf, h, Nat.add_mul_div_left _ _ (show 0 < 256 by omega), ih]
    congr 1
    simp [← BitVec.toNat_inj, Nat.add_mul_mod_self_left]

theorem seal_low (k : List Byte) (t : Word) (b : BitVec 192) : sealOf k (t ++ b) = sealOf k (b.setWidth 256) := by
  have h : (t ++ b).toNat = (b.setWidth 256).toNat + 2 ^ (8 * 24) * t.toNat := by
    have := Nat.two_pow_add_eq_or_of_lt b.isLt t.toNat
    simp only [BitVec.toNat_append, BitVec.toNat_setWidth, Nat.shiftLeft_eq]
    rw [Nat.mod_eq_of_lt (by omega), Nat.mul_comm, ← this]; omega
  rw [sealOf, h, bytesOf_add, sealOf]

theorem bit_low (t : Word) (b : BitVec 192) (i : Nat) (h : i < 192) : (t ++ b).getLsbD i = b.getLsbD i := by
  rw [BitVec.getLsbD_append]; simp [h]

theorem part_low (t : Word) (b : BitVec 192) (i n : Nat) (h : i + n ≤ 192) :
    (t ++ b).extractLsb' i n = b.extractLsb' i n := by
  apply BitVec.eq_of_getLsbD_eq
  intro j hj
  simp only [BitVec.getLsbD_extractLsb', hj, decide_true, Bool.true_and]
  exact bit_low t b _ (by omega)

theorem tag_high (t : Word) (b : BitVec 192) : (t ++ b).extractLsb' 192 64 = t := by
  apply BitVec.eq_of_getLsbD_eq
  intro j hj
  rw [BitVec.getLsbD_extractLsb', BitVec.getLsbD_append]
  simp [hj]

theorem tag_sealed (k : List Byte) (b : BitVec 192) :
    (sealOf k (b.setWidth 256) ++ b).extractLsb' 192 64 = sealOf k (sealOf k (b.setWidth 256) ++ b) := by
  rw [tag_high, seal_low]

/-- A grant without ranges; requests for a page that is absent, from a grant and from a queue. -/
theorem test_witness_LeasesPages :
    let g : Grant := ⟨1, launch, false, false, [], [], none⟩
    let s : State := { place with
      grantsF3 := [g], pageReqs := [⟨1, 2 ^ 30, some 1, none⟩, ⟨1, 2 ^ 30, none, some 3⟩]
      nalvel := [(3, { mail := [(.grant 1, false), (.page 3 (2 ^ 30), false)] })] }
    (s.grantsF3[0]? = some g ∧ s.fnAway 3 = false ∧ (s.nal 3).has (.grant 1) = true ∧ (s.nal 3).has (.page 3 (2 ^ 30)) = true ∧
      s.grantMalformed (s.asidOf 0) g.launch.ents = false ∧ s.leaseRoom 0 = true ∧
      (match s.grantStretches 1 (s.asidOf 0) g.launch.stretches with | (_, .ok) => true | _ => false) = true ∧
      tileNeed g.launch.ents ≤ tilePool ∧
      ((s.leases.flatMap (·.tensors)).map fun t => t.tiles.length).sum + tileNeed g.launch.ents ≤ tilePool) ∧
    (({ s with pageReqs := s.pageReqs.eraseIdx 0 } : State).mapPage 1 (2 ^ 30) 0x4000000F).isSome = true ∧
    ((({ s with pageReqs := s.pageReqs.eraseIdx 1 } : State).modNal 3 fun n => n.retire (.page 3 (2 ^ 30))).mapPage 1 (2 ^ 30)
      0x4000000F).isSome = true := by decide +kernel

/-- A page that is marked to move; marked, pinned and not pinned; closed, without an access that still uses it; and copied. -/
theorem test_witness_LeasesPages_migration :
    let s := place.homeWrite 0x1008 (bytesOf 8 0x40000007)
    let p := 2 ^ 30
    let g := s.seg 1 p
    let at1 (n : MigStep) (pins : List (Nat × Nat)) : State := { s with migrations := [⟨1, p, 2 ^ 31, n⟩], pins := pins }
    (p % 2 ^ g.plog = 0 ∧ s.leafAddr 1 p = some 0x1008 ∧ g.mtype ≠ 1 ∧ g.plog ≠ 0 ∧ 2 ^ 31 % 2 ^ g.plog = 0 ∧
      typeFits g.mtype (2 ^ 31) = true ∧ pteValid (BitVec.ofNat 64 (s.homeNat 0x1008 8)) g.plog 0 = true ∧ s.migrations = []) ∧
    (∀ n ∈ [MigStep.marked, .closed, .copied], ∀ q ∈ [[(pinKey 1 p, 1)], []], (at1 n q).leafAddr 1 p = some 0x1008 ∧
      (at1 n q).migrations.find? (fun m => m.asid = 1 && m.va = p) = some ⟨1, p, 2 ^ 31, n⟩ ∧
      (at1 n q).pinned 1 p = !q.isEmpty ∧ (at1 n q).fnAway 3 = false ∧
      let v := (at1 n q).walkReads 0 1 p; v.pinned 1 p = !q.isEmpty ∧ v.invlBusy 1 false p 1 = false) := by decide +kernel

/-- The last contribution in order of an integer and of a floating-point reduction, whose ids wrap; and a retry. -/
theorem test_witness_OrderedAdds :
    let q (fp : Bool) : OrdReq := ⟨1, 0, fp, 0x8000, 0x8000, 3, 1, 0x10000, 0, 0, 0, false, 0⟩
    let r (fp : Bool) : Reduction := ⟨0x9000, [0x8000], 0xFFFE, 4, 2, 4, fp, [1], []⟩
    let s (fp : Bool) : State := { place with ordNet := [q fp], reductions := [r fp] }
    let u : State := { place with ctxs := [(0, { place.ctx 0 with retry := [q false] })] }
    (∀ fp, (Memory.wf (s fp).mem ∧ Tab.wf none (s fp).hostMem = true ∧ Tab.wf {} (s fp).ctxs = true) ∧
      (s fp).ordNet[0]? = some (q fp) ∧ (s fp).ordFirst 0 (q fp) = true ∧ (s fp).reductions = [r fp] ∧ (r fp).words = [(q fp).pa] ∧ (r fp).fp = (q fp).fp ∧
      (r fp).next = [(q fp).t] ∧ (q fp).t < 2 ^ 16 ∧ ((q fp).t + 2 ^ 16 - (r fp).tfirst) % 2 ^ 16 < (r fp).tcount ∧
      (r fp).tfirst < 2 ^ 16 ∧ (q fp).pa + 8 ≤ 0x80_0000_0000 ∧ (s fp).under = []) ∧
    (u.ctx 0).retry[0]? = some (q false) := by decide +kernel

/-- A request that may be admitted, of a class without and with a credit, in order of the classes' credits; one that opens a closed row, below its region's threshold and at it; a back-off that is
over; and the last address of HBM. -/
theorem test_witness_HbmControllerEvents :
    let q : HbmReq := ⟨0, 0, 0, 0x880, 128, 0⟩
    let s : State := { place with hbm := [(0, { waiting := [q] })] }
    let u : State := { place with hbm := [(0, { admitted := [q] })] }
    let w : State := { u with hbm := [(0, { admitted := [q], cnt := [(q.bankKey * 65536 + homeRow q.pa, 31)] })], rowthr := [(0, 32)] }
    let x : State := { place with hbm := [(0, { banks := [(q.bankKey, { openRow := some 5, backoff := some 40 })] })] }
    let row := homeRow q.pa
    let y : State := { s with dies := [{ cos := [{ hbmsh := 128 }] }] }
    (y.mayAdmit 0 0 10 = true ∧ y.classShare 0 q.cos = 128 ∧ (y.hbmAt 0).waiting[0]? = some q) ∧
    (s.now ≤ 10 ∧ s.mayAdmit 0 0 10 = true ∧ (s.hbmAt 0).waiting[0]? = some q ∧ s.classShare 0 q.cos = 256) ∧
    ((u.hbmAt 0).admitted = [q] ∧ Tab.wf {} u.hbm = true ∧ Tab.wf {} w.hbm = true ∧ Tab.get {} (u.hbmAt 0).banks q.bankKey = {} ∧
      Nat.min 0xFFFF ((Tab.get 0 (u.hbmAt 0).cnt (q.bankKey * 65536 + row)).toNat + 1) < u.rowThreshold q.region) ∧
    ((w.hbmAt 0).admitted = [q] ∧ Tab.get {} (w.hbmAt 0).banks q.bankKey = {} ∧
      w.rowThreshold q.region ≤ Nat.min 0xFFFF ((Tab.get 0 (w.hbmAt 0).cnt (q.bankKey * 65536 + row)).toNat + 1)) ∧
    ((Tab.get {} (x.hbmAt 0).banks (homeChn q.pa * 16 + homeBank q.pa)).backoff = some 40 ∧ x.now ≤ 40 ∧
      (x.hbmAt 0).admitted = []) ∧
    (Tab.get {} (x.hbmAt 0).banks (homeChn q.pa * 16 + homeBank q.pa)).lastUse + 100 ≤ 100 ∧
    0x7F_FFFF_FFFF < 0x80_0000_0000 ∧ 0x7F_FFFF_FFFF / 128 ∉ s.badLines := by decide +kernel

/-- The body of a handle to window 3 of region 0: 64 bytes at 0x8000, with the rights wr, rd and ad. -/
def body (rights : Nat) : BitVec 192 := BitVec.ofNat 192 (0x8000 + 64 * 2 ^ 64 + rights * 2 ^ 104 + 3 * 2 ^ 128)

/-- A packet of operation `op` for the last 8 bytes of that window. -/
def packet (op rights : Nat) : Packet :=
  { dst := 0, src := 7, op := op, resp := false, esc := false, epoch := false, nmin := false, igrp := 0, ghop2 := false, gh := 0
    last := true, cen := false, len := 8, roff := 56, coff := 0, xid := 1
    value := if op = 1 then 8 else 1
    handle := sealOf Config.windowKey ((body rights).setWidth 256) ++ body rights, data := List.replicate 8 5 }

def windowed : State := { place with windows := [(3, { valid := true, base := 0x8000, bound := 64 })] }

/-- The right of the body's that operation `op` needs. -/
def right (op r : Nat) : Bool := (body r).getLsbD (match op with | 0 => 104 | 1 => 105 | _ => 106)

theorem window_reason : ∀ op ∈ [0, 1, 3], ∀ r ∈ List.range 8,
    windowed.windowReason (packet op r) = if right op r then none else some 2 := by
  intro op ho r hr
  have t : Handle.tag (packet op r).handle = sealOf Config.windowKey (packet op r).handle := by
    simp only [packet, Handle.tag, tag_high, seal_low]
  have p (i n : Nat) (h : i + n ≤ 192) : (packet op r).handle.extractLsb' i n = (body r).extractLsb' i n :=
    part_low _ _ i n h
  have b (i : Nat) (h : i < 192) : (packet op r).handle.getLsbD i = (body r).getLsbD i := bit_low _ _ i h
  simp only [State.windowReason, t, Handle.mod, Handle.wslot, Handle.gen, Handle.bound, Handle.wr, Handle.rd, Handle.ad,
    p 128 12 (by decide), p 140 16 (by decide), p 156 15 (by decide), p 64 40 (by decide), b 104 (by decide), b 105 (by decide),
    b 106 (by decide), ne_eq, not_true_eq_false, false_or]
  clear t p b
  revert hr; revert r; revert ho; revert op
  decide +kernel

/-- A PUT, a GET and an add up to the window's last byte that have their right, and that lack it. -/
theorem test_witness_FabricPackets :
    (∀ p ∈ [packet 0 1, packet 1 2, packet 3 4], windowed.windowReason p = none) ∧
    ∀ p ∈ [packet 0 6, packet 1 5, packet 3 3], windowed.windowReason p = some 2 := by
  have h := window_reason
  constructor <;> intro p hp <;> simp only [List.mem_cons, List.not_mem_nil, or_false] at hp <;>
    rcases hp with rfl | rfl | rfl <;> rw [h _ (by decide) _ (by decide)] <;> decide +kernel

/-- A GET's read; replies for the one fragment of a GET of context 0, with its command; and the fragment's end. -/
theorem test_witness_FabricPackets_replies :
    let s := copier 5
    let m : Cmd := { s.command 8 ⟨1, 8, 0, false, false⟩ with started := true }
    let g : Frag := ⟨1, 0, 1, 0, 0, m.seq, 8, 0x10000, 5, some 3, 0, 8, 0, false, false, 9⟩
    let u : State := { s with ctxs := [(0, { s.ctx 0 with q0 := [m] })], frags := [g] }
    (windowed.hubRead 0 (0x8000 + 56) 8).2.isSome = true ∧
    (({ windowed with badLines := [0x8000 / 128] } : State).hubRead 0 (0x8000 + 56) 8).2 = none ∧
    ({ u with ctxs := [] } : State).hasCmd g = false ∧
    (u.frags.find? (fun g => g.xid = 1) = some g ∧ u.fragCmd g = some (0, m) ∧
      (match u.replyData 0 m g (List.replicate 8 5) with | (_, none) => true | _ => false) = true) ∧
    (u.frags = [g] ∧ { g with got := true }.got = true) ∧
    (let p : Packet := { packet 1 2 with value := 6, handle := 9 };
      p.xid = 1 ∧ p.handle = g.handle ∧ p.value.toNat % 256 = 6) ∧
    u.ctxs.find? (fun q => q.2.live && q.2.task.uid = g.uid && q.2.task.member = g.member) = some (0, u.ctx 0) ∧
    (u.ctx 0).busy = true := by decide +kernel

/-- FIPS 197: the S-box of 0x53, and the products of 0x57 by 0x02 and by 0x13. -/
theorem test_aes_bytes : Aes.sbox 0x53 = 0xED ∧ Aes.xtime 0x57 = 0xAE ∧ Aes.mul 8 0x57 0x13 = 0xFE := by decide +kernel

/-- Port 3, UP on eight lanes, with one flit in its replay buffer. -/
def linked : State :=
  { place with ports := [(3, { st := .up, tx := { map := 0xFF, replay := [(0, 0, ⟨none, false, 0⟩)], seq := 1 }, rx := { map := 0xFF } })] }

/-- A flit of type `type` with sequence number `seq` and payload `w`. -/
def flit (type seq : Nat) (w : BitVec 512 := 0) : Flit := FlitF.make type seq false 11 0 0 w

theorem test_flits_are_good : ∀ n ∈ List.range 7, FlitF.good (flit n n (BitVec.ofNat 512 0x7F)) = true ∧
    (flit n n).lost = 0 ∧ ((linked.lanesLost 3 { flit n n with lost := 0x80 }).port 3).st = .up ∧ FlitF.good { flit n n with garbled := true } = false := by decide +kernel

/-- A good flit of each type that meets each of its clauses; and a map with fewer than four lanes, or the map at hand. -/
theorem test_witness_LinkFlits :
    let h (f : Flit) : Port := (Claim.heard linked 3 f).port 3
    (3 < 48 ∧ (linked.port 3).st = .up ∧ FlitF.good (flit 1 0) = true ∧ FlitF.good (flit 1 5) = true) ∧
    FlitF.type (flit 0 0) = 0 ∧
    (FlitF.type (flit 1 0) = 1 ∧ FlitF.vc (flit 1 0) = 11 ∧ FlitF.seq (flit 1 0) = (h (flit 1 0)).rx.expect ∧
      FlitF.seq (flit 1 5) ≠ (h (flit 1 5)).rx.expect) ∧
    (FlitF.type (flit 2 0) = 2 ∧ (h (flit 2 0)).tx.holds (FlitF.seq (flit 2 0)) = true) ∧
    (FlitF.type (flit 3 0) = 3 ∧ (h (flit 3 0)).tx.replay = [(0, 0, ⟨none, false, 0⟩)] ∧ FlitF.seq (flit 3 0) = 0 ∧
      (h (flit 3 0)).tx.naked = none ∧ (h (flit 3 5)).tx.holds (FlitF.seq (flit 3 5)) = false) ∧
    (FlitF.type (flit 4 0 0x7F) = 4 ∧ (0x7F : BitVec 8) ≠ (h (flit 4 0 0x7F)).rx.map ∧ 4 ≤ lanesOf 0x7F ∧
      lanesOf 0x70 < 4 ∧ (h (flit 4 0 0xFF)).rx.map = 0xFF) ∧
    (FlitF.type (flit 5 0 0x0F) = 5 ∧ 4 ≤ lanesOf 0x0F ∧ (h (flit 5 0 0x0F)).tx.mapSeq = none) ∧
    (FlitF.type (flit 6 0) = 6 ∧ (h (flit 6 0)).rx.expect = 0 ∧ inWindow 0 512 (0 % 4096) = true ∧
      inWindow 0 512 (2000 % 4096) = false) := by
  decide +kernel

/-- A port for each clause: its lanes, its replay buffer and its counts at the ends of their ranges; keys; a spare port. -/
theorem test_witness_PortEvents :
    let p : Port := { st := .up, prot := true
                      tx := { map := 0xFF, replay := [(0, 0, ⟨none, false, 0⟩)], seq := 1, sinceResync := 1024 }
                      rx := { map := 0xFF, accepted := 1, waiting := true, sinceResync := 1088 } }
    let s (p : Port) : State := { place with ports := [(3, p)] }
    let m (map lane : Nat) : Nat := lanesOf (BitVec.ofNat 8 map &&& ~~~(BitVec.ofNat 8 (2 ^ lane)))
    ((s p).port 3 = p ∧ p.rx.pend = none ∧ p.rx.map.getLsbD 7 = true ∧ 4 ≤ m 0xFF 7 ∧ m 0x0F 0 < 4 ∧
      2 ^ 24 < 1025 * 2 ^ p.thrLog ∧ 1024 * 2 ^ p.thrLog ≤ 2 ^ 24 ∧ p.rx.accepted ≠ 0 ∧
      p.rx.waiting = true ∧ p.tx.replay ≠ [] ∧ p.tx.resends < 16 ∧ 16 ≤ { p.tx with resends := 16 }.resends ∧
      1024 ≤ p.tx.sinceResync ∧ 1088 ≤ p.rx.sinceResync ∧ p.rsRow + 1 < 3 ∧ 3 ≤ { p with rsRow := 2 }.rsRow + 1 ∧
      p.tx.queue = []) ∧
    (lanesOf 7 < 4 ∧ 4 ≤ lanesOf 0x0F ∧ p.retrainRow + 1 < 3 ∧ 3 ≤ { p with retrainRow := 2 }.retrainRow + 1) ∧
    ((s { p with st := .down }).spareFor = none ∧ (s { p with st := .down }).spareFor ≠ some 3 ∧
      ({ s { p with st := .down } with spareFor := some 4 } : State).spareFor = some 4) ∧
    (p.tx.rekeying = false ∧ p.tx.keys.idleFree = true ∧ p.rx.keys.idleFree = true) ∧
    (let q := { p with tx := { p.tx with queue := [packet 0 1] } };
      (q.tx.queue[0]?).map (·.esc) = some false) ∧
    ((s p).fnAway 5 = false ∧ (s p).fnAway 7 = false ∧
      ({ s p with nalvel := [(5, { graft := .reverted })] } : State).fnAway 5 = true) ∧
    let u : State := { s p with ports := (List.range 48).map fun k => (k, p) }
    (∀ e, ({ u with epoch := !e } : State).epochHere e = false) ∧ ∀ j ∈ List.range 48, (u.port j).st = .up := by
  decide +kernel

/-- A message of function 0 for region 0 or 1. -/
def req (args : ReqArgs) (region : Nat := 1) : Req := ⟨0, 0, 1, region, 0, args⟩

/-- Region 1 below region 0, with address space 2 of one page of 1 GiB. -/
def hosted : State :=
  { place with
    regions := [(0, some Region.root), (1, some { Region.root with level := 1, asid := some 2 })]
    spaces := [(1, some { region := 0, raf := [0x1000#64 ++ 0x219#64, 0x2000#64 ++ 0x99#64] ++ List.replicate 14 0 }),
      (2, some { region := 1, raf := [0x1000#64 ++ 0x219#64, 0x2000#64 ++ 0x99#64] ++ List.replicate 14 0 })]
    funcs := [(0, { bound := true })]
    nalvel := [(5, { graftVersion := 1 })] }

/-- Messages about regions, queues and address spaces. -/
theorem test_witness_HostMessages :
    let s := hosted
    let r := Region.root
    (∀ fn, fn < 8 → s.fnAway fn = false ∧ ({ s with nalvel := [(fn, { graft := .handover })] } : State).fnAway fn = true) ∧
    (s.within 0 0 = true ∧ (s.regionD 0).level = 0 ∧ (s.region 0).isSome = true) ∧
    (s.within 0 1 = true ∧ (s.region 1).isSome = true ∧ 0 < 1 ∧ (List.range 4096).find? (fun r => (s.region r).isNone) = some 2) ∧
    (([(RcbField.prio, 15), (.cores, 96)].foldlM (fun (y : Region) f => Region.put y f) { r with level := 1, asid := some 2 }).any
      fun y => (s.settleFab.setRegion 1 y).budgetsOk) = true ∧
    ((1 : Nat) ≠ 0 ∧ s.subtree 1 = [1] ∧ ∀ p ∈ s.funcs, p.2.region = 1 → s.funcInUse p.1 = false) ∧
    (List.range 4096).find? (fun k => !(s.queue k).live && (s.queue k).st ≠ .held) = some 0 ∧
    (let u : State := { s with queues := [(3, { owner := 1, live := true, st := .active })] };
      Tab.wf {} u.queues = true ∧ (u.nal 2).mail = [] ∧ (u.queue 3).live = true ∧ (u.queue 3).owner = 1 ∧
      (u.queue 3).st ≠ .held ∧ u.leases = []) ∧
    ([0x1000#64 ++ 0x219#64].all rafEntryOk = true ∧ (s.regionD 1).asid = some 2 ∧
      ∀ k, k < 16 → Seg.kept ([0x1000#64 ++ 0x219#64].getD k 0) ≠ s.rafEntry 2 (k * 2 ^ 53) → s.segmentPinned 2 k = false) ∧
    (req (.regionCreate 0) 0).op ≠ 1 ∧ ({ req (.regionCreate 0) 0 with op := 1 } : Req).op = 1 := by decide +kernel

/-- Messages about windows, device pages, thresholds, links, functions, peers and grafts. -/
theorem test_witness_HostMessages_more :
    let s := hosted
    (List.range 4096).find? (fun k => !(s.window k).valid) = some 0 ∧
    s.pinWaits 1 0x8000 64 = false ∧ s.pinWaits 1 0x8000 4096 = false ∧
    (match s.rangeLease 1 0x8000 64 ⟨true, true, false⟩ with | (_, none, _) => true | _ => false) = true ∧
    (let u : State := { s with windows := [(4095, { valid := true, region := 1 })] };
      (u.window 4095).valid = true ∧ (u.window 4095).region = 1) ∧
    (let g := s.seg 2 (2 ^ 53);
      s.mappable 1 0x8_0000_0000_0000 4096 = true ∧ g.mtype = 1 ∧ g.mapped (2 ^ 53) = true ∧ 2 ^ 53 % 2 ^ g.plog = 0 ∧
      0x8_0000_0000_0000 % 2 ^ g.plog = 0 ∧
      2 ^ 53 / 2 ^ 53 = (2 ^ 53 + (4096 + 2 ^ g.plog - 1) / 2 ^ g.plog * 2 ^ g.plog - 1) / 2 ^ 53 ∧
      (s.mapDevicePages (s.asidOf 1) g.plog (2 ^ 53) 0x8_0000_0000_0000 ((4096 + 2 ^ g.plog - 1) / 2 ^ g.plog)).isSome = true) ∧
    s.rowthr.length < 16 ∧ ((linked.port 3).st = .up ∧ (linked.port 3).prot = false) ∧
    ((s.func 1).bound = false ∧ (s.regionD 1).level = 1 ∧
      (match s.entryLeases 1 [(0x8000, 1, true, true)] with
        | (u, none, _) => u.pins.all fun p => p.2 ≤ 65535 | _ => false) = true) ∧
    ∀ k, k < 8 → (s.nal k).graft = .stock ∧ (s.nal k).graftReq = none := by decide +kernel

/-- A genuine capability of queue 3 of region 0 at 0x20000, for pushes in ticket order and for wakes. -/
def capBody : BitVec 192 := BitVec.ofNat 192 (0x20000 + 4 * 2 ^ 64 + 2 ^ 68 + 3 * 2 ^ 72 + 3 * 2 ^ 96)
def cap : BitVec 256 := sealOf Config.queueKey (capBody.setWidth 256) ++ capBody

/-- That queue, EMPTY. -/
def pushed : State :=
  { hosted with queues := [(3, { base := 0x20000, ticketMode := true, push := true, wake := true, live := true })] }

theorem cap_part (i n : Nat) (h : i + n ≤ 192) : cap.extractLsb' i n = capBody.extractLsb' i n := part_low _ _ i n h

theorem cap_qnum : Cap.qnum cap = 3 := by
  simp only [Cap.qnum, cap_part 96 12 (by decide)]
  decide +kernel

theorem cap_live : pushed.capLive cap = true := by
  have t : cap.extractLsb' 192 64 = sealOf Config.queueKey cap := tag_sealed Config.queueKey capBody
  have g : Cap.genuine cap = true := by
    simp only [Cap.genuine, t, cap_part 0 6 (by decide), cap_part 57 7 (by decide), cap_part 69 3 (by decide),
      cap_part 75 5 (by decide), cap_part 92 4 (by decide), cap_part 124 4 (by decide), cap_part 136 56 (by decide), and_true]
    decide +kernel
  have k : Cap.gen cap = 0 := by
    simp only [Cap.gen, cap_part 108 16 (by decide)]
    decide +kernel
  simp only [State.capLive, g, cap_qnum, k]
  decide +kernel

/-- A push of a record of zeros with that capability, as 128 bytes. -/
theorem pushed_bytes (c : BitVec 256) : (c.setWidth 1024).extractLsb' 768 256 = 0 ∧ (c.setWidth 1024).extractLsb' 0 256 = c ∧
    (c.setWidth 1024).extractLsb' 256 512 = 0 := by
  refine ⟨?_, ?_, ?_⟩ <;> apply BitVec.eq_of_getLsbD_eq <;> intro j hj <;>
    simp only [BitVec.getLsbD_extractLsb', BitVec.getLsbD_setWidth, hj, decide_true, Bool.true_and, Nat.zero_add]
  · simp [BitVec.getLsbD_of_ge c (768 + j) (by omega)]
  · simp [show j < 1024 by omega]
  · simp

theorem test_witness_HostAccesses_push : pushed.answers 0 = true ∧ (cap.setWidth 1024).extractLsb' 768 256 = 0 ∧
    pushed.capLive ((cap.setWidth 1024).extractLsb' 0 256) = true ∧
    (pushed.hubPush (pushed.funcRegion 0) ((cap.setWidth 1024).extractLsb' 0 256) ((cap.setWidth 1024).extractLsb' 256 512)
      none).isSome = true := by
  obtain ⟨h1, h2, h3⟩ := pushed_bytes cap
  refine ⟨by decide +kernel, h1, by rw [h2, cap_live], ?_⟩
  rw [h2, h3]
  simp only [State.hubPush, cap_live, cap_qnum]
  decide +kernel

/-- A message of operation `op` for region `region`. -/
def message (op region : Nat) : HostMessage := ⟨BitVec.ofNat 512 (op + region * 2 ^ 32), .graft 0 0 0⟩

/-- A function that answers, and one that does not; a message in its MBOX while replies are held, for a region that it may
not name, of no operation, for a mailbox with room, and for a full one; its vectors; a queue that it may wake. -/
theorem test_witness_HostAccesses :
    let s := pushed
    let with0 (x : Func) : State := { s with funcs := [(0, x)] }
    let q (op region : Nat) : Req := Req.ofMessage 0 (message op region).message (message op region).args
    (s.answers 0 = true ∧ (s.func 0).mbox = none ∧ (s.func 0).heldReplies = [] ∧ Tab.wf {} s.funcs = true ∧
      s.answers 1 = false ∧ s.answers 127 = false) ∧
    ((with0 { bound := true, heldReplies := [0] }).answers 0 = true ∧
      ((with0 { bound := true, heldReplies := [0] }).func 0).heldReplies ≠ []) ∧
    (s.within 1 (q 0x01 0).region = false ∧ s.within 0 (q 0xFF 1).region = true ∧ servingOf (q 0xFF 1).op = none ∧
      servingOf (q 0x01 1).op = some 2 ∧ (s.nal 2).mail.length < 32 ∧
      32 ≤ (({ s with nalvel := [(2, { mail := List.replicate 32 (.lane 0 0, false) })] } : State).nal 2).mail.length) ∧
    (let y := with0 { bound := true, unmasked := [7], pendingVec := [7] };
      7 ∈ (y.func 0).pendingVec ∧ 8 ∉ (y.func 0).unmasked ∧ Tab.wf {} y.funcs = true ∧ Tab.wf 0 (y.func 0).msi = true ∧ 8 ∉ (y.func 0).pendingVec ∧ 0x1_0000 + 16 * 2047 + 8 < 0x1_8000) ∧
    (s.fnAway 0 = false ∧ ({ s with nalvel := [(0, { graft := .reverted })] } : State).fnAway 0 = true) ∧
    ((s.func 0).ringFull = false ∧ (s.func 0).replybase.toNat + 64 ≤ 2 ^ 50 ∧
      ((with0 { bound := true, replytail := 1 }).func 0).ringFull = true) ∧
    (s.linkUp = true ∧ ({ s with power := { tripped := true } } : State).linkUp = false ∧ s.fnAway 2 = false ∧
      s.fnAway 7 = false ∧ s.power.lost = false ∧ s.power.stuck = none ∧ s.isBound 0 = true ∧ s.isBound 1 = false ∧
      s.staged.length < 16 ∧ 16 ≤ ({ s with staged := List.replicate 16 (some 0, 0) } : State).staged.length) ∧
    (paKind (0x8_0000_0000_0000 + 0x1018) = .device ∧ paKind (0x8_0000_0000_0000 + 0x4_0000_0000_0000) ≠ .device) ∧
    (let z : State := { s with ctxs := [(0, { wake := some ⟨1, 3, 5⟩ })] };
      (z.ctx 0).wake = some ⟨1, 3, 5⟩ ∧ (s.ctx 1).wake = none) := by decide +kernel

/-- A capability with which function 0 may wake its queue, and, of another function, may not. -/
theorem test_witness_HostAccesses_wake : pushed.capLive cap = true ∧ (pushed.queue (Cap.qnum cap)).wake = true ∧
    (pushed.queue (Cap.qnum cap)).func = 0 ∧ (pushed.queue (Cap.qnum cap)).anyf = false := by
  simp only [cap_live, cap_qnum]
  decide +kernel

/-- Whatever the firmware's tables begin at, an offset outside them. -/
theorem test_witness_HostAccesses_bar2 : Memory.wf pushed.mem ∧ pushed.badLines = [] ∧ pushed.under = [] ∧
    (pushed.func 0).bar2log = 39 ∧ ∃ off, off < 0x80_0000_0000 ∧ inTables off = false := by
  refine ⟨by decide +kernel, by decide +kernel, by decide +kernel, by decide +kernel, ?_⟩
  by_cases h : Config.rcbBase = 0
  · exact ⟨2 ^ 20, by decide +kernel, decide_eq_false fun g => by rw [h] at g; omega⟩
  · exact ⟨0, by decide +kernel, decide_eq_false fun g => h (Nat.le_zero.mp g.1)⟩

/-- A bound function with one host window entry of two pages, which may be read and not written: its last byte, the
access that ends beyond it, and an entry that is not there. -/
theorem test_witness_HostAccesses_vf :
    let s : State := { hosted with funcs := [(0, { bound := true }), (1, { bound := true, region := 1, bar2 := [(0x8000, 2, true, false)] })] }
    s.answers 1 = true ∧ (s.func 1).bar2[0x1FFF / 2 ^ 32]? = some (0x8000, 2, true, false) ∧ 0x1FFF % 2 ^ 32 < 2 * 4096 ∧
    s.vaPa (s.asidOf (s.func 1).region) (0x8000 + 0x1FFF % 2 ^ 32) = some 0x9FFF ∧ 2 * 4096 < 0x1FFF % 2 ^ 32 + 2 ∧
    (s.func 1).bar2[2 ^ 32 / 2 ^ 32]? = none := by decide +kernel

/-- A load of a peer device's bytes. -/
theorem test_witness_HostAccesses_peer :
    let o : Outst := { pc := 0x10000, va := 0x20_0000_0000_0008, size := 8, wr := .s 3 7, bad := none, ext := true }
    let p := place.homeWrite 0x2000 (bytesOf 8 0xA_0000_0000_0007)
    let s : State := { p with ctxs := [(0, { p.ctx 0 with loads := [o] })], peers := [(0, some ⟨0, 0x1000, 4096⟩)] }
    (s.ctx 0).loads[0]? = some o ∧ o.ext = true ∧ o.bad = none ∧
      s.vaPa (s.asidAt 0) o.va.toNat = some 0xA_0000_0000_0008 ∧ s.peerAt 0xA_0000_0000_0008 = some (0, 0x1008) := by
  decide +kernel

/-- A graft at each of its states; a trial that is silent, one that runs out of time, and one that does neither; requests
that reach F7, while it is there and while it is replaced, and one that does not. -/
theorem test_witness_ReplacementAndAttestation :
    let s (n : Nalvel) : State := { State.reset with nalvel := [(3, n)], now := 5000000 }
    let q := req (.graft 3 0 0) 0
    (∀ g ∈ [GraftSt.stock, .loaded, .handover, .trial, .committed, .reverted], ((s { graft := g, seq := 1 }).nal 3).graft = g) ∧
    (((s { graftReq := some q }).nal 3).graftReq = some q ∧ (s { graftReq := some q }).fnAway 7 = false ∧
      Tab.wf {} (s { graftReq := some q }).nalvel = true ∧ ([] : List Byte).length ≤ 65472 ∧ (s {}).meas.length = 16 ∧
      Memory.wf (s {}).mem ∧ (s {}).under = []) ∧
    (let u := s { graft := .trial, trialStart := 1000000 };
      (u.nal 3).beat + 3 ≤ (5000000 - (u.nal 3).trialStart) / 1000000 ∧ (u.nal 3).beat + 3 ≤ 500 ∧ u.now ≤ 5000000) ∧
    (let u := s { graft := .trial, trialStart := 1000000, beat := 499 };
      500 ≤ (501000000 - (u.nal 3).trialStart) / 1000000 ∧ ¬ (u.nal 3).beat + 3 ≤ 500) ∧
    let x : Spdm := { versionDone := true, capsDone := true, algsDone := true, session := true, established := true }
    let u : State := { State.reset with spdm := [(0, x), (1, x)], funcs := [(0, { bound := true }), (1, { bound := true })] }
    u.spdmReaches 0 = true ∧ u.spdmReaches 1 = true ∧ u.spdmReaches 128 = true ∧ u.spdmReaches 129 = false ∧
    u.f7Away = false ∧ ({ u with nalvel := [(7, { graft := .trial })] } : State).f7Away = true ∧ u.spdmOf 0 = x ∧
    u.spdmOf 1 = x ∧ u.isBound 1 = true := by decide +kernel

/-- Whatever its schema, a graft accepts a record of that schema whose empty body has its CRC, and refuses one without. -/
theorem test_witness_ReplacementAndAttestation_record (n : Nat) (h : n < 2 ^ 16) :
    (∃ l, acceptsRecord n l [] = true) ∧ ∃ l, acceptsRecord n l [] = false := by
  refine ⟨⟨BitVec.ofNat 8 n :: BitVec.ofNat 8 (n / 256) :: List.replicate 62 0, ?_⟩, List.replicate 8 0 ++ [1], ?_⟩
  · have c : ofBytes ((((BitVec.ofNat 8 n :: BitVec.ofNat 8 (n / 256) :: List.replicate 62 0 : List Byte)).drop 8).take 4) =
        (crc32c []).toNat := by
      simp only [List.drop]
      decide +kernel
    have d : ofBytes ((BitVec.ofNat 8 n :: BitVec.ofNat 8 (n / 256) :: List.replicate 62 0 : List Byte).take 2) = n := by
      simp only [List.take, ofBytes, BitVec.toNat_ofNat]
      omega
    simp only [acceptsRecord, c, d, decide_true, Bool.true_or, Bool.and_self]
  · have c : decide (ofBytes (((List.replicate 8 0 ++ [1] : List Byte).drop 8).take 4) = (crc32c []).toNat) = false := by
      decide +kernel
    simp only [acceptsRecord, c, Bool.and_false]

/-- Readings over the cap, just below it, and 5 % below every limit; a clock above 700 MHz and one at it. The bring-up of
a module either fails in one step or in none. -/
theorem test_witness_PowerAndReset :
    let r (p : Nat) : Reading := ⟨0, p, 0, 0, 0, [50, 60, 70, 80], 40, [30]⟩
    let s : State := { State.reset with now := 100 }
    let d := Reading.hottest (r 3401)
    overLimit (Reading.limits (r 3401) s.power.cap) = true ∧ overLimit (Reading.limits (r 3400) s.power.cap) = false ∧
    calmLimits (Reading.limits (r 3400) s.power.cap) = false ∧ calmLimits (Reading.limits (r 3230) s.power.cap) = true ∧
    overLimit (Reading.limits (r 3230) s.power.cap) = false ∧ s.now ≤ 100 ∧ Reading.trips (r 3401) = false ∧
    Reading.trips { r 3401 with tdie := [50, 60, 115, 80] } = true ∧ Reading.trips { r 3401 with thbm := [105] } = true ∧
    s.fnAway 6 = false ∧ ({ s with nalvel := [(6, { graft := .handover })] } : State).fnAway 6 = true ∧ 700 < (s.die d).mhz ∧
    ((s.setMhz d 700).die d).mhz ≤ 700 ∧ (∀ n ∈ [0, 1, 2, 3, 4],
      ({ s with power := { s.power with stage := n, calmSince := some 0 } } : State).power.stage = n) ∧
    sensorField 19 = some (171, 12) := by decide +kernel

theorem test_witness_PowerAndReset_bringup (s : State) :
    (Config.bringupFails s.free = none ∨ ∃ k, Config.bringupFails s.free = some k) ∧
    (let v := Config.inputVoltage s.free; v < 4800 ∨ 6000 < v ∨ 4800 ≤ v ∧ v ≤ 6000) := by
  refine ⟨by cases Config.bringupFails s.free <;> simp, ?_⟩
  show _ ∨ _ ∨ _
  omega

/-- Whichever spares pass, position 5 either finds one or does not. -/
theorem test_witness_PowerAndReset_spares (n : Nat) :
    let s : State := State.reset
    let spare (j : Nat) : Prop := j < 2 ∧ 2 ≤ j + (s.die (dieOfCore 5)).spares ∧
      Config.selfTestFails n (96 + 2 * dieOfCore 5 + j) = false
    (∃ j, spare j) ∨ ¬ ∃ j, spare j := Classical.em _

end Sys2Proof.Tests
end

section
/-! PROOF. Canonical form, O41: how the proof is cut. A state is in canonical form by three of its fields (memory, host memory,
the table of contexts), so each function of the model that yields a state has one lemma `State.Canonical.<function>`, which
takes the form of the state before to that of the state after: lemmas compose in the order in which the model composes the
functions (`h.modCtx.postAll`). A function that may yield no state has the same lemma of `OptCanonical`, `ResCanonical`,
`OutCanonical` or `RanCanonical`. -/

namespace Sys2Proof.Tab

section
variable {α : Type} [DecidableEq α] {d : α}

theorem wf_mapVals {t : Tab α} (f : α → α) (h : wf d t = true) : wf d (mapVals d t f) = true :=
  List.foldlRecOn (motive := fun u => wf d u = true) t _ h fun _ h _ _ => wf_set h

/-- A change that keeps every key and turns no listed value into the default. -/
theorem wf_map {f : Nat × α → Nat × α} (hk : ∀ p, (f p).1 = p.1) (hv : ∀ p, p.2 ≠ d → (f p).2 ≠ d) :
    ∀ {t : Tab α}, wf d t = true → wf d (t.map f) = true
  | [], _ => rfl
  | (j, v) :: t, h => by
    simp only [wf, Bool.and_eq_true, decide_eq_true_eq] at h
    obtain ⟨⟨hd, ha⟩, ht⟩ := h
    have ha' : above j (t.map f) = true := by
      cases t with
      | nil => rfl
      | cons p t => simpa [above, hk] using ha
    simp [wf, hk, hv (j, v) hd, ha', wf_map hk hv ht]

end

end Sys2Proof.Tab

namespace Sys2Proof.Machine

section
variable {s t u : State}

/-- What writes none of the three tables keeps their form, whatever it makes of the other fields. The fields stand by name,
so that a record update is recognised by its shape. -/
theorem State.Canonical.frame (h : s.Canonical)
    {grants agenda turn cur free now cores dies regions spaces tables pins leases nextLease grantsF3 pageReqs
    migrations queues rrQueue wakes staged withheld overflow under launches walks reservations saved nextSaved
    nextTask suspended posts ordNet reductions hbm badLines rowthr modid ports spareFor fabric treeStale escape0
    escape1 epoch windows frags fabCredit fabCreditAt delivered nextXid funcs aperture peers nalvel meas spdm
    snapseq eccCount dataErrors rerunsAgreed retirements dataFaults power outbox} :
    (State.mk
      grants agenda turn cur free now s.mem s.hostMem s.ctxs cores dies regions spaces tables pins leases
      nextLease grantsF3 pageReqs migrations queues rrQueue wakes staged withheld overflow under launches
      walks reservations saved nextSaved nextTask suspended posts ordNet reductions hbm badLines rowthr
      modid ports spareFor fabric treeStale escape0 escape1 epoch windows frags fabCredit fabCreditAt
      delivered nextXid funcs aperture peers nalvel meas spdm snapseq eccCount dataErrors rerunsAgreed
      retirements dataFaults power outbox).Canonical := ⟨h.mem, h.host, h.ctxs⟩

theorem State.Canonical.ite {c : Prop} [Decidable c] (ht : t.Canonical) (hu : u.Canonical) :
    (if c then t else u).Canonical := by split <;> assumption

theorem State.Canonical.fst_ite {α : Type} {c : Prop} [Decidable c] {p q : State × α} (hp : p.1.Canonical)
    (hq : q.1.Canonical) : (if c then p else q).1.Canonical := by split <;> assumption

theorem State.Canonical.fst {α : Type} {p : State × α} {a : α} (h : p.1.Canonical) (e : p = (t, a)) : t.Canonical := by
  subst e; exact h

theorem State.Canonical.fst_mk {α : Type} {a : α} (h : s.Canonical) : (s, a).1.Canonical := h

theorem State.Canonical.foldl {α : Type} {f : State → α → State} {l : List α} (h : s.Canonical)
    (hf : ∀ s a, s.Canonical → (f s a).Canonical) : (l.foldl f s).Canonical := foldl_canonical hf l h

theorem State.Canonical.fst_foldl {α β : Type} {f : State × β → α → State × β} {l : List α} :
    ∀ {p : State × β}, p.1.Canonical → (∀ p a, p.1.Canonical → (f p a).1.Canonical) → (l.foldl f p).1.Canonical := by
  induction l with
  | nil => exact fun h _ => h
  | cons a l ih => exact fun h hf => ih (hf _ a h) hf

theorem State.Canonical.fst_foldlM {α β : Type} {f : State × β → α → Option (State × β)}
    (hf : ∀ p a q, p.1.Canonical → f p a = some q → q.1.Canonical) {l : List α} :
    ∀ {p q : State × β}, p.1.Canonical → l.foldlM f p = some q → q.1.Canonical := by
  induction l with
  | nil => exact fun h e => Option.some.inj e ▸ h
  | cons a l ih =>
    intro p q h e
    obtain ⟨r, hr, e⟩ := Option.bind_eq_some_iff.mp e
    exact ih (hf p a r h hr) e

/-- Every state that a value may leave is in canonical form: none, when it leaves none. -/
def OptCanonical : Option State → Prop
  | some t => t.Canonical
  | none => True

/-- What a computation returns, unless it ends in a fault, satisfies `P`. -/
def Res.All {α : Type} (P : α → Prop) : Res α → Prop
  | .ok a => P a
  | .error _ => True

/-- The state that a computation returns, if it does, is in canonical form. -/
abbrev ResCanonical (r : Res State) : Prop := Res.All State.Canonical r

/-- The next state of an outcome, if it has one, is in canonical form. -/
def OutCanonical : Outcome → Prop
  | .next t => t.Canonical
  | _ => True

theorem OptCanonical.some {o : Option State} (h : OptCanonical o) (e : o = .some t) : t.Canonical := by subst e; exact h

theorem OptCanonical.ite {c : Prop} [Decidable c] {o p : Option State} (ho : OptCanonical o) (hp : OptCanonical p) :
    OptCanonical (if c then o else p) := by split <;> assumption

theorem OptCanonical.getD {o : Option State} (h : OptCanonical o) (hs : s.Canonical) : (o.getD s).Canonical := by
  cases o with
  | none => exact hs
  | some t => exact h

theorem OptCanonical.map {o : Option State} {f : State → State} (h : OptCanonical o)
    (hf : ∀ s, s.Canonical → (f s).Canonical) : OptCanonical (o.map f) := by
  cases o with
  | none => exact trivial
  | some t => exact hf t h

theorem OptCanonical.findSome {α : Type} {f : α → Option State} (hf : ∀ a, OptCanonical (f a)) (l : List α) :
    OptCanonical (l.findSome? f) := by
  induction l with
  | nil => exact trivial
  | cons a l ih =>
    rw [List.findSome?_cons]
    have := hf a
    cases e : f a with
    | none => exact ih
    | some t => exact this.some e

theorem Res.All.ok {α : Type} {P : α → Prop} {r : Res α} {a : α} (h : Res.All P r) (e : r = .ok a) : P a := by
  subst e; exact h

theorem Res.bind_ok {α β : Type} {r : Res α} {f : α → Res β} {b : β} (e : r >>= f = .ok b) :
    ∃ a, r = .ok a ∧ f a = .ok b := by
  cases r with
  | error => cases e
  | ok a => exact ⟨a, rfl, e⟩

theorem Res.All.ite {α : Type} {P : α → Prop} {c : Prop} [Decidable c] {q r : Res α} (hq : Res.All P q) (hr : Res.All P r) :
    Res.All P (if c then q else r) := by split <;> assumption

theorem Res.All.bind {α β : Type} {P : β → Prop} {r : Res α} {f : α → Res β} (h : ∀ a, Res.All P (f a)) :
    Res.All P (r >>= f) := by
  cases r with
  | error => exact trivial
  | ok a => exact h a

theorem Res.All.bind_of {α β : Type} {P : α → Prop} {Q : β → Prop} {r : Res α} {f : α → Res β} (hr : Res.All P r)
    (h : ∀ a, P a → Res.All Q (f a)) : Res.All Q (r >>= f) := by
  cases r with
  | error => exact trivial
  | ok a => exact h a hr

/-- A check on the way that ends the computation when it fails. -/
theorem Res.All.guard {α : Type} {P : α → Prop} {c : Prop} [Decidable c] {q : Res Unit} {f : Unit → Res α}
    (h : ∀ a, Res.All P (f a)) : Res.All P (if c then q >>= f else f ()) := .ite (.bind h) (h ())

theorem OutCanonical.ite {c : Prop} [Decidable c] {o p : Outcome} (ho : OutCanonical o) (hp : OutCanonical p) :
    OutCanonical (if c then o else p) := by split <;> assumption

theorem OutCanonical.of_next {o : Outcome} (h : ∀ {t}, o = .next t → t.Canonical) : OutCanonical o := by
  cases o with
  | next t => exact h rfl
  | fault => exact trivial
  | refused => exact trivial

theorem canonical_of_next {o : Outcome} (e : o = .next t) (h : OutCanonical o) : t.Canonical := by subst e; exact h

theorem OutCanonical.andThen {o : Outcome} {f : State → Outcome} (ho : OutCanonical o)
    (hf : ∀ t, t.Canonical → OutCanonical (f t)) : OutCanonical (andThen o f) := by
  cases o with
  | next t => exact hf t ho
  | fault => exact trivial
  | refused => exact trivial
end

end Sys2Proof.Machine
end

section
/-! PROOF. Canonical form, O41: the functions of the model, file by file, in the order in which they stand there. -/

namespace Sys2Proof.Machine

section
variable {s : State}

/-! Machine/Access -/

theorem State.Canonical.setCtx (h : s.Canonical) {c x} : (s.setCtx c x).Canonical := setCtx_canonical h c x

theorem State.Canonical.modCtx (h : s.Canonical) {c f} : (s.modCtx c f).Canonical := h.setCtx

theorem State.Canonical.modArch (h : s.Canonical) {c f} : (s.modArch c f).Canonical := h.modCtx

theorem State.Canonical.setCore (h : s.Canonical) {k x} : (s.setCore k x).Canonical := h.frame

theorem State.Canonical.modCore (h : s.Canonical) {k f} : (s.modCore k f).Canonical := h.setCore

theorem State.Canonical.modDie (h : s.Canonical) {d f} : (s.modDie d f).Canonical := h.frame

theorem State.Canonical.setRegion (h : s.Canonical) {r x} : (s.setRegion r x).Canonical := h.frame

theorem State.Canonical.modRegion (h : s.Canonical) {r f} : (s.modRegion r f).Canonical := by
  unfold State.modRegion
  split
  · exact h.setRegion
  · exact h

theorem State.Canonical.setHomeByte (h : s.Canonical) {pa b} :
    (s.setHomeByte pa b).Canonical := homeWrite_canonical h pa [b]

theorem State.Canonical.homeWrite (h : s.Canonical) {pa l} :
    (s.homeWrite pa l).Canonical := homeWrite_canonical h pa l

theorem State.Canonical.homeWriteOpt (h : s.Canonical) {pa l} : (s.homeWriteOpt pa l).Canonical := by
  induction l generalizing s pa with
  | nil => exact h
  | cons b l ih =>
    cases b with
    | none => exact ih h
    | some b => exact ih h.setHomeByte

theorem State.Canonical.homeWriteNat (h : s.Canonical) {pa n v} : (s.homeWriteNat pa n v).Canonical := h.homeWrite

/-! Machine/Slice -/

theorem State.Canonical.hbmRequest (h : s.Canonical) {region cos pa bytes} :
    (s.hbmRequest region cos pa bytes).Canonical :=
  h.frame

theorem State.Canonical.repair (h : s.Canonical) {line} : (s.repair line).Canonical := h.frame

theorem State.Canonical.l2Touch (h : s.Canonical) {d line way away} : (s.l2Touch d line way away).Canonical :=
  h.modDie

theorem State.Canonical.l2Evict (h : s.Canonical) {d l} : (s.l2Evict d l).Canonical :=
  h.modDie.ite (h.modDie.hbmRequest.repair.ite h.modDie.hbmRequest)

theorem State.Canonical.l2Alloc (h : s.Canonical) {region hint line valid dirty} :
    OptCanonical (s.l2Alloc region hint line valid dirty) := by
  dsimp only [State.l2Alloc]
  split
  · split
    · exact trivial
    · split
      · exact h.l2Evict.modDie.l2Touch
      · exact h.modDie.l2Touch
  · split
    · exact trivial
    · split
      · exact h.l2Evict.modDie.l2Touch
      · exact h.modDie.l2Touch

theorem State.Canonical.l2Put (h : s.Canonical) {d l} : (s.l2Put d l).Canonical := h.modDie

theorem State.Canonical.sliceRead (h : s.Canonical) {region hint line mask} :
    (s.sliceRead region hint line mask).Canonical := by
  dsimp only [State.sliceRead]
  split
  · exact h
  · split
    · exact h.l2Touch.ite (h.l2Touch.hbmRequest.ite h.l2Touch.hbmRequest.l2Put)
    · exact h.hbmRequest.ite (h.hbmRequest.l2Alloc.getD h.hbmRequest)

theorem State.Canonical.sliceWrite (h : s.Canonical) {region hint line mask} :
    (s.sliceWrite region hint line mask).Canonical := by
  unfold State.sliceWrite
  extract_lets pa d direct
  have hd : (direct s).Canonical := h.hbmRequest.repair.ite h.hbmRequest
  split
  · exact h
  · split
    · exact h.l2Touch.l2Put
    · split
      · exact hd
      · split
        · next e => exact h.l2Alloc.some e
        · exact hd

theorem State.Canonical.readHome (h : s.Canonical) {region hint pa n} : (s.readHome region hint pa n).1.Canonical :=
  h.foldl fun _ _ h => h.sliceRead

theorem State.Canonical.writeHome (h : s.Canonical) {region hint pa l} : (s.writeHome region hint pa l).Canonical :=
  (h.foldl fun _ _ h => h.sliceWrite).homeWrite

/-! Machine/Events -/

theorem State.Canonical.post (h : s.Canonical) {r kind detail t extra} :
    (s.post r kind detail t extra).Canonical := by
  unfold State.post
  split
  · exact h
  · exact h.setRegion.ite h.readHome.writeHome.writeHome

theorem State.Canonical.postAll (h : s.Canonical) {rs kind detail t} : (s.postAll rs kind detail t).Canonical :=
  h.foldl fun _ _ h => h.post

theorem State.Canonical.postFault (h : s.Canonical) {r ticket w0 w1 w2 w3 frame cont} :
    (s.postFault r ticket w0 w1 w2 w3 frame cont).Canonical :=
  h.modRegion.post

theorem State.Canonical.domainEvent (h : s.Canonical) {r} : (s.domainEvent r).Canonical :=
  (h.postAll.foldl fun _ _ h => h.modRegion).postAll.ite h.postAll

theorem State.Canonical.emit (h : s.Canonical) {o} : (s.emit o).Canonical := h.frame

theorem State.Canonical.modFunc (h : s.Canonical) {f g} : (s.modFunc f g).Canonical := h.frame

theorem State.Canonical.modNal (h : s.Canonical) {fn f} : (s.modNal fn f).Canonical := h.frame

theorem State.Canonical.raiseVec (h : s.Canonical) {f vec} : (s.raiseVec f vec).Canonical := h.emit.ite h.modFunc

theorem State.Canonical.msix (h : s.Canonical) {r vec} : (s.msix r vec).Canonical := by
  unfold State.msix
  split
  · exact h.post
  · exact h.raiseVec

/-! Machine/Translate -/

theorem State.Canonical.tlbPutCore (h : s.Canonical) {k e} : (s.tlbPutCore k e).Canonical := h.modCore

theorem State.Canonical.tlbPutDie (h : s.Canonical) {d e} : (s.tlbPutDie d e).Canonical := h.modDie

theorem State.Canonical.ptrPut (h : s.Canonical) {d e} : (s.ptrPut d e).Canonical := h.modDie

theorem State.Canonical.noteWalk (h : s.Canonical) {d region asid va reads ps} :
    (s.noteWalk d region asid va reads ps).Canonical :=
  (h.foldl fun _ _ h => h.sliceRead).foldl fun _ _ h => h.ptrPut

theorem State.Canonical.walkReads (h : s.Canonical) {region asid va} : (s.walkReads region asid va).Canonical :=
  h.foldl fun _ _ h => h.sliceRead

theorem State.Canonical.correct (h : s.Canonical) {asid va ps w} : (s.correct asid va ps w).Canonical := h.frame

theorem State.Canonical.translate (h : s.Canonical) {d k region asid va ok} :
    (s.translate d k region asid va ok).1.Canonical := by
  unfold State.translate
  extract_lets g ent put1 put2 confirm hit
  have h1 {u : State} (hu : u.Canonical) (x : Word) : (put1 u x).Canonical := by
    simp only [put1]
    split
    · exact hu.tlbPutCore
    · exact hu
  have h2 {u : State} (hu : u.Canonical) (x : Word) : (put2 u x).Canonical := h1 hu.tlbPutDie x
  have hc : (confirm s).1.Canonical := by
    simp only [confirm]
    split
    · exact h2 h.correct.noteWalk _
    · exact h.correct.noteWalk
  have hhit : ∀ e : TlbEnt, State.Canonical (if ok e.leaf then
    (put1 s e.leaf, WalkRes.leaf e.leaf) else confirm s).1 := fun e => by
    split
    · exact h1 h _
    · exact hc
  cases hit with
  | some e => exact hhit e
  | none =>
    dsimp only
    split
    · split
      · exact h2 h _
      · exact hc
    · split
      · split
        · exact h2 h.noteWalk _
        · exact hc
      · exact hc

theorem State.Canonical.forgetUnder (h : s.Canonical) {pa n} : (s.forgetUnder pa n).Canonical := h.frame

theorem State.Canonical.setUnder (h : s.Canonical) {owner pa w} : (s.setUnder owner pa w).Canonical :=
  h.forgetUnder.writeHome.frame

theorem State.Canonical.completeFrom (h : s.Canonical) {child asid va keepUnder fuel} :
    (s.completeFrom child asid va keepUnder fuel).Canonical := by
  induction fuel generalizing s child asid va with
  | zero =>
    dsimp only [State.completeFrom]
    exact h.post
  | succ fuel ih =>
    dsimp -zeta only [State.completeFrom]
    extract_lets s1
    split
    · exact h.walkReads.post
    · next pa _ =>
      extract_lets w0 parent owner s2 s3 s4 s5
      have h1 : (s1.readHome child .normal pa 24).1.Canonical := h.walkReads.readHome
      have h3 : s3.Canonical := h1.writeHome
      have h4 : s4.Canonical := .ite h3.post h3
      have h5 : s5.Canonical := .ite h4.msix h4
      clear_value s5
      split
      · exact h1.post
      · split
        · exact .post (.ite h1 h1.setUnder)
        · refine .ite h3 (.ite h5 (.ite (ih ?_) (.post ?_)))
          all_goals
            split
            · exact h5.walkReads.readHome.fst_mk
            · exact h5.fst_mk

theorem State.Canonical.complete (h : s.Canonical) {region va keepUnder} :
    (s.complete region va keepUnder).Canonical :=
  h.ite h.completeFrom

/-! Machine/Cache -/

theorem State.Canonical.defer (h : s.Canonical) {c f} : (s.defer c f).Canonical := h.modCtx

theorem State.Canonical.deferOpen (h : s.Canonical) {f} : (s.deferOpen f).Canonical := h.modCtx

theorem State.Canonical.postLate (h : s.Canonical) {f esp member region ticket frame} :
    (s.postLate f esp member region ticket frame).Canonical :=
  h.postFault.frame.domainEvent.ite h.postFault

theorem State.Canonical.ordcMerge (h : s.Canonical) {k l} : (s.ordcMerge k l).Canonical :=
  h.defer.ite (h.defer.ite h.postLate)

theorem State.Canonical.l1Drop (h : s.Canonical) {k line} : (s.l1Drop k line).Canonical := h.modCore

theorem State.Canonical.l1Put (h : s.Canonical) {k l} : (s.l1Put k l).Canonical := h.modCore

theorem State.Canonical.l1SendDirty (h : s.Canonical) {l} : (s.l1SendDirty l).Canonical := h.sliceWrite.homeWriteOpt

theorem State.Canonical.l1MergeU (h : s.Canonical) {k op l} : (s.l1MergeU k op l).Canonical :=
  h.ordcMerge.ite (h.sliceWrite.foldl fun _ _ h => (h.homeWriteNat.ite h))

theorem State.Canonical.l1Flush (h : s.Canonical) {k l} : (s.l1Flush k l).Canonical := by
  unfold State.l1Flush
  split
  · exact h.l1MergeU.l1Drop
  · exact h.l1SendDirty.l1Drop
  · exact h.l1Drop

theorem State.Canonical.l1Unmerge (h : s.Canonical) {k line} : (s.l1Unmerge k line).Canonical := by
  unfold State.l1Unmerge
  split
  · exact h.l1Flush.ite h
  · exact h

theorem State.Canonical.l1Touch (h : s.Canonical) {c line way away} : (s.l1Touch c line way away).Canonical :=
  ((h.ite h.modCore).ite h.modCore).ite h.modCore

theorem State.Canonical.l1Alloc (h : s.Canonical) {c hint l} : (s.l1Alloc c hint l).Canonical := by
  dsimp only [State.l1Alloc]
  split
  · exact h.l1Flush.modCore.l1Touch
  · exact h.modCore.l1Touch

theorem State.Canonical.l1Load (h : s.Canonical) {c region pa n hint home} :
    (s.l1Load c region pa n hint home).1.Canonical := by
  dsimp only [State.l1Load]
  split
  · split
    · split
      · exact h.l1Unmerge.l1SendDirty.l1Put.sliceRead
      · exact h.l1Unmerge.l1SendDirty.l1Put.readHome
    · split
      · exact h.l1Unmerge.l1Touch
      · split
        · exact h.l1Unmerge.sliceRead
        · split
          · exact h.l1Unmerge.readHome
          · exact h.l1Unmerge.readHome.l1Put.l1Touch
  · split
    · split
      · exact h.l1Unmerge.sliceRead
      · exact h.l1Unmerge.readHome
    · exact h.l1Unmerge.readHome.l1Alloc

theorem State.Canonical.l1Store (h : s.Canonical) {c region pa data hint} :
    (s.l1Store c region pa data hint).Canonical := by
  dsimp only [State.l1Store]
  split
  · exact h.l1Unmerge.l1Put.l1Touch
  · exact h.l1Unmerge.sliceWrite.homeWriteOpt.ite (h.l1Unmerge.ite h.l1Unmerge.l1Alloc)

theorem State.Canonical.storeThrough (h : s.Canonical) {c region pa data hint} :
    (s.storeThrough c region pa data hint).Canonical := by
  dsimp only [State.storeThrough]
  split
  · exact h.l1Unmerge.l1Put.sliceWrite.homeWriteOpt
  · exact h.l1Unmerge.sliceWrite.homeWriteOpt

theorem State.Canonical.l1WriteBack (h : s.Canonical) {k host} : (s.l1WriteBack k host).Canonical :=
  h.foldl fun _ _ h => h.l1SendDirty.l1Put.ite h

theorem State.Canonical.l1MergeAll (h : s.Canonical) {k} : (s.l1MergeAll k).Canonical :=
  h.foldl fun _ _ h => h.l1Flush.ite h

theorem State.Canonical.l1Invalidate (h : s.Canonical) {k host} : (s.l1Invalidate k host).Canonical := h.modCore

theorem State.Canonical.l1Yield (h : s.Canonical) {k line} : (s.l1Yield k line).Canonical := by
  unfold State.l1Yield
  split
  · exact h.l1Flush
  · exact h

theorem State.Canonical.l1Update (h : s.Canonical) {c region pa va op v} :
    (s.l1Update c region pa va op v).Canonical := by
  dsimp only [State.l1Update]
  split
  · split
    · split
      · exact (h.ite h.l1Flush).l1Put.l1Touch
      · exact h.l1Put.l1Touch
    · split
      · exact (h.ite h.l1Flush).l1Alloc.l1Put.l1Touch
      · exact h.l1Alloc.l1Put.l1Touch
  · split
    · split
      · exact h.ite h.l1Flush
      · exact h
    · split
      · exact (h.ite h.l1Flush).l1Alloc
      · exact h.l1Alloc

/-! Machine/Ops -/

theorem State.Canonical.push (h : s.Canonical) {left wr latch status} : (s.push left wr latch status).Canonical :=
  h.modArch

theorem State.Canonical.reveal (h : s.Canonical) {l} : (s.reveal l).1.Canonical := h.frame

theorem State.Canonical.spadRead (h : s.Canonical) {c lo n} : (s.spadRead c lo n).1.Canonical := h.reveal

theorem State.Canonical.spadWrite (h : s.Canonical) {c lo l} :
    (s.spadWrite c lo l).Canonical := spadWrite_canonical h c lo l

theorem State.Canonical.landDrain (h : s.Canonical) {c d} : (s.landDrain c d).Canonical := by
  unfold State.landDrain
  split
  · exact h.spadWrite.modArch
  · exact h.modArch

theorem State.Canonical.drainWrites (h : s.Canonical) {c} : (s.drainWrites c).Canonical :=
  h.modArch.foldl fun _ _ h => h.landDrain

theorem State.Canonical.beginCycle (h : s.Canonical) {c} : (s.beginCycle c).Canonical := h.modArch.drainWrites.modArch

theorem State.Canonical.finishArray (h : s.Canonical) {c} : (s.finishArray c).Canonical := by
  dsimp only [State.finishArray]
  refine (h.foldl fun _ _ h => h.landDrain).modArch.foldl fun _ x h => ?_
  split
  · split
    · exact h.modArch.landDrain.modArch
    · exact h.modArch
  · split
    · exact h.modArch.landDrain.modArch.modArch
    · exact h.modArch.modArch

/-! Machine/Memory -/

theorem State.Canonical.acquire (h : s.Canonical) {c sc p} : (s.acquire c sc p).Canonical := h.l1Invalidate.ite h

theorem State.Canonical.resolve (h : s.Canonical) {va need} : (s.resolve va need).1.Canonical := by
  dsimp only [State.resolve]
  split <;> exact h.translate

theorem State.Canonical.loadBytes (h : s.Canonical) {va n hint acq} : (s.loadBytes va n hint acq).1.Canonical := by
  dsimp only [State.loadBytes]
  split
  · exact h.resolve
  · split
    · exact h.resolve.l1Load
    · split
      · exact h.resolve.l1Load.acquire
      · exact h.resolve.l1Load

theorem State.Canonical.addLoad (h : s.Canonical) {o} : (s.addLoad o).Canonical := h.modCtx

theorem State.Canonical.issueLoad (h : s.Canonical) {va n hint acq wr} :
    (s.issueLoad va n hint acq wr).Canonical := by
  dsimp only [State.issueLoad]
  split
  · exact h.resolve.addLoad
  · split <;> exact h.loadBytes.addLoad

theorem State.Canonical.loadMany (h : s.Canonical) {va l} : (s.loadMany va l).1.Canonical := by
  induction l generalizing s va with
  | nil => exact h
  | cons p l ih =>
    dsimp only [State.loadMany]
    exact ih h.loadBytes

theorem State.Canonical.loadRange (h : s.Canonical) {va n} : (s.loadRange va n).1.Canonical := by
  unfold State.loadRange
  split
  · next e => exact h.loadMany.fst e
  · next e => exact h.loadMany.fst e

theorem State.Canonical.hold (h : s.Canonical) {e} : (s.hold e).Canonical := h.modCtx

theorem State.Canonical.holdStore (h : s.Canonical) {va data hint rel} : (s.holdStore va data hint rel).Canonical :=
  h.hold

/-! Machine/Hub -/

theorem State.Canonical.setQueue (h : s.Canonical) {q x} : (s.setQueue q x).Canonical := h.frame

theorem State.Canonical.modQueue (h : s.Canonical) {q f} : (s.modQueue q f).Canonical := h.setQueue

theorem State.Canonical.ringMissing (h : s.Canonical) {q va own} : (s.ringMissing q va own).Canonical :=
  (h.modQueue.ite h).ite (h.modQueue.ite h).frame.modNal.post

theorem State.Canonical.answerPage (h : s.Canonical) {p} : (s.answerPage p).Canonical := by
  unfold State.answerPage
  split
  · exact h.modNal
  · exact h

theorem State.Canonical.ringHeader (h : s.Canonical) {q} : (s.ringHeader q).Canonical := by
  dsimp only [State.ringHeader]
  split
  · exact h.walkReads.modQueue.writeHome
  · exact h.modQueue.ringMissing

theorem State.Canonical.takeTickets (h : s.Canonical) {cap n} : (s.takeTickets cap n).1.Canonical := by
  dsimp only [State.takeTickets]
  split
  · exact h
  · exact h.setQueue

theorem State.Canonical.qreject (h : s.Canonical) {region reason ticket} :
    (s.qreject region reason ticket).Canonical :=
  h.post

theorem State.Canonical.fillTicket (h : s.Canonical) {q t r} : OptCanonical (s.fillTicket q t r) := by
  dsimp only [State.fillTicket]
  split
  · exact trivial
  · exact h.walkReads.modQueue.writeHome

theorem State.Canonical.hubPush (h : s.Canonical) {region cap r tk} : OptCanonical (s.hubPush region cap r tk) := by
  dsimp only [State.hubPush]
  refine .ite h.qreject (.ite h.qreject ?_)
  cases tk with
  | none => exact .ite trivial (h.fillTicket.map fun _ h => h.modQueue)
  | some t => exact .ite (.ite h.qreject h.fillTicket) (.ite h.qreject h.qreject)

theorem State.Canonical.pushMissing (h : s.Canonical) {cap tk} : (s.pushMissing cap tk).Canonical := by
  dsimp only [State.pushMissing]
  split
  · exact h
  · exact h.ringMissing

/-! Machine/Device -/

theorem State.Canonical.setHbm (h : s.Canonical) {k x} : (s.setHbm k x).Canonical := h.frame

theorem State.Canonical.setPort (h : s.Canonical) {p x} : (s.setPort p x).Canonical := h.frame

theorem State.Canonical.modPort (h : s.Canonical) {p f} : (s.modPort p f).Canonical := h.setPort

theorem State.Canonical.registerStore (h : s.Canonical) {pa n v} : (s.registerStore pa n v).Canonical :=
  (h.setHbm.ite h).ite h

theorem State.Canonical.catchWake (h : s.Canonical) {func cap} : (s.catchWake func cap).Canonical := by
  unfold State.catchWake
  split
  · exact h.frame.ite h.modFunc
  · exact h.frame.ite h

theorem State.Canonical.stageWake (h : s.Canonical) {func cap} : (s.stageWake func cap).Canonical :=
  h.frame.ite h.frame

theorem State.Canonical.unsealWakes (h : s.Canonical) : s.unsealWakes.Canonical :=
  h.frame.foldl fun _ _ h => h.catchWake

theorem State.Canonical.wakeStore (h : s.Canonical) {c off n v} : (s.wakeStore c off n v).Canonical := by
  unfold State.wakeStore
  split
  · exact h.modCtx
  · split
    · exact h.modCtx.ite ((h.modCtx.stageWake.ite h.modCtx).ite h.modCtx)
    · exact h.modCtx.ite h.modCtx

theorem State.Canonical.deviceStore (h : s.Canonical) {c pa b} : (s.deviceStore c pa b).Canonical := by
  unfold State.deviceStore
  split
  · exact h.wakeStore
  · split
    · exact h.emit
    · exact h.registerStore

/-! Machine/Commit -/

theorem State.Canonical.modTask (h : s.Canonical) {uid m f} : (s.modTask uid m f).Canonical := by
  unfold State.modTask
  split
  · exact h.modCtx
  · exact h.frame

theorem State.Canonical.homeUpdate (h : s.Canonical) {region pa n f} : (s.homeUpdate region pa n f).Canonical :=
  (h.foldl fun _ _ h => h.sliceRead).writeHome

theorem State.Canonical.atomic64 (h : s.Canonical) {k region pa f} : (s.atomic64 k region pa f).Canonical :=
  h.l1Yield.homeUpdate

theorem State.Canonical.releaseWrites (h : s.Canonical) {c sc p} : (s.releaseWrites c sc p).Canonical :=
  (h.l1WriteBack.ite h).l1MergeAll.ite (h.l1WriteBack.ite h)

theorem State.Canonical.releaseSteps (h : s.Canonical) {c sc p seq} : (s.releaseSteps c sc p seq).1.Canonical :=
  h.releaseWrites

theorem State.Canonical.releaseFor (h : s.Canonical) {c a} : (s.releaseFor c a).1.Canonical := by
  unfold State.releaseFor
  split
  · exact h.releaseSteps
  · exact h

theorem State.Canonical.deferStore (h : s.Canonical) {c slot pc va n} : (s.deferStore c slot pc va n).Canonical :=
  h.defer

theorem State.Canonical.effPa (h : s.Canonical) {c va need} : (s.effPa c va need).1.Canonical := by
  dsimp only [State.effPa]
  split <;> exact h.translate

theorem State.Canonical.partPas (h : s.Canonical) {c need va l} : (s.partPas c need va l).1.Canonical := by
  induction l generalizing s va with
  | nil => exact h
  | cons p l ih =>
    dsimp only [State.partPas]
    exact ih h.effPa

theorem State.Canonical.refuseEff (h : s.Canonical) {c e} : (s.refuseEff c e).Canonical := by
  unfold State.refuseEff
  split
  · exact h.partPas.deferStore
  · exact h

theorem State.Canonical.refuseHeld (h : s.Canonical) {c} : (s.refuseHeld c).Canonical :=
  h.ite (h.foldl fun _ _ h => h.refuseEff).modCtx

theorem State.Canonical.storePart (h : s.Canonical) {c hint through pa piece} :
    (s.storePart c hint through pa piece).Canonical :=
  h.deviceStore.ite (h.storeThrough.ite h.l1Store)

theorem State.Canonical.storeAt (h : s.Canonical) {c hint through data l pas} :
    (s.storeAt c hint through data l pas).Canonical := by
  induction l generalizing s data pas with
  | nil => exact h
  | cons p l ih =>
    cases pas with
    | nil => exact h
    | cons pa pas => exact ih h.storePart

theorem State.Canonical.performStore (h : s.Canonical) {c slot pc hint through data va} :
    (s.performStore c slot pc hint through data va).Canonical := by
  dsimp only [State.performStore]
  split
  · next e => exact (h.partPas.fst e).storeAt
  · next e => exact (h.partPas.fst e).deferStore

theorem State.Canonical.performUpdate (h : s.Canonical) {c op va v pc} :
    (s.performUpdate c op va v pc).Canonical := by
  unfold State.performUpdate
  split
  · next e => exact (h.effPa.fst e).l1Update
  · next e => exact (h.effPa.fst e).deferStore

theorem State.Canonical.sendOrdered (h : s.Canonical) {c fp va v t pc} :
    (s.sendOrdered c fp va v t pc).Canonical := by
  unfold State.sendOrdered
  split
  · next e => exact (h.effPa.fst e).l1Yield.frame
  · next e => exact (h.effPa.fst e).deferStore

theorem State.Canonical.flushPages (h : s.Canonical) {l} : (s.flushPages l).Canonical :=
  h.foldl fun _ _ h => h.foldl fun _ _ h => h.l1Flush.ite h

theorem State.Canonical.performInvl (h : s.Canonical) {asid all va n} : (s.performInvl asid all va n).Canonical :=
  h.flushPages.frame

theorem State.Canonical.sendPost (h : s.Canonical) {k uid member flag} : (s.sendPost k uid member flag).Canonical :=
  h.frame

theorem State.Canonical.modLease (h : s.Canonical) {id f} : (s.modLease id f).Canonical := h.frame

theorem State.Canonical.performSpawn (h : s.Canonical) {c f t parent} :
    (s.performSpawn c f t parent).Canonical := by
  unfold State.performSpawn
  split
  · exact h.walkReads.atomic64.modLease.modCtx
  · exact h.modLease.modCtx

theorem State.Canonical.perform (h : s.Canonical) {c e} : (s.perform c e).1.Canonical := by
  unfold State.perform
  split
  · exact h
  · cases e with
    | store va data hint rel pc slot =>
      dsimp only
      split
      · next e => exact (h.releaseFor.fst e).performStore
      · exact h.releaseFor
    | upd op va v pc => exact h.performUpdate
    | ordered fp va v t rel pc =>
      dsimp only
      split
      · next e =>
        have h := h.releaseFor.fst e
        exact .fst_ite h (.fst_ite h.sendOrdered.modCtx.fst_mk h.sendOrdered)
      · exact h.releaseFor
    | ordWait => exact h
    | copy eng m =>
      dsimp only
      split
      · next e => exact .fst_ite (h.releaseFor.fst e) (h.releaseFor.fst e).modCtx.fst_mk
      · exact h.releaseFor
    | qpush cap r tk n =>
      dsimp only
      split
      · next e =>
        have h := h.releaseSteps.fst e
        split
        · next e => exact h.hubPush.some e
        · exact h.pushMissing.modCtx.fst_mk
      · exact h.releaseSteps
    | pushWait cap r tk =>
      dsimp only
      refine .fst_ite h ?_
      split
      · next e => exact h.hubPush.some e
      · exact h.pushMissing
    | spawn f t parent n =>
      dsimp only
      split
      · next e => exact (h.releaseSteps.fst e).performSpawn
      · exact h.releaseSteps
    | invl asid all va n q =>
      dsimp only
      split
      · next e => exact (h.releaseSteps.fst e).performInvl.modCtx.fst_mk
      · exact h.releaseSteps
    | invlWait asid all va n => exact h
    | fpost flag member n =>
      dsimp only
      split
      · next e => exact (h.releaseSteps.fst e).sendPost
      · exact h.releaseSteps

theorem State.Canonical.drainFrom (h : s.Canonical) {c n} : (s.drainFrom c n).Canonical := by
  induction n generalizing s with
  | zero => exact h
  | succ n ih =>
    unfold State.drainFrom
    split
    · exact h
    · split
      · next e => exact ih (h.modCtx.perform.fst e)
      · next e => exact (h.modCtx.perform.fst e).modCtx

theorem State.Canonical.drainReleased (h : s.Canonical) {c} : (s.drainReleased c).Canonical := h.drainFrom

theorem State.Canonical.releaseHeld (h : s.Canonical) {c} : (s.releaseHeld c).Canonical := h.modCtx.drainReleased

/-! Machine/Tasks -/

theorem State.Canonical.launchRead (h : s.Canonical) {d region va n} : (s.launchRead d region va n).1.Canonical := by
  unfold State.launchRead
  split
  · exact h
  · dsimp only
    split
    · split
      · exact h.translate
      · split
        · exact h.translate
        · exact h.translate.readHome
    · exact h.translate

theorem State.Canonical.ownRead (h : s.Canonical) {va n} : (s.ownRead va n).1.Canonical := by
  unfold State.ownRead
  split
  · exact h
  · dsimp only
    split <;> exact h.loadRange

theorem State.Canonical.frameRead (h : s.Canonical) {own d region va n} :
    (s.frameRead own d region va n).1.Canonical := by
  unfold State.frameRead
  split
  · exact h.ownRead
  · exact h.launchRead

theorem State.Canonical.readEntries (h : s.Canonical) {own d region va n} :
    (s.readEntries own d region va n).1.Canonical := by
  induction n generalizing s va with
  | zero => exact h
  | succ n ih =>
    dsimp only [State.readEntries]
    have hf := h.frameRead (own := own) (d := d) (region := region) (va := va) (n := 32)
    split
    · refine ih ?_
      refine .fst_ite ?_ hf
      split
      · exact hf.frameRead
      · exact hf.frameRead
    · exact hf

theorem State.Canonical.readImage (h : s.Canonical) {own d region va n} :
    (s.readImage own d region va n).1.Canonical := by
  induction n generalizing s va with
  | zero => exact h
  | succ n ih =>
    dsimp only [State.readImage]
    split
    · exact ih h.frameRead
    · exact h.frameRead

theorem State.Canonical.readFrame (h : s.Canonical) {own d region va} :
    (s.readFrame own d region va).1.Canonical := by
  unfold State.readFrame
  split
  · exact h
  · dsimp only
    split
    · exact h.frameRead
    · exact h.frameRead
    · split
      · split
        · exact h.frameRead
        · split
          · exact h.frameRead
          · exact h.frameRead.readEntries
      · split
        · exact h.frameRead.readImage
        · split
          · exact h.frameRead.readImage
          · exact h.frameRead.readEntries.readImage

theorem State.Canonical.clearWindows (h : s.Canonical) {k sizes bases} :
    (s.clearWindows k sizes bases).Canonical := by
  dsimp only [State.clearWindows]
  exact h.modCore

theorem State.Canonical.recount (h : s.Canonical) : s.recount.Canonical := h.foldl fun _ _ h => h.modRegion

theorem State.Canonical.dropLease (h : s.Canonical) {id} : (s.dropLease id).Canonical := by
  unfold State.dropLease
  split
  · exact h
  · exact h.frame.recount.ite h.modLease

theorem State.Canonical.beginTask (h : s.Canonical) {c t a} : (s.beginTask c t a).Canonical := h.modCtx.recount

theorem State.Canonical.pushOverflow (h : s.Canonical) {e} : (s.pushOverflow e).Canonical := h.frame

theorem State.Canonical.decParent (h : s.Canonical) {c region parent} : (s.decParent c region parent).Canonical := by
  unfold State.decParent
  extract_lets asid s1
  split
  · exact h
  · split
    · exact h
    · extract_lets s2
      have h2 : s2.Canonical := by
        simp only [s2]
        split
        · exact h.walkReads.l1Yield
        · exact h.walkReads
      clear_value s2
      split
      next t b e =>
      have ht : t.Canonical := h2.readHome.fst e
      extract_lets w w' s3 e s4
      have h4 : s4.Canonical := ht.writeHome.frame
      clear_value s4
      refine .ite ht.post (.ite ?_ ht.writeHome)
      split
      · exact h4.modCtx
      · exact h4.pushOverflow

theorem State.Canonical.taskDone (h : s.Canonical) {region} : (s.taskDone region).Canonical := h.modRegion

theorem State.Canonical.retireUnlaunched (h : s.Canonical) {region parent cnode keepUnder} :
    (s.retireUnlaunched region parent cnode keepUnder).Canonical :=
  h.decParent.complete.taskDone

theorem State.Canonical.badFrame (h : s.Canonical) {region detail ticket frame} :
    (s.badFrame region detail ticket frame).Canonical :=
  h.post

theorem State.Canonical.frameData (h : s.Canonical) {region ticket frame} :
    (s.frameData region ticket frame).Canonical :=
  h.postFault.domainEvent.taskDone

theorem State.Canonical.readCont (h : s.Canonical) {d region va} : (s.readCont d region va).1.Canonical := by
  dsimp only [State.readCont]
  split <;> exact h.launchRead.launchRead.launchRead

theorem State.Canonical.startEntry (h : s.Canonical) {c e} : (s.startEntry c e).1.Canonical := by
  unfold State.startEntry
  extract_lets d k asid va
  refine .fst_ite h.dropLease ?_
  split
  next t seen heq =>
  have ht : t.Canonical := h.readFrame.fst heq
  split
  · exact ht.frameData.dropLease
  · exact ht.badFrame.taskDone.dropLease
  · extract_lets f l own t1 image s1
    have h1 : s1.Canonical := by
      simp only [s1]
      split
      · exact ht.walkReads.homeUpdate
      · exact ht
    clear_value s1
    split
    · exact ht.badFrame.retireUnlaunched.dropLease
    · split
      · exact ht
      · refine .fst_ite ht ?_
        extract_lets t2
        split
        next u a heq =>
        have hu : u.Canonical := .fst (.fst_ite h1.readCont.fst_mk ht) heq
        split
        · exact hu.frameData.dropLease
        · exact .fst_mk (.beginTask (.clearWindows (.acquire hu.frame)))

theorem State.Canonical.ringTraffic (h : s.Canonical) {c write} : (s.ringTraffic c write).Canonical := by
  unfold State.ringTraffic
  split
  · exact h
  · exact h.sliceWrite.ite h.sliceRead

theorem State.Canonical.refillDeque (h : s.Canonical) {c} : (s.refillDeque c).Canonical :=
  (h.ringTraffic.ite h).modCtx

theorem State.Canonical.popEntries (h : s.Canonical) {c n} : (s.popEntries c n).Canonical := by
  induction n generalizing s with
  | zero => exact h
  | succ n ih =>
    dsimp only [State.popEntries]
    split
    · exact h.refillDeque
    · split
      · exact h.refillDeque.modCtx.startEntry
      · exact ih h.refillDeque.modCtx.startEntry
      · exact h.refillDeque.modCtx.startEntry.modCtx

theorem State.Canonical.restoreSaved (h : s.Canonical) {c k m} : (s.restoreSaved c k m).Canonical := by
  unfold State.restoreSaved
  split
  · exact h
  · split
    · exact h
    · dsimp only
      split
      · exact (h.modCtx.clearWindows.foldl fun _ _ h => h.spadWrite).frame.recount
      · exact h.modCtx.frame.recount

theorem State.Canonical.swapIn (h : s.Canonical) {c} : (s.swapIn c).Canonical := by
  unfold State.swapIn
  split
  · exact h
  · split
    · exact h.modCtx.acquire.beginTask
    · exact h.modCtx.acquire.restoreSaved

theorem State.Canonical.unhold (h : s.Canonical) {c} : (s.unhold c).Canonical := h.modCtx

theorem State.Canonical.endRerun (h : s.Canonical) {c} : (s.endRerun c).Canonical := h.modCtx.unhold.ite h

theorem State.Canonical.startNext (h : s.Canonical) {c} : (s.startNext c).Canonical :=
  h.ite ((h.ite h.popEntries.recount).ite (h.ite h.popEntries.recount).swapIn)

theorem State.Canonical.leaveTask (h : s.Canonical) {c} : (s.leaveTask c).Canonical := h.modCtx.recount

/-! Machine/Flags -/

theorem State.Canonical.addFlag (h : s.Canonical) {k n} : (s.addFlag k n).Canonical := h.modArch

theorem State.Canonical.subFlag (h : s.Canonical) {k n} : (s.subFlag k n).Canonical := h.modArch

/-! Machine/Trap -/

theorem State.Canonical.capture (h : s.Canonical) {c f mid} : (s.capture c f mid).Canonical := by
  dsimp only [State.capture]
  exact h.modCtx

theorem State.Canonical.enterTrap (h : s.Canonical) {c f epc} : (s.enterTrap c f epc).Canonical := by
  unfold State.enterTrap
  extract_lets w0 s1 opened enter s2
  have h2 : s2.Canonical := .ite h.finishArray.capture h.finishArray.modCtx
  clear_value s2
  exact .ite h2.frame.postFault.domainEvent h2

theorem State.Canonical.dropShadows (h : s.Canonical) {uid} : (s.dropShadows uid).Canonical := by
  refine ⟨h.mem, h.host, ?_⟩
  dsimp only [State.dropShadows]
  exact Tab.wf_mapVals _ h.ctxs

theorem State.Canonical.endByFault (h : s.Canonical) {c f} : (s.endByFault c f).Canonical := by
  unfold State.endByFault
  extract_lets x t w0 s1 s2 s3
  have h1 : s1.Canonical := h.dropShadows.foldl fun _ _ h => (h.unhold.ite h).modCtx
  have h2 : s2.Canonical := .ite h1.frame h1
  exact .ite h2.postFault.domainEvent h2.postFault

theorem State.Canonical.takeFault (h : s.Canonical) {c f} : (s.takeFault c f).Canonical :=
  h.enterTrap.ite h.endByFault

/-! Machine/Act -/

theorem State.Canonical.popWord (h : s.Canonical) : s.popWord.Canonical := h.modArch

theorem State.Canonical.slot (h : s.Canonical) {i r} (hr : ResCanonical r) : OutCanonical (s.slot i r) := by
  unfold State.slot
  split
  · exact h.popWord.ite h
  · split
    · exact hr
    · exact h.takeFault.frame

theorem State.Canonical.acts {t : State} (h : s.Canonical) {i} (ht : t.Canonical) : OutCanonical (s.slot i (.ok t)) :=
  h.slot ht

theorem State.Canonical.putS (h : s.Canonical) {u d left v status} : (s.putS u d left v status).Canonical := h.push

theorem State.Canonical.putQuiet (h : s.Canonical) {d left v} : (s.putQuiet d left v).Canonical := h.push

theorem State.Canonical.putFlag (h : s.Canonical) {d v status} : (s.putFlag d v status).Canonical := h.push

theorem Res.All.control {r} (hr : ResCanonical r) : ResCanonical (s.control r) := by
  unfold State.control
  split
  · exact hr
  · split
    · exact .ite trivial trivial
    · exact trivial

theorem State.Canonical.modCur (h : s.Canonical) {f} : (s.modCur f).Canonical := h.frame

theorem State.Canonical.advance (h : s.Canonical) : s.advance.Canonical := h.modArch.modCur

/-! Machine/Scalar -/

theorem State.Canonical.intRR (h : s.Canonical) {d a b left f} : ResCanonical (s.intRR d a b left f) :=
  .bind fun _ => .bind fun _ => .bind fun _ => h.putS

theorem State.Canonical.intRI (h : s.Canonical) {d a f} : ResCanonical (s.intRI d a f) :=
  .bind fun _ => .bind fun _ => h.putS

theorem State.Canonical.cmpRR (h : s.Canonical) {d a b f} : ResCanonical (s.cmpRR d a b f) :=
  .bind fun _ => .bind fun _ => h.putFlag

theorem State.Canonical.cmpRI (h : s.Canonical) {d a f} : ResCanonical (s.cmpRI d a f) := .bind fun _ => h.putFlag

theorem State.Canonical.fpRR (h : s.Canonical) {d a b left f} : ResCanonical (s.fpRR d a b left f) :=
  .bind fun _ => .bind fun _ => h.putS

theorem State.Canonical.fpCmp (h : s.Canonical) {d a b r} : ResCanonical (s.fpCmp d a b r) :=
  .bind fun _ => .bind fun _ => h.putFlag

theorem State.Canonical.plog (h : s.Canonical) {m d a b f} : (s.plog m d a b f).Canonical := h.push.ite h.push

theorem State.Canonical.transfer (h : s.Canonical) {st} : (s.transfer st).Canonical := h.modCur

theorem execLend_canonical (h : s.Canonical) : OutCanonical (execLend s) := by
  unfold execLend
  split
  · exact h.slot (.control trivial)
  · exact h.slot (.control (h.modCur.push.modCur.ite h.modCur.push.modArch))

/-! Machine/LoadStore -/

theorem State.Canonical.putV (h : s.Canonical) {d left o} : (s.putV d left o).Canonical := h.push

theorem State.Canonical.loadS (h : s.Canonical) {d va n hint acq} : ResCanonical (s.loadS d va n hint acq) :=
  .bind fun _ => h.issueLoad

theorem State.Canonical.storeS (h : s.Canonical) {x a va n hint rel} : ResCanonical (s.storeS x a va n hint rel) :=
  .bind fun _ => h.holdStore

theorem State.Canonical.spadLoadS (h : s.Canonical) {d lo n} : ResCanonical (s.spadLoadS d lo n) :=
  .bind fun _ => h.frame.putS

theorem State.Canonical.spadStoreS (h : s.Canonical) {x lo n} : ResCanonical (s.spadStoreS x lo n) :=
  .bind fun _ => h.spadWrite

theorem State.Canonical.putAddr (h : s.Canonical) {d left v} : ResCanonical (s.putAddr d left v) :=
  .bind fun _ => h.putS

theorem execDld_canonical (h : s.Canonical) {a entry cnt} : OutCanonical (execDld a entry cnt s) := by
  dsimp only [execDld]
  refine h.slot ?_
  refine .bind fun _ => ?_
  split
  · exact .bind fun _ => h.loadRange.modArch
  · exact .bind fun _ => h.loadRange.deferOpen

/-! Machine/Matrix -/

theorem State.Canonical.fillA (h : s.Canonical) {a} : (s.fillA a).Canonical := by
  unfold State.fillA
  split
  · exact h.modArch
  · exact h

theorem State.Canonical.fillB (h : s.Canonical) {a} : (s.fillB a).Canonical := by
  unfold State.fillB
  split
  · exact h.modArch
  · exact h

theorem State.Canonical.launchM (h : s.Canonical) {act} : (s.launchM act).Canonical := h.modArch

theorem State.Canonical.launchBeat (h : s.Canonical) {set af bf bank shift} :
    (s.launchBeat set af bf bank shift).Canonical := by
  dsimp only [State.launchBeat]
  exact h.launchM.modArch

theorem State.Canonical.readPiece (h : s.Canonical) {code n g} : Res.All (·.1.Canonical) (s.readPiece code n g) := by
  unfold State.readPiece
  split
  · exact h
  · split
    · exact trivial
    · split
      · exact h
      · exact .bind fun _ => h.spadRead

theorem State.Canonical.readSides (h : s.Canonical) {an bn} : ResCanonical (s.readSides an bn) :=
  .bind fun _ => h.readPiece.bind_of fun _ h => h.readPiece.bind_of fun _ h => h.fillA.fillB

theorem execMdrain_canonical (h : s.Canonical) {code clr bank n i} :
    OutCanonical (execMdrain code clr bank n i s) := by
  dsimp only [execMdrain]
  split
  · exact h.slot h.launchM
  · exact h.slot (.bind fun _ => h.launchM)

theorem execMload_canonical (h : s.Canonical) {bank n i} : OutCanonical (execMload bank n i s) := by
  unfold execMload
  split
  · exact h.slot h.launchM
  · exact h.slot (.bind fun _ => h.frame.launchM)

theorem execMdrainq_canonical (h : s.Canonical) {af clr bank n i} : OutCanonical (execMdrainq af clr bank n i s) := by
  dsimp only [execMdrainq]
  split
  · exact h.slot h.launchM
  · exact h.slot (.bind fun _ => h.launchM)

/-! Machine/Copy -/

theorem State.Canonical.send (h : s.Canonical) {m} : (s.send m).Canonical := by
  dsimp only [State.send]
  exact (h.hold.ite h.modCtx).modCtx

theorem State.Canonical.issueCmd (h : s.Canonical) {i op o check} : OutCanonical (s.issueCmd i op o check) :=
  .ite h (h.slot (.bind fun _ => h.send))

theorem execCmcast_canonical (h : s.Canonical) {o} : OutCanonical (execCmcast o s) := h.issueCmd

theorem execCgath_canonical (h : s.Canonical) {o} : OutCanonical (execCgath o s) := h.issueCmd

theorem execPut_canonical (h : s.Canonical) {o} : OutCanonical (execPut o s) := h.issueCmd

theorem execGet_canonical (h : s.Canonical) {o} : OutCanonical (execGet o s) := h.issueCmd

theorem execRadd_canonical (h : s.Canonical) {o} : OutCanonical (execRadd o s) := h.issueCmd

/-! Machine/Sync -/

theorem State.Canonical.releaseEsp (h : s.Canonical) {c} : (s.releaseEsp c).Canonical :=
  h.foldl fun _ _ h => h.modCtx.drainReleased

theorem State.Canonical.closeRegion (h : s.Canonical) {c} : (s.closeRegion c).Canonical :=
  (h.ite h.releaseHeld).ite (h.modCtx.releaseEsp.ite h.releaseHeld.modCtx)

theorem State.Canonical.barPosts (h : s.Canonical) {c flag} : (s.barPosts c flag).Canonical := h.frame

theorem State.Canonical.flagWait (h : s.Canonical) {i f n done} (hdone : ∀ s, s.Canonical → (done s).Canonical) :
    OutCanonical (s.flagWait i f n done) :=
  .ite h (.ite (hdone _ h.subFlag) h)

theorem execFwaitAcq_canonical (h : s.Canonical) {f n} : OutCanonical (execFwaitAcq f n s) :=
  h.flagWait fun _ h => h.acquire

theorem State.Canonical.post1 (h : s.Canonical) {f m} : ResCanonical (s.post1 f m) := by
  unfold State.post1
  split
  · exact trivial
  · exact h.addFlag.ite h.hold

theorem execFpost_canonical (h : s.Canonical) {f m} : OutCanonical (execFpost f m s) := h.slot h.post1

theorem execFpostRel_canonical (h : s.Canonical) {f dy dx} : OutCanonical (execFpostRel f dy dx s) := h.slot h.post1

theorem State.Canonical.barOpen (h : s.Canonical) {f} : (s.barOpen f).Canonical := h.ite h.closeRegion.barPosts

/-! Machine/Atomic -/

theorem State.Canonical.acquireBy (h : s.Canonical) {a} : (s.acquireBy a).Canonical := by
  unfold State.acquireBy
  split
  · exact h.acquire
  · exact h

theorem State.Canonical.homeAtomic (h : s.Canonical) {op va v e} : (s.homeAtomic op va v e).1.Canonical := by
  dsimp only [State.homeAtomic]
  split
  · exact h.resolve
  · split
    · exact h.resolve.l1Yield
    · split
      · exact h.resolve.l1Yield
      · exact h.resolve.l1Yield.readHome.writeHome

theorem State.Canonical.reductionWords (h : s.Canonical) {d} : (s.reductionWords d).1.Canonical := by
  refine .fst_foldl h fun p k h => ?_
  dsimp only
  split
  · exact .fst_ite h.resolve.fst_mk h.fst_mk
  · exact h

theorem State.Canonical.bringLine (h : s.Canonical) {region n} : (s.bringLine region n).Canonical :=
  h.sliceRead.ite (h.sliceRead.l2Alloc.getD h.sliceRead)

theorem State.Canonical.bringLines (h : s.Canonical) {region l} : (s.bringLines region l).Canonical :=
  h.foldl fun _ _ h => h.bringLine

theorem State.Canonical.openReduction (h : s.Canonical) {pa d} : (s.openReduction pa d).1.Canonical := by
  unfold State.openReduction
  split
  · exact h
  · dsimp only
    split
    · exact h.reductionWords
    · split
      · exact h.reductionWords
      · exact h.reductionWords.frame.bringLines

theorem State.Canonical.closeReduction (h : s.Canonical) {pa v} : (s.closeReduction pa v).1.Canonical := by
  unfold State.closeReduction
  split
  · exact h
  · split
    · exact h
    · split
      · exact h
      · exact h.frame

theorem State.Canonical.onDescriptor (h : s.Canonical) {va f} (hf : ∀ s x1 x2, s.Canonical →
  (f s x1 x2).1.Canonical) :
    (s.onDescriptor va f).1.Canonical := by
  dsimp only [State.onDescriptor]
  split
  · exact h.resolve
  · split
    · exact h.resolve.l1Yield
    · exact hf _ _ _ h.resolve.l1Yield.readHome

theorem State.Canonical.makeRequest (h : s.Canonical) {a} : (s.makeRequest a).1.Canonical := by
  unfold State.makeRequest
  split
  · exact h.homeAtomic
  · dsimp only
    split
    · exact h.loadRange.takeTickets
    · exact h.loadRange
  · exact h.onDescriptor fun _ _ _ h => h.openReduction
  · exact h.onDescriptor fun _ _ _ h => h.closeReduction

theorem State.Canonical.deliver (h : s.Canonical) {d q r} : (s.deliver d q r).Canonical := h.addLoad

theorem State.Canonical.ask (h : s.Canonical) {d q acq} : (s.ask d q acq).Canonical := by
  unfold State.ask
  split
  · next e => exact (h.makeRequest.fst e).modCtx.deliver.acquireBy

theorem State.Canonical.park (h : s.Canonical) {d q rel acq} : (s.park d q rel acq).Canonical := h.addLoad.modCtx

theorem State.Canonical.request (h : s.Canonical) {d q rel acq} : OptCanonical (s.request d q rel acq) := by
  unfold State.request
  split
  · exact h.deliver.acquireBy
  · split
    · exact h.park
    · split
      · exact trivial
      · split
        · next e => exact (h.releaseFor.fst e).ask
        · exact trivial

theorem State.Canonical.slotRequest (h : s.Canonical) {i r} (hr : Res.All OptCanonical r) :
    OutCanonical (s.slotRequest i r) := by
  unfold State.slotRequest
  split
  · exact h
  · exact h.slot hr
  · exact h.slot trivial

theorem State.Canonical.makeAsked (h : s.Canonical) {c} : (s.makeAsked c).Canonical := by
  dsimp only [State.makeAsked]
  split
  · exact h
  · split
    · exact h
    · split
      · next e1 => exact h.releaseFor.fst e1
      · next e1 => exact (h.releaseFor.fst e1).frame.makeRequest.modCtx.acquireBy.frame

theorem State.Canonical.atomic (h : s.Canonical) {i op d a b o} : OutCanonical (s.atomic i op d a b o) :=
  h.slotRequest (.bind fun _ => .bind fun _ => .bind fun _ => .bind fun _ => .bind fun _ => h.request)

theorem State.Canonical.update (h : s.Canonical) {i op a b} : OutCanonical (s.update i op a b) :=
  h.slot (.bind fun _ => .bind fun _ => .bind fun _ => .bind fun _ => h.hold)

theorem State.Canonical.orderedAtomic (h : s.Canonical) {i fp tk a b o} :
    OutCanonical (s.orderedAtomic i fp tk a b o) :=
  h.slot (.bind fun _ => .bind fun _ => .bind fun _ => .bind fun _ => h.hold)

theorem State.Canonical.applyOrdered (h : s.Canonical) {fp region pa v} :
    (s.applyOrdered fp region pa v).Canonical := by
  dsimp only [State.applyOrdered]
  exact h.homeUpdate

theorem State.Canonical.applyBuffered (h : s.Canonical) {region pa w r n} :
    (s.applyBuffered region pa w r n).1.Canonical := by
  induction n generalizing s r with
  | zero => exact h
  | succ n ih =>
    dsimp only [State.applyBuffered]
    split
    · exact h
    · exact ih h.applyOrdered

theorem State.Canonical.admitOrdered (h : s.Canonical) {q} : (s.admitOrdered q).1.Canonical := by
  dsimp only [State.admitOrdered]
  split
  · exact h
  · exact .fst_ite h (.fst_ite h (.fst_ite h (.fst_ite h.applyOrdered.applyBuffered.frame.fst_mk
      (.fst_ite h.frame.fst_mk h))))

theorem State.Canonical.refused (h : s.Canonical) {q f} : (s.refused q f).Canonical := h.modTask.ite h.postLate

theorem execOrderedAtomicArrival_canonical (h : s.Canonical) {k} : OutCanonical (execOrderedAtomicArrival k s) := by
  unfold execOrderedAtomicArrival
  split
  · exact h
  · split
    · exact h
    · dsimp only
      split
      · exact h.frame.admitOrdered
      · exact h.frame.admitOrdered.modTask
      · exact h.frame.admitOrdered.refused

theorem execOrderedRetry_canonical (h : s.Canonical) {c k} : OutCanonical (execOrderedRetry c k s) := by
  unfold execOrderedRetry
  split
  · exact h
  · exact h.modCtx.frame

/-! Machine/TaskOps -/

theorem State.Canonical.push64 (h : s.Canonical) {a b tk} : ResCanonical (s.push64 a b tk) := by
  dsimp only [State.push64]
  refine .bind fun _ => ?_
  refine .bind fun _ => ?_
  refine .bind fun _ => ?_
  split
  · exact h.loadRange.loadRange.hold
  · exact h.loadRange.loadRange.deferOpen
  · exact h.loadRange.loadRange.deferOpen

theorem State.Canonical.countSpawn (h : s.Canonical) {wt d} : (s.countSpawn wt d).Canonical :=
  h.modArch.putQuiet.ite h.modArch

theorem State.Canonical.holdSpawn (h : s.Canonical) {f t} : (s.holdSpawn f t).Canonical :=
  (h.modCtx.ringTraffic.recount.ite h).hold

theorem State.Canonical.inlineCall (h : s.Canonical) {v next} : ResCanonical (s.inlineCall v next) := by
  unfold State.inlineCall
  exact .guard fun _ => .guard fun _ => .guard fun _ => .guard fun _ => h.holdStore.modArch.modCur

theorem State.Canonical.spawnInline (h : s.Canonical) {wt d f} : ResCanonical (s.spawnInline wt d f) := by
  dsimp only [State.spawnInline]
  split
  · exact trivial
  · exact h.countSpawn.readFrame.badFrame
  · split
    · exact h.countSpawn.readFrame.badFrame
    · exact h.countSpawn.readFrame.inlineCall

theorem execSpawn_canonical (h : s.Canonical) {wt d a} : OutCanonical (execSpawn wt d a s) :=
  h.slot (.control (.bind fun _ => .guard fun _ => .guard fun _ => .bind fun _ =>
    .ite h.spawnInline h.countSpawn.holdSpawn))

theorem State.Canonical.postDeferred (h : s.Canonical) {c} : (s.postDeferred c).Canonical := by
  dsimp only [State.postDeferred]
  exact .modCtx (h.foldl fun _ _ h => h.postLate)

theorem State.Canonical.suspend (h : s.Canonical) {c blk} : (s.suspend c blk).Canonical := by
  dsimp only [State.suspend]
  split
  · exact h.finishArray.modArch.performStore.walkReads.atomic64.frame.postDeferred.leaveTask.startNext
  · exact h.finishArray.modArch.performStore.frame.postDeferred.leaveTask.startNext

theorem State.Canonical.retireTask (h : s.Canonical) {c exit} : (s.retireTask c exit).Canonical := by
  unfold State.retireTask
  extract_lets t members first s1 s2 s3
  have h1 : s1.Canonical := .ite h.decParent h
  have h3 : s3.Canonical := h1.complete.foldl fun _ _ h => h.leaveTask
  exact h3.taskDone.dropLease.recount.foldl fun _ _ h => h.startNext

theorem State.Canonical.finishMember (h : s.Canonical) {c exit} : (s.finishMember c exit).Canonical := by
  unfold State.finishMember
  refine .ite h ?_
  split
  · next e => exact h.releaseSteps.fst e
  · next e =>
    have h := h.releaseSteps.fst e
    exact .ite h.finishArray.postDeferred.modCtx.retireTask h.finishArray.postDeferred.modCtx

theorem State.Canonical.finishEnding (h : s.Canonical) {c} : (s.finishEnding c).Canonical := by
  dsimp only [State.finishEnding]
  split
  · exact h
  · refine .ite h.drainReleased ?_
    split
    · refine .ite h.drainReleased.acquire.capture (.ite h.drainReleased ?_)
      split
      · next e => exact (h.drainReleased.acquire.releaseSteps.fst e).suspend
      · next e => exact h.drainReleased.acquire.releaseSteps.fst e
    · exact h.drainReleased.finishMember
    · exact h.drainReleased.finishMember

/-! Machine/System -/

theorem State.Canonical.mwaitWord (h : s.Canonical) {a b} : Res.All (·.1.Canonical) (s.mwaitWord a b) := by
  unfold State.mwaitWord
  refine .bind fun va => .bind fun v => ?_
  dsimp only
  split
  · exact h.resolve
  · split
    · exact h.resolve
    · exact h.resolve.readHome

/-! Machine/TaskOps -/

theorem State.Canonical.beginEnding (h : s.Canonical) {e} : (s.beginEnding e).Canonical :=
  (h.advance.closeRegion.ite h.advance.releaseHeld).endRerun.modCtx.finishEnding

theorem State.Canonical.returnInline (h : s.Canonical) : ResCanonical (s.returnInline) := by
  dsimp only [State.returnInline]
  exact .bind fun _ => .bind fun _ => h.loadRange.modArch.modCur

/-! Machine/System -/

theorem State.Canonical.mwait (h : s.Canonical) {i d a b met} : OutCanonical (s.mwait i d a b met) := by
  unfold State.mwait
  have hw := h.mwaitWord (a := a) (b := b)
  split
  · exact h.slot trivial
  · next e => exact .ite h (hw.ok e).addLoad
  · next e => exact .ite h (.ite (hw.ok e).acquire.putQuiet h)

theorem State.Canonical.invl (h : s.Canonical) {asid all a b} : ResCanonical (s.invl asid all a b) :=
  .bind fun _ => .bind fun _ => .bind fun _ => .bind fun _ => h.hold

theorem execProbe_canonical (h : s.Canonical) {d a} : OutCanonical (execProbe d a s) := by
  dsimp only [execProbe]
  refine h.slot ?_
  refine .bind fun _ => ?_
  split
  · exact h.addLoad
  · exact h.translate.addLoad

theorem State.Canonical.loadBundle (h : s.Canonical) {w} : (s.loadBundle w).Canonical := by
  dsimp only [State.loadBundle]
  exact h.modCur

theorem State.Canonical.loadToken (h : s.Canonical) {index delta} : ResCanonical (s.loadToken index delta) := by
  dsimp only [State.loadToken]
  refine .bind fun _ => ?_
  split
  · exact trivial
  · exact h.loadBundle.modCur

theorem execToken_canonical (h : s.Canonical) {index delta} : OutCanonical (execToken index delta s) := by
  unfold execToken
  split
  · next e => exact h.loadToken.ok e
  · exact h.takeFault.frame

/-! Machine/Cycle -/

theorem State.Canonical.fetchBits (h : s.Canonical) {c} : (s.fetchBits c).1.Canonical := by
  dsimp only [State.fetchBits]
  split
  · exact h
  · split
    · split
      · exact h.translate
      · split
        · exact h.translate
        · exact h.translate.readHome
    · exact h.translate

theorem State.Canonical.place (h : s.Canonical) {w} : ResCanonical (s.place w) := by
  unfold State.place
  split
  · split
    · exact trivial
    · exact .ite trivial h.modCur.loadToken
  · exact h.modCur.loadBundle

theorem State.Canonical.decodeBundle (h : s.Canonical) {t} (e : s.decodeBundle = .ok t) : t.Canonical := by
  unfold State.decodeBundle at e
  split at e
  · cases e
  · split at e
    · cases e
    · cases e
      exact h

theorem State.Canonical.bring (h : s.Canonical) {c} : (s.bring c).1.Canonical := by
  dsimp only [State.bring]
  split
  · split <;> exact h.frame
  · exact h.frame.fetchBits

theorem State.Canonical.bringResult (h : s.Canonical) {t c} (e : (s.bring c).2 = .ok t) : t.Canonical := by
  unfold State.bring at e
  extract_lets x s1 at e
  have h1 : s1.Canonical := h.frame
  clear_value s1
  split at e
  · split at e
    · cases e
      exact h1
    · dsimp only at e
      exact h1.loadBundle.modCur.decodeBundle e
  · obtain ⟨w, -, e⟩ := Res.bind_ok e
    obtain ⟨u, hu, e⟩ := Res.bind_ok e
    exact (h1.fetchBits.place.ok hu).decodeBundle e

theorem State.Canonical.atSlot (h : s.Canonical) {slot} : (s.atSlot slot).Canonical := h.modCur

theorem State.Canonical.openCycle (h : s.Canonical) {c} : (s.openCycle c).Canonical := h.ite h.beginCycle

theorem State.Canonical.firstSteps (h : s.Canonical) {bar rels} : (s.firstSteps bar rels).Canonical := by
  unfold State.firstSteps
  split
  · exact h.barOpen.foldl fun _ _ h => h.releaseWrites
  · exact (h.closeRegion.ite h).foldl fun _ _ h => h.releaseWrites

theorem State.Canonical.prepare (h : s.Canonical) {c} : (s.prepare c).1.Canonical := by
  unfold State.prepare
  extract_lets x
  split
  · exact h
  · split
    next t r e =>
    split
    · exact h.bring.fst e
    · next t =>
      have ht : t.Canonical := h.bringResult (congrArg Prod.snd e)
      extract_lets confirms s1 t1
      have h1 : s1.Canonical := .ite ht.refuseHeld ht
      split
      · exact h1
      · refine .fst_ite h1 (.fst_ite h1 ?_)
        exact .ite h1.firstSteps h1

theorem State.Canonical.side (h : s.Canonical) {c} : (s.side c).1.Canonical := by
  dsimp only [State.side]
  split <;> exact h.prepare

theorem State.Canonical.pair (h : s.Canonical) {k} : (s.pair k).1.Canonical := by
  dsimp only [State.pair]
  split
  · exact h.side.side
  · exact h.side

theorem State.Canonical.grant (h : s.Canonical) {c} : (s.grant c).Canonical := h.frame

theorem State.Canonical.grantBack (h : s.Canonical) {k} : (s.grantBack k).Canonical := h.modCore.modCtx.grant

theorem State.Canonical.passBack (h : s.Canonical) {k} : (s.passBack k).Canonical := h.modCore

theorem State.Canonical.pairs (h : s.Canonical) {l} : (s.pairs l).1.Canonical := by
  induction l generalizing s with
  | nil => exact h
  | cons k l ih =>
    dsimp only [State.pairs]
    exact ih h.pair

theorem State.Canonical.noteStall (h : s.Canonical) {c x} : (s.noteStall c x).Canonical := h.modCtx.ite h

theorem State.Canonical.decideBack (h : s.Canonical) {front p} : (s.decideBack front p).Canonical :=
  h.noteStall.noteStall.modCtx.ite (h.noteStall.noteStall.passBack.ite h.noteStall.noteStall.grantBack)

theorem State.Canonical.sendPeer (h : s.Canonical) {c k} : (s.sendPeer c k).Canonical := by
  unfold State.sendPeer
  split
  · exact h
  · split
    · exact h.emit.modCtx.ite h
    · exact h

theorem State.Canonical.sendPeers (h : s.Canonical) {c} : (s.sendPeers c).Canonical := h.foldl fun _ _ h => h.sendPeer

theorem State.Canonical.clock (h : s.Canonical) {k} : (s.clock k).Canonical := by
  unfold State.clock
  extract_lets tidy s1 s2 s3
  have ht {u : State} (hu : u.Canonical) (c : Nat) : (tidy u c).Canonical :=
    hu.drainReleased.sendPeers.makeAsked.finishEnding.startNext
  have h2 : s2.Canonical := (ht (ht h _) _).modCore
  have h3 : s3.Canonical := .ite h2.modRegion h2
  exact .ite h3.modRegion h3

theorem execMergeDecision_canonical (h : s.Canonical) {t k} (e : execMergeDecision k s = .next t) : t.Canonical := by
  unfold execMergeDecision at e
  extract_lets s1 at e
  have h1 : s1.Canonical := h.clock
  split at e
  next u ps hp =>
  have hu : u.Canonical := h1.pairs.fst hp
  extract_lets front s2 at e
  have h2 : s2.Canonical := by
    simp only [s2]
    split
    · split
      · exact hu.grant
      · exact hu
    · exact hu
  cases e
  exact h2.foldl fun _ _ h => h.decideBack

theorem execForcedYield_canonical (h : s.Canonical) {k} : OutCanonical (execForcedYield k s) := by
  unfold execForcedYield
  split
  · next e => exact (h.pair.fst e).grantBack.ite h

theorem State.Canonical.loadReturns (h : s.Canonical) {c k w} : (s.loadReturns c k w).Canonical := h.modCtx

theorem execInterlockedLoadData_canonical (h : s.Canonical) {c k ext} :
    OutCanonical (execInterlockedLoadData c k ext s) := by
  unfold execInterlockedLoadData
  split
  · exact h
  · split
    · exact h
    · split
      · exact h.loadReturns
      · split
        · split
          · exact h
          · split
            · exact h.loadReturns.acquire
            · exact h.loadReturns
        · split
          · exact h
          · split
            · exact h.loadReturns.acquire
            · exact h.loadReturns

/-! Machine/Link -/

theorem State.Canonical.wire (h : s.Canonical) {k f} : (s.wire k f).Canonical := h.modPort.emit

theorem State.Canonical.wireControl (h : s.Canonical) {k type seq payload} :
    (s.wireControl k type seq payload).Canonical :=
  h.wire

theorem State.Canonical.wireLmreq (h : s.Canonical) {k m} : (s.wireLmreq k m).Canonical := h.wireControl.modPort

theorem State.Canonical.wireResync (h : s.Canonical) {k} : (s.wireResync k).Canonical := h.wireControl.modPort

theorem State.Canonical.afterFlit (h : s.Canonical) {k} : (s.afterFlit k).Canonical := by
  unfold State.afterFlit
  split
  · exact (h.wireLmreq.ite h).wireResync.ite (h.wireLmreq.ite h)
  · exact h.wireResync.ite h

theorem State.Canonical.control1 (h : s.Canonical) {k type seq payload} : (s.control1 k type seq payload).Canonical :=
  h.wireControl.afterFlit

theorem State.Canonical.sendIdle (h : s.Canonical) {k} : (s.sendIdle k).Canonical := h.control1

theorem State.Canonical.sendAck (h : s.Canonical) {k} : (s.sendAck k).Canonical := h.control1.modPort

theorem State.Canonical.sendNak (h : s.Canonical) {k} : (s.sendNak k).Canonical := h.control1

theorem State.Canonical.sendLmreq (h : s.Canonical) {k m} : (s.sendLmreq k m).Canonical := h.wireLmreq.afterFlit

theorem State.Canonical.sendLmap (h : s.Canonical) {k seq} : (s.sendLmap k seq).Canonical := h.control1.modPort

theorem State.Canonical.sendPkt (h : s.Canonical) {k seq vc o} : (s.sendPkt k seq vc o).Canonical := h.wire.afterFlit

theorem State.Canonical.replayAll (h : s.Canonical) {k} : (s.replayAll k).Canonical := h.foldl fun _ _ h => h.sendPkt

theorem State.Canonical.startPacket (h : s.Canonical) {k vc q} : (s.startPacket k vc q).Canonical := h.modPort

theorem State.Canonical.sendFlit (h : s.Canonical) {k vc} : (s.sendFlit k vc).Canonical := by
  dsimp only [State.sendFlit]
  split
  · exact h
  · exact h.modPort.sendPkt

theorem State.Canonical.pump (h : s.Canonical) {k n} : (s.pump k n).Canonical := by
  induction n generalizing s with
  | zero => exact h
  | succ n ih =>
    dsimp only [State.pump]
    split
    · exact ih h.sendFlit
    · split
      · exact h
      · split
        · exact h
        · exact ih h.modPort.startPacket.sendFlit

theorem State.Canonical.pumpAll (h : s.Canonical) {k} : (s.pumpAll k).Canonical := h.pump

theorem State.Canonical.enqueuePacket (h : s.Canonical) {k p} : (s.enqueuePacket k p).Canonical := h.modPort.pumpAll

theorem State.Canonical.hop (h : s.Canonical) {source p} : (s.hop source p).Canonical := by
  unfold State.hop
  split
  · exact h.frame
  · exact h.enqueuePacket
  · dsimp only
    split
    · exact h.frame
    · exact h.enqueuePacket
    · exact h.frame

theorem State.Canonical.inject (h : s.Canonical) {p} : (s.inject p).Canonical := h.hop

theorem State.Canonical.relay (h : s.Canonical) {p} : (s.relay p).Canonical := h.hop

theorem State.Canonical.reroute (h : s.Canonical) {k} : (s.reroute k).Canonical :=
  h.modPort.foldl fun _ _ h => h.inject.ite h.relay

theorem State.Canonical.enterRetrain (h : s.Canonical) {k} : (s.enterRetrain k).Canonical := h.modPort.reroute.ite h

theorem State.Canonical.portDown (h : s.Canonical) {k} : (s.portDown k).Canonical :=
  h.modPort.frame.reroute.foldl fun _ _ h => h.inject

theorem State.Canonical.resyncFail (h : s.Canonical) {k} : (s.resyncFail k).Canonical :=
  h.modPort.modPort.enterRetrain.ite h.modPort

theorem State.Canonical.resyncMissing (h : s.Canonical) {k} : (s.resyncMissing k).Canonical :=
  h.modPort.resyncFail.ite h

theorem State.Canonical.badFlit (h : s.Canonical) {k} : (s.badFlit k).Canonical := h.ite h.modPort.sendNak

theorem State.Canonical.dropLane (h : s.Canonical) {k lane} : (s.dropLane k lane).Canonical :=
  h.ite (h.modPort.modNal.enterRetrain.ite h.modPort.modNal.modPort.sendLmreq)

theorem State.Canonical.lanesLost (h : s.Canonical) {k f} : (s.lanesLost k f).Canonical :=
  h.foldl fun _ _ h => h.dropLane

theorem State.Canonical.hear (h : s.Canonical) {k type f act} (hact : ∀ s, s.Canonical → (act s).Canonical) :
    (s.hear k type f act).Canonical := by
  unfold State.hear
  extract_lets s1 s2 s3
  have h1 : s1.Canonical := .ite h.lanesLost h
  have h2 : s2.Canonical := h1.modPort
  have h3 : s3.Canonical := .ite h2 h2.resyncMissing
  exact .ite h1 (.ite h3.badFlit (.ite h3 (hact _ h3.modPort).pumpAll))

theorem State.Canonical.tagFailed (h : s.Canonical) {k} : (s.tagFailed k).Canonical :=
  h.modPort.modPort.enterRetrain.ite h.modPort

theorem State.Canonical.packetIn (h : s.Canonical) {k vc g} : (s.packetIn k vc g).Canonical :=
  h.modPort.modPort.relay.ite h.modPort.tagFailed

theorem State.Canonical.accept (h : s.Canonical) {k f} : (s.accept k f).Canonical :=
  (h.modPort.packetIn.ite h.modPort).sendAck.ite (h.modPort.packetIn.ite h.modPort)

theorem State.Canonical.pktFlit (h : s.Canonical) {k f} : (s.pktFlit k f).Canonical :=
  h.ite (h.accept.ite (h.sendAck.ite h.badFlit))

theorem State.Canonical.freeTo (h : s.Canonical) {k a} : (s.freeTo k a).Canonical := h.modPort

theorem State.Canonical.ackFlit (h : s.Canonical) {k f} : (s.ackFlit k f).Canonical := h.freeTo.ite h.resyncFail

theorem State.Canonical.resend (h : s.Canonical) {k} : (s.resend k).Canonical :=
  h.modPort.enterRetrain.ite h.modPort.replayAll

theorem State.Canonical.countNak (h : s.Canonical) {k e} : (s.countNak k e).Canonical := h.modPort

theorem State.Canonical.nakFlit (h : s.Canonical) {k f} : (s.nakFlit k f).Canonical := by
  unfold State.nakFlit
  extract_lets e s1 held old s2 s3
  have h2 : s2.Canonical := .ite h.countNak.modPort h.countNak
  have h3 : s3.Canonical := .ite h2.sendLmap h2
  exact .ite h3.resend h3.resyncFail

theorem State.Canonical.lmreqFlit (h : s.Canonical) {k f} : (s.lmreqFlit k f).Canonical :=
  h.enterRetrain.ite (h.ite h.modPort.sendLmap)

theorem State.Canonical.lmapFlit (h : s.Canonical) {k f} : (s.lmapFlit k f).Canonical :=
  h.ite (h.enterRetrain.ite h.modPort)

theorem State.Canonical.resyncNow (h : s.Canonical) {k} : (s.resyncNow k).Canonical := h.ite h.wireResync

theorem State.Canonical.resyncFlit (h : s.Canonical) {k f} : (s.resyncFlit k f).Canonical :=
  h.modPort.modPort.ite h.modPort.resyncFail

theorem State.Canonical.installTree (h : s.Canonical) {links epoch} : (s.installTree links epoch).Canonical :=
  h.ite ((h.frame.frame.ite h.frame.frame).foldl fun _ _ h => (h.ite h.reroute))

theorem execEscapeWaitTimeout_canonical (h : s.Canonical) {port k} :
    OutCanonical (execEscapeWaitTimeout port k s) := by
  unfold execEscapeWaitTimeout
  split
  · exact h
  · exact .ite h h.modPort.relay

theorem State.Canonical.linkTurn (h : s.Canonical) : s.linkTurn.Canonical :=
  (h.foldl fun _ _ h => (h.sendIdle.ite h)).installTree.ite (h.foldl fun _ _ h => (h.sendIdle.ite h))

/-! Machine/Walk -/

theorem State.Canonical.placeKey (h : s.Canonical) {c es write p} : (s.placeKey c es write p).1.Canonical := by
  unfold State.placeKey
  split
  · exact h
  · exact h
  · exact h
  · dsimp only
    split
    · split
      · split <;> exact h.translate
      · split <;> exact h.translate
    · exact h.translate

theorem State.Canonical.readPlace (h : s.Canonical) {c es hint p} : (s.readPlace c es hint p).1.Canonical := by
  dsimp only [State.readPlace]
  split
  · exact h.placeKey
  · exact h.placeKey
  · split
    · exact h.placeKey.reveal
    · split
      · exact h.placeKey
      · exact h.placeKey.readHome

theorem State.Canonical.placeKeys (h : s.Canonical) {c es l} : (s.placeKeys c es l).1.Canonical := by
  induction l generalizing s with
  | nil => exact h
  | cons p l ih =>
    dsimp only [State.placeKeys]
    split
    · exact h.placeKey
    · exact ih h.placeKey

theorem State.Canonical.moves (h : s.Canonical) {c es hint j l} : (s.moves c es hint j l).1.Canonical := by
  induction l generalizing s j with
  | nil => exact h
  | cons e l ih =>
    dsimp only [State.moves]
    split
    · exact ih h.readPlace.placeKeys
    · exact ih h.readPlace.placeKeys
    · exact ih h.readPlace.placeKeys

theorem State.Canonical.writeKeys (h : s.Canonical) {region hint l} : (s.writeKeys region hint l).Canonical :=
  (h.foldl fun _ _ h => h.modCore).foldl fun _ _ h => h.sliceWrite.foldl fun _ _ h => h.setHomeByte

theorem State.Canonical.noteCopies (h : s.Canonical) {c seq l} : (s.noteCopies c seq l).Canonical := by
  have hst (x : Ctx) (own l) : (x.noteCopy own l).st = x.st := by
    dsimp only [Ctx.noteCopy]
    split <;> rfl
  refine ⟨h.mem, h.host, Tab.wf_map (fun p => ?_) (fun p hp => ?_) h.ctxs⟩
  · split <;> rfl
  · split
    · next hb =>
      intro e
      have hs := congrArg Ctx.st e
      rw [hst] at hs
      simp [Ctx.busy, hs] at hb
    · exact hp

theorem State.Canonical.performMoves (h : s.Canonical) {c m ms} : (s.performMoves c m ms).Canonical :=
  h.frame.writeKeys.noteCopies

theorem State.Canonical.someMoves (h : s.Canonical) {ms} : (s.someMoves ms).1.Canonical := h.frame

/-! Machine/Fabric -/

theorem State.Canonical.modWindow (h : s.Canonical) {k f} : (s.modWindow k f).Canonical := h.frame

theorem State.Canonical.hubWrite (h : s.Canonical) {region va data} : (s.hubWrite region va data).Canonical := by
  refine .fst_foldl h fun p _ h => ?_
  dsimp only
  split
  · exact h.walkReads.writeHome
  · exact h

theorem State.Canonical.hubRead (h : s.Canonical) {region va n} : (s.hubRead region va n).1.Canonical := by
  refine List.foldlRecOn (motive := fun p : (State × Option (List Byte)) × Nat => p.1.1.Canonical) _ _ h
    fun p h _ _ => ?_
  dsimp only
  split
  · exact .fst_ite h.fst_mk h.walkReads.readHome.fst_mk
  · exact h

theorem State.Canonical.hubAdd (h : s.Canonical) {region va v} : (s.hubAdd region va v).Canonical := by
  unfold State.hubAdd
  split
  · next e => exact (h.hubRead.fst e).hubWrite
  · next e => exact h.hubRead.fst e

theorem State.Canonical.counted (h : s.Canonical) {p} : (s.counted p).Canonical := (h.hubAdd.ite h).inject

theorem State.Canonical.hubRequest (h : s.Canonical) {p act} (hact : ∀ s, s.Canonical → (act s).Canonical) :
    (s.hubRequest p act).Canonical := by
  unfold State.hubRequest
  split
  · exact h.modWindow.inject
  · exact hact s h

theorem execPutPacket_canonical (h : s.Canonical) {p} : OutCanonical (execPutPacket p s) :=
  h.hubRequest fun _ h => h.hubWrite.counted

theorem execGetreq_canonical (h : s.Canonical) {p} : OutCanonical (execGetreq p s) := by
  refine h.hubRequest fun s h => ?_
  split
  · next e => exact (h.hubRead.fst e).inject.counted
  · next e => exact (h.hubRead.fst e).inject

theorem execRaddPacket_canonical (h : s.Canonical) {p} : OutCanonical (execRaddPacket p s) :=
  h.hubRequest fun _ h => h.hubAdd.counted

theorem State.Canonical.modFrag (h : s.Canonical) {x f} : (s.modFrag x f).Canonical := h.frame

theorem State.Canonical.settle (h : s.Canonical) {xid} : (s.settle xid).Canonical := by
  unfold State.settle
  split
  · exact h
  · split
    · split
      · exact h.frame.ite h.frame.sendPost
      · exact h.frame
    · exact h

theorem execDone_canonical (h : s.Canonical) {p} : OutCanonical (execDone p s) := h.modFrag.settle

theorem State.Canonical.stopFrag (h : s.Canonical) {xid reason} : (s.stopFrag xid reason).Canonical := by
  unfold State.stopFrag
  split
  · exact h
  · exact h.frame.modTask

theorem execNack_canonical (h : s.Canonical) {p} : OutCanonical (execNack p s) := h.stopFrag.ite h

theorem State.Canonical.stopCmd (h : s.Canonical) {c eng m r} : (s.stopCmd c eng m r).Canonical := by
  dsimp only [State.stopCmd]
  exact h.modCtx

theorem State.Canonical.replyData (h : s.Canonical) {c m g data} : (s.replyData c m g data).1.Canonical := by
  refine .performMoves (List.foldlRecOn (motive := fun p : (State × List Move × Option CmdStop) × Nat =>
    p.1.1.Canonical)
    _ _ h fun p h _ _ => ?_)
  dsimp only
  split
  · exact h.placeKey
  · exact h.placeKey

theorem execGetdata_canonical (h : s.Canonical) {p} : OutCanonical (execGetdata p s) := by
  unfold execGetdata
  split
  · exact h
  · split
    · exact h
    · split
      · split
        · next e3 => exact (h.replyData.fst e3).frame.stopCmd
        · next e3 => exact (h.replyData.fst e3).modFrag.settle

theorem State.Canonical.settleFab (h : s.Canonical) : s.settleFab.Canonical := h.frame

theorem State.Canonical.chargeFab (h : s.Canonical) {r n} : (s.chargeFab r n).Canonical := h.frame

theorem State.Canonical.readHandle (h : s.Canonical) {c m} : (s.readHandle c m).1.Canonical := by
  unfold State.readHandle
  split
  · next e => exact h.readPlace.fst e

theorem State.Canonical.sendFrag (h : s.Canonical) {c eng m f last data} :
    (s.sendFrag c eng m f last data).Canonical :=
  h.frame.chargeFab.modRegion.inject

/-! Machine/Engine -/

theorem State.Canonical.completeCmd (h : s.Canonical) {c m} : (s.completeCmd c m).Canonical :=
  h.modCtx.foldl fun _ _ h => h.sendPost

theorem State.Canonical.startCmd (h : s.Canonical) {c m h'} : (s.startCmd c m h').Canonical := by
  dsimp only [State.startCmd]
  exact h.frame.modCtx

theorem State.Canonical.fillMoves (h : s.Canonical) {c es b j l} : (s.fillMoves c es b j l).1.Canonical := by
  induction l generalizing s j with
  | nil => exact h
  | cons e l ih =>
    dsimp only [State.fillMoves]
    split
    · exact ih h.placeKeys
    · exact ih h.placeKeys

theorem State.Canonical.prefetch (h : s.Canonical) {c es hint l} : (s.prefetch c es hint l).1.Canonical := by
  induction l generalizing s with
  | nil => exact h
  | cons p l ih =>
    dsimp only [State.prefetch]
    split
    · exact h.placeKey
    · exact ih h.placeKey
    · split
      · exact h.placeKey
      · exact ih h.placeKey.sliceRead

/-- The state that a granule leaves, if it ran, is in canonical form. -/
def RanCanonical : Ran → Prop
  | .waits => True
  | .moved t | .completed t | .stopped t => t.Canonical

theorem RanCanonical.ite {c : Prop} [Decidable c] {o p : Ran} (ho : RanCanonical o) (hp : RanCanonical p) :
    RanCanonical (if c then o else p) := by split <;> assumption

theorem State.Canonical.progress (h : s.Canonical) {c m n total} : RanCanonical (s.progress c m n total) :=
  .ite h.completeCmd h.modCtx

theorem State.Canonical.runCopy (h : s.Canonical) {c eng m} : RanCanonical (s.runCopy c eng m) := by
  unfold State.runCopy
  extract_lets es n l
  refine .ite h.completeCmd ?_
  split
  · split
    · next e => exact (h.prefetch.fst e).progress
    · next e => exact (h.prefetch.fst e).stopCmd
  · split
    next t ms stop e =>
    have ht : t.Canonical := .fst (.fst_ite h.fillMoves h.moves) e
    split
    · exact ht.performMoves.progress
    · exact ht.someMoves.performMoves.stopCmd

theorem State.Canonical.emptyAck (h : s.Canonical) {c m} : (s.emptyAck c m).Canonical := h.sendPost.ite h

theorem State.Canonical.fragData (h : s.Canonical) {c m f} : (s.fragData c m f).1.Canonical := by
  unfold State.fragData
  split
  · dsimp only
    split
    · next e1 => exact h.moves.fst e1
    · next e1 => exact h.moves.fst e1
  · exact h

theorem State.Canonical.runFabric (h : s.Canonical) {c eng m} : RanCanonical (s.runFabric c eng m) := by
  dsimp only [State.runFabric]
  split
  · exact .ite trivial (.completeCmd (.ite h.emptyAck h))
  · split
    · next e => exact (h.fragData.fst e).stopCmd
    · next e =>
      have h := h.fragData.fst e
      exact .ite trivial (.ite h.sendFrag.modCtx h.sendFrag.progress)

theorem State.Canonical.runHead (h : s.Canonical) {c eng} : RanCanonical (s.runHead c eng) := by
  unfold State.runHead
  split
  · exact trivial
  · refine .ite trivial (.ite trivial (.ite (.ite h.runFabric h.runCopy) (.ite (.ite h.runFabric ?_) ?_)))
    · split
      · next e => exact (h.readHandle.fst e).startCmd
      · next e => exact (h.readHandle.fst e).stopCmd
    · exact h.startCmd.runCopy

theorem State.Canonical.passTurn (h : s.Canonical) {k eng} : (s.passTurn k eng).Canonical := .ite h.modCore h

theorem execCopyCompletion_canonical (h : s.Canonical) {c eng} : OutCanonical (execCopyCompletion c eng s) := by
  refine State.Canonical.ite ?_ h
  have hr := (h.passTurn (k := coreOf c) (eng := eng)).runHead (c := c) (eng := eng)
  split
  · next e => rwa [e] at hr
  · next e => rwa [e] at hr
  · exact h

theorem execCopyStop_canonical (h : s.Canonical) {c eng} : OutCanonical (execCopyStop c eng s) := by
  refine State.Canonical.ite ?_ h
  have hr := (h.passTurn (k := coreOf c) (eng := eng)).runHead (c := c) (eng := eng)
  split
  · next e => rwa [e] at hr
  · exact h

theorem execFlagPostArrival_canonical (h : s.Canonical) {k} : OutCanonical (execFlagPostArrival k s) := by
  unfold execFlagPostArrival
  split
  · exact h
  · exact h.ite (h.frame.modTask.ite (h.ite h.frame))

/-! Machine/Recovery -/

theorem State.Canonical.toSave (h : s.Canonical) {c} : (s.toSave c).Canonical := by
  unfold State.toSave
  split
  · split
    · exact h.homeUpdate.modCtx
    · exact h.modCtx
  · exact h.modCtx

theorem State.Canonical.discardStep (h : s.Canonical) {l step} : (s.discardStep l step).Canonical :=
  (h.foldl fun _ _ h => h.modCtx).frame.recount

theorem State.Canonical.requestPreempt (h : s.Canonical) {c} : (s.requestPreempt c).Canonical :=
  (h.foldl fun _ _ h => h.modCtx).ite h

theorem State.Canonical.preemptTask (h : s.Canonical) {c} : (s.preemptTask c).Canonical := by
  unfold State.preemptTask
  split
  · exact h
  · dsimp only
    split
    · exact h
    · split
      · exact ((h.ite h.modRegion).foldl fun _ _ h => h.toSave).ite (h.ite h.modRegion).discardStep
      · exact (h.ite h.modRegion).foldl fun _ _ h => h.toSave

theorem State.Canonical.freeBytes (h : s.Canonical) {region va n} : (s.freeBytes region va n).Canonical := by
  dsimp only [State.freeBytes]
  refine h.frame.foldl fun _ x h => ?_
  split
  · exact h.writeHome
  · exact h

theorem State.Canonical.addSaved (h : s.Canonical) {k x parked} : (s.addSaved k x parked).Canonical :=
  h.frame.ite h.frame

theorem State.Canonical.completeSave (h : s.Canonical) {c} : (s.completeSave c).Canonical :=
  h.ite (h.l1WriteBack.l1MergeAll.ite h.l1WriteBack.l1MergeAll.freeBytes).addSaved.modCtx.recount

theorem State.Canonical.writeParked (h : s.Canonical) {core k} : (s.writeParked core k).Canonical := by
  unfold State.writeParked
  split
  · exact h
  · exact (h.foldl fun _ _ h => (h.freeBytes.ite h)).frame

theorem State.Canonical.spillOut (h : s.Canonical) {c} : (s.spillOut c).Canonical :=
  h.modCtx.foldl fun _ _ h => h.pushOverflow

theorem State.Canonical.restoreWindows (h : s.Canonical) {c} : (s.restoreWindows c).Canonical := by
  dsimp only [State.restoreWindows]
  exact h.clearWindows.modCore

theorem State.Canonical.giveBack (h : s.Canonical) {c} : (s.giveBack c).Canonical := (h.ite h.toSave).modCtx

theorem State.Canonical.restartOne (h : s.Canonical) {m} : (s.restartOne m).Canonical :=
  (h.unhold.ite h).modCtx.ite (h.unhold.ite h).modCtx.restoreWindows

theorem State.Canonical.restart (h : s.Canonical) {c} : (s.restart c).Canonical := h.foldl fun _ _ h => h.restartOne

theorem State.Canonical.emptyBank (h : s.Canonical) {c} : (s.emptyBank c).Canonical := by
  unfold State.emptyBank
  split
  · exact h
  · exact h.addSaved.modCtx
  · extract_lets clear
    refine ⟨h.mem, h.host, ?_⟩
    exact Tab.wf_mapVals _ h.ctxs

theorem State.Canonical.emptyBanks (h : s.Canonical) {uid} : (s.emptyBanks uid).Canonical := by
  dsimp only [State.emptyBanks]
  refine State.Canonical.foldl ?_ fun _ x h => ?_
  · refine h.foldl fun _ x h => ?_
    split
    · exact h.emptyBank.ite h
    · exact h
  · exact h.modCtx

theorem State.Canonical.killCore (h : s.Canonical) {k l} : (s.killCore k l).Canonical := by
  unfold State.killCore
  extract_lets s1 uids s2 s3 save s4 s5
  have h2 : s2.Canonical := h.modCore.foldl fun _ _ h => h.emptyBank
  have h3 : s3.Canonical := (h2.foldl fun _ _ h => h.emptyBanks).foldl fun _ _ h => h.emptyBanks
  have h4 : s4.Canonical := h3.foldl fun _ _ h => .ite h (h.modRegion.foldl fun _ _ h => h.toSave)
  exact h4.modRegion.postAll

theorem State.Canonical.retireCore (h : s.Canonical) {k} : (s.retireCore k).Canonical := by
  unfold State.retireCore
  extract_lets all regions back s1 l s2 s3 s4 s5 s6 s7 d
  have h1 : s1.Canonical := h.foldl fun _ _ h => h.giveBack
  have h2 : s2.Canonical := h1.unhold.unhold.foldl fun _ _ h => h.restart
  have h5 : s5.Canonical := h2.l1WriteBack.l1MergeAll.modCore.spillOut.spillOut
  have h6 : s6.Canonical := h5.frame
  have h7 : s7.Canonical := h6.foldl fun _ _ h => h.postAll.post
  exact .recount (.ite h7.modDie.modCore h7.killCore)

theorem State.Canonical.reportRetire (h : s.Canonical) {k} : (s.reportRetire k).Canonical := h.ite h.modCore.modNal

theorem execCoreRetirement_canonical (h : s.Canonical) {core} : OutCanonical (execCoreRetirement core s) :=
  h.ite (h.reportRetire.ite h.modCore.retireCore.modNal)

theorem State.Canonical.dataError (h : s.Canonical) {c} : (s.dataError c).Canonical :=
  h.frame.ite (h.frame.reportRetire.ite (h.frame.ite (h.frame.foldl fun _ _ h => h.modCtx.modCtx)))

theorem execDataError_canonical (h : s.Canonical) {e} : OutCanonical (execDataError e s) := by
  unfold execDataError
  split
  · exact h.frame
  · exact h.dataError
  · dsimp only
    split
    · exact h
    · exact h.l1Drop.ite h.dataError

theorem State.Canonical.letDrain (h : s.Canonical) {l} : (s.letDrain l).Canonical := h.foldl fun _ _ h => h.modCtx

theorem execRerunVerdict_canonical (h : s.Canonical) {c} : OutCanonical (execRerunVerdict c s) := by
  unfold execRerunVerdict
  split
  · exact .ite h h.letDrain
  · dsimp only
    split
    · exact h
    · split
      · exact h.foldl fun _ _ h => h.modCtx
      · split
        · exact h.reportRetire
        · exact h.frame.foldl fun _ _ h => h.modCtx

/-! Machine/Launch -/

theorem State.Canonical.finishRecord (h : s.Canonical) {q} : (s.finishRecord q).Canonical :=
  h.modQueue.frame.ringHeader.ite h.modQueue.frame

theorem State.Canonical.walkDone (h : s.Canonical) {q} : (s.walkDone q).Canonical := by
  unfold State.walkDone
  split
  · exact h
  · exact h.ite h.frame.dropLease.finishRecord

theorem State.Canonical.modLaunch (h : s.Canonical) {die ticket f} : (s.modLaunch die ticket f).Canonical := h.frame

theorem State.Canonical.launchDone (h : s.Canonical) {l} : (s.launchDone l).Canonical := by
  unfold State.launchDone
  split
  · exact h.frame
  · exact h.frame.walkDone.ite h.frame.finishRecord

theorem State.Canonical.retireLaunch (h : s.Canonical) {l keepUnder} : (s.retireLaunch l keepUnder).Canonical :=
  h.retireUnlaunched.dropLease.launchDone

theorem State.Canonical.badLaunch (h : s.Canonical) {l detail} : (s.badLaunch l detail).Canonical :=
  h.badFrame.retireLaunch

theorem State.Canonical.unsatLaunch (h : s.Canonical) {l bit} : (s.unsatLaunch l bit).Canonical := h.post.retireLaunch

theorem State.Canonical.takeTicket (h : s.Canonical) {d} : (s.takeTicket d).1.Canonical := h.modDie.fst_mk

theorem State.Canonical.modReservation (h : s.Canonical) {die ticket f} : (s.modReservation die ticket f).Canonical :=
  h.frame

theorem State.Canonical.tell (h : s.Canonical) {l} : (s.tell l).Canonical := h.frame

theorem State.Canonical.beginReservation (h : s.Canonical) {l} : (s.beginReservation l).Canonical := by
  dsimp only [State.beginReservation]
  split
  · exact h.frame.tell
  · exact h

theorem State.Canonical.failReservation (h : s.Canonical) {die ticket} :
    (s.failReservation die ticket).Canonical := by
  unfold State.failReservation
  split
  · exact h
  · exact h.ite h.modReservation.tell

theorem State.Canonical.grantReserve (h : s.Canonical) {k ticket cls} : (s.grantReserve k ticket cls).Canonical := by
  dsimp only [State.grantReserve]
  split
  · exact h.modCore.modReservation.tell.ite h.modCore.modReservation
  · exact h.modCore.modReservation

theorem State.Canonical.holdReserve (h : s.Canonical) {k ticket cls} : (s.holdReserve k ticket cls).Canonical := by
  unfold State.holdReserve
  split
  · exact h.modCore
  · exact h.ite (h.modCore.failReservation.ite h.failReservation)

theorem State.Canonical.awaitLatch (h : s.Canonical) {k ticket} : (s.awaitLatch k ticket).Canonical := h.modCore

theorem execReserve_canonical (h : s.Canonical) {core ticket cls flexible} :
    OutCanonical (execReserve core ticket cls flexible s) := by
  dsimp only [execReserve]
  split
  · exact h
  · split
    · exact h
    · split
      · exact h.failReservation
      · split
        · exact h.modCore.holdReserve.ite h.modCore.grantReserve
        · exact h.modCore.grantReserve.tell.ite h.modCore.failReservation
        · exact h.modCore.awaitLatch

theorem State.Canonical.relocate (h : s.Canonical) {l} : (s.relocate l).Canonical := by
  unfold State.relocate
  split
  · exact h.unsatLaunch
  · exact h.modDie.frame

theorem execReservationRetry_canonical (h : s.Canonical) {die ticket} :
    OutCanonical (execReservationRetry die ticket s) := by
  unfold execReservationRetry
  split
  · exact h
  · exact h.ite (h.relocate.ite h.beginReservation)

theorem State.Canonical.placeLaunch (h : s.Canonical) {l r} : OptCanonical (s.placeLaunch l r) := by
  dsimp only [State.placeLaunch]
  split
  · exact trivial
  · exact (h.foldl fun _ _ h => h.clearWindows.modCtx.modCore).frame.launchDone

theorem execCommit_canonical (h : s.Canonical) {core ticket} : OutCanonical (execCommit core ticket s) := by
  dsimp only [execCommit]
  split
  · have hr {d t f} : ((s.modCore core f).modReservation d ticket t).Canonical := h.modCore.modReservation
    exact State.Canonical.ite h (.ite h.failReservation (.ite (OptCanonical.getD hr.placeLaunch hr) hr))
  · exact h

theorem execLaunchConditionMet_canonical (h : s.Canonical) {k} : OutCanonical (execLaunchConditionMet k s) := by
  unfold execLaunchConditionMet
  split
  · exact h
  · refine State.Canonical.ite h ?_
    extract_lets ranges asid s1 met
    have h1 : s1.Canonical := h.foldl fun s p h => by
      cases s.vaPa asid p.1 with
      | none => exact h
      | some pa => exact h.walkReads.readHome
    exact .ite h.badLaunch (.ite h1.modLaunch h1)

theorem State.Canonical.dropSaved (h : s.Canonical) {v bit} : (s.dropSaved v bit).Canonical := by
  unfold State.dropSaved
  extract_lets x t s1 s2 s3
  have h1 : s1.Canonical := h.frame
  have h2 : s2.Canonical := h1.foldl fun _ _ h => h.foldl fun _ _ h => h.pushOverflow
  exact .ite h2.recount h2.post.retireUnlaunched.dropLease.recount

theorem execResumption_canonical (h : s.Canonical) {k c} : OutCanonical (execResumption k c s) := by
  unfold execResumption
  split
  · exact h
  · dsimp only
    split
    · exact h.dropSaved.ite h
    · split
      · exact h
      · exact (h.foldl fun _ _ h => (h.writeParked.ite h)).frame.foldl fun _ _ h => h.modCtx

theorem State.Canonical.startTaken (h : s.Canonical) {c e} : (s.startTaken c e).Canonical := by
  unfold State.startTaken
  split
  · next e1 => exact (h.startEntry.fst e1).modCtx
  · next e1 => exact (h.startEntry.fst e1).modCtx.recount
  · next e1 => exact (h.startEntry.fst e1).recount

theorem State.Canonical.stealFrom (h : s.Canonical) {v thief} : OptCanonical (s.stealFrom v thief) := by
  dsimp only [State.stealFrom]
  split
  · exact .ite h.modCtx.startTaken trivial
  · exact .ite h.modCtx.startTaken trivial
  · exact trivial

theorem State.Canonical.stealCore (h : s.Canonical) {victim thief} : OptCanonical (s.stealCore victim thief) := by
  unfold State.stealCore
  split
  · exact trivial
  · split
    · next e => exact h.stealFrom.some e
    · exact h.stealFrom

theorem State.Canonical.takeOverflow (h : s.Canonical) {r c steal} : OptCanonical (s.takeOverflow r c steal) := by
  unfold State.takeOverflow
  split
  · exact trivial
  · split
    · exact trivial
    · split
      · exact h.frame.startTaken
      · dsimp only
        split
        · exact trivial
        · next e1 => exact (h.frame.startEntry.fst e1).recount

theorem execStealRound_canonical (h : s.Canonical) {thief} : OutCanonical (execStealRound thief s) := by
  refine State.Canonical.ite ?_ h
  split
  · next e => exact OptCanonical.some (.findSome (fun _ => h.stealCore) _) e
  · exact OptCanonical.getD (.findSome (fun _ => h.takeOverflow) _) h

/-! Machine/Records -/

theorem State.Canonical.stopQueue (h : s.Canonical) {q reason} : (s.stopQueue q reason).Canonical := h.modQueue.post

theorem State.Canonical.nextRecord (h : s.Canonical) {q} : (s.nextRecord q).1.Canonical := by
  unfold State.nextRecord
  extract_lets x s1 s2 s3 va
  have h1 : s1.Canonical := .ite h.modQueue h
  have h2 : s2.Canonical := ⟨h1.mem, h1.host, h1.ctxs⟩
  have h3 : s3.Canonical := .ite h2.ringHeader h2
  clear_value s3
  refine .fst_ite h (.fst_ite h1.stopQueue (.fst_ite h3 ?_))
  split
  · exact h3.ringMissing
  · dsimp only
    exact .fst_ite (.fst_mk (.modQueue (.ite h3.walkReads.readHome h3.walkReads.readHome.walkReads)))
      h3.walkReads.readHome.ringHeader.modQueue.fst_mk

theorem State.Canonical.onRecord (h : s.Canonical) {q is f} (hf : ∀ s x1, s.Canonical → (f s x1).Canonical) :
    OutCanonical (s.onRecord q is f) := by
  unfold State.onRecord
  split
  · next t r e => exact State.Canonical.ite (hf t r (h.nextRecord.fst e)) h
  · next e => exact h.nextRecord.fst e

theorem State.Canonical.throughF1 (h : s.Canonical) {f q r} (hf : ∀ s x1 x2, s.Canonical → (f s x1 x2).Canonical) :
    (State.throughF1 f s q r).Canonical :=
  .ite h.modQueue (hf s q r h)

theorem State.Canonical.badRecord (h : s.Canonical) {q r} : (s.badRecord q r).Canonical := h.post.finishRecord

theorem State.Canonical.holdQueue (h : s.Canonical) {q} : (s.holdQueue q).Canonical := h.modQueue

theorem State.Canonical.dropHeld (h : s.Canonical) {region va} : (s.dropHeld region va).Canonical := by
  unfold State.dropHeld
  split
  · exact h.modLease.dropLease
  · exact h

theorem State.Canonical.askGrant (h : s.Canonical) {l isRecord isWalk} : (s.askGrant l isRecord isWalk).Canonical :=
  h.frame.modNal

theorem State.Canonical.launchLease (h : s.Canonical) {l} : (s.launchLease l).Canonical := by
  unfold State.launchLease
  split
  · exact h.modLease.frame
  · exact h.askGrant

theorem State.Canonical.taskRecord (h : s.Canonical) {q r} : (s.taskRecord q r).Canonical := by
  dsimp only [State.taskRecord]
  split
  · exact h.badRecord
  · split
    · exact h.takeTicket.readFrame.frameData.dropHeld.finishRecord
    · exact h.takeTicket.readFrame.badFrame.taskDone.dropHeld.finishRecord
    · split
      · exact h.takeTicket.readFrame.dropHeld.badLaunch
      · split
        · exact h.takeTicket.readFrame.dropHeld.unsatLaunch
        · exact h.takeTicket.readFrame.launchLease.holdQueue

theorem execTask_canonical (h : s.Canonical) {q} : OutCanonical (execTask q s) := h.onRecord fun _ _ h => h.taskRecord

theorem State.Canonical.walkRecord (h : s.Canonical) {q r} : (s.walkRecord q r).Canonical := by
  dsimp only [State.walkRecord]
  split
  · exact h.badRecord
  · refine .ite h.badRecord ?_
    split
    · exact h.readHome.readFrame.frameData.finishRecord
    · exact h.readHome.readFrame.badFrame.taskDone.finishRecord
    · split
      · exact h.readHome.readFrame.badLaunch
      · exact .ite h.readHome.readFrame.finishRecord (.holdQueue (.askGrant h.readHome.readFrame.frame))

theorem State.Canonical.walkStep (h : s.Canonical) {w} : (s.walkStep w).Canonical := by
  dsimp only [State.walkStep]
  split
  · exact h.takeTicket.frame.modLease.unsatLaunch
  · exact h.takeTicket.frame.modLease.frame

theorem execWalk_canonical (h : s.Canonical) {q} : OutCanonical (execWalk q s) := by
  unfold execWalk
  split
  · exact h.ite h.walkStep
  · exact h.onRecord fun _ _ h => h.walkRecord

theorem State.Canonical.waitRecord (h : s.Canonical) {q r} : (s.waitRecord q r).Canonical := by
  unfold State.waitRecord
  split
  · exact h.badRecord
  · exact (h.foldl fun _ _ h => h.sliceRead).finishRecord.ite (h.foldl fun _ _ h => h.sliceRead).holdQueue

theorem execWait_canonical (h : s.Canonical) {q} : OutCanonical (execWait q s) := h.onRecord fun _ _ h => h.waitRecord

theorem State.Canonical.signalRecord (h : s.Canonical) {q r} : (s.signalRecord q r).Canonical := by
  unfold State.signalRecord
  split
  · exact h.badRecord
  · exact ((h.homeUpdate.ite h.writeHome).msix.ite (h.homeUpdate.ite h.writeHome)).finishRecord

theorem execSignal_canonical (h : s.Canonical) {q} : OutCanonical (execSignal q s) :=
  h.onRecord fun _ _ h => h.signalRecord

theorem State.Canonical.bindLine (h : s.Canonical) {region line} : (s.bindLine region line).Canonical := by
  dsimp only [State.bindLine]
  split
  · exact h.sliceRead.ite h.sliceRead.l2Put
  · exact h.sliceRead

theorem State.Canonical.bindRecord (h : s.Canonical) {q r} : (s.bindRecord q r).Canonical := by
  dsimp only [State.bindRecord]
  split
  · exact h.badRecord
  · exact (h.foldl fun _ _ h => (h.bindLine.ite h)).finishRecord

theorem execBind_canonical (h : s.Canonical) {q} : OutCanonical (execBind q s) :=
  h.onRecord fun _ _ h => h.throughF1 fun _ _ _ h => h.bindRecord

theorem State.Canonical.leaseRecord (h : s.Canonical) {q r} : (s.leaseRecord q r).Canonical := by
  dsimp only [State.leaseRecord]
  split
  · exact h.dropHeld.finishRecord
  · exact h.finishRecord
  · split
    · exact h.badRecord
    · split
      · split
        · exact h.readFrame.badFrame.finishRecord
        · exact h.readFrame.askGrant.holdQueue
      · exact h.readFrame.badFrame.finishRecord

theorem execLease_canonical (h : s.Canonical) {q} : OutCanonical (execLease q s) :=
  h.onRecord fun _ _ h => h.throughF1 fun _ _ _ h => h.leaseRecord

theorem execEmptyRecord_canonical (h : s.Canonical) {q} : OutCanonical (execEmptyRecord q s) :=
  h.onRecord fun _ _ h => h.finishRecord.ite h.badRecord

theorem State.Canonical.modGrant (h : s.Canonical) {id f} : (s.modGrant id f).Canonical := h.frame

theorem State.Canonical.askPage (h : s.Canonical) {g range asid va} : (s.askPage g range asid va).Canonical :=
  h.ite h.frame.post

theorem State.Canonical.grantPage (h : s.Canonical) {id range asid va plog need tensor} :
    (s.grantPage id range asid va plog need tensor).1.Canonical := by
  dsimp only [State.grantPage]
  split
  · exact h
  · refine .fst_ite h ?_
    split
    · exact h.translate
    · exact .fst_ite h.translate (.fst_ite h.translate h.translate.askPage)
    · exact .fst_ite h.translate (.fst_ite h.translate (.fst_ite h.translate (.fst_ite h.translate
        (.fst_ite h.translate.modGrant (.fst_ite h.translate (.modGrant (.modGrant h.translate.frame)))))))

theorem State.Canonical.grantPages (h : s.Canonical) {id range asid plog need tensor va n} :
    (s.grantPages id range asid plog need tensor va n).1.Canonical := by
  induction n generalizing s va with
  | zero => exact h
  | succ n ih =>
    dsimp only [State.grantPages]
    split
    · next e => exact ih (h.grantPage.fst e)
    · exact h.grantPage

theorem State.Canonical.grantStretches (h : s.Canonical) {id asid l} : (s.grantStretches id asid l).1.Canonical := by
  induction l generalizing s with
  | nil => exact h
  | cons x l ih =>
    dsimp only [State.grantStretches]
    refine .fst_ite (ih h) (.fst_ite h ?_)
    split
    · next e => exact ih (h.grantPages.fst e)
    · exact h.grantPages

theorem State.Canonical.unpin (h : s.Canonical) {pages} : (s.unpin pages).Canonical := h.frame

theorem State.Canonical.endGrant (h : s.Canonical) {g} : (s.endGrant g).Canonical := by
  dsimp only [State.endGrant]
  exact h.frame.unpin.modNal

theorem State.Canonical.dropGrant (h : s.Canonical) {g} : (s.dropGrant g).Canonical := by
  unfold State.dropGrant
  split
  · dsimp only
    split
    · exact h.endGrant.finishRecord
    · exact h.endGrant
  · exact (h.endGrant.frame.ite h.endGrant).retireLaunch

theorem State.Canonical.makeLease (h : s.Canonical) {g} : (s.makeLease g).Canonical := by
  unfold State.makeLease
  split
  · dsimp only
    split
    · exact h.frame.modNal.finishRecord.recount
    · exact h.frame.modNal.recount
  · exact (h.frame.modNal.frame.ite h.frame.modNal.frame).recount

theorem execLeaseGrant_canonical (h : s.Canonical) {k} : OutCanonical (execLeaseGrant k s) := by
  unfold execLeaseGrant
  split
  · exact h
  · refine State.Canonical.ite h ?_
    extract_lets wait l asid refused
    have hw {u : State} (h : u.Canonical) : (wait u).Canonical := h.modNal
    have hr {u : State} (h : u.Canonical) {range reason va} :
      (refused u range reason va).Canonical := h.post.dropGrant
    refine .ite h.badFrame.dropGrant (.ite (hw h) ?_)
    split
    · next e => exact hw (h.grantStretches.fst e)
    · next e => exact hr (h.grantStretches.fst e)
    · next _ e =>
      have h := h.grantStretches.fst e
      exact .ite (hr h) (.ite (hw h) h.makeLease)

theorem State.Canonical.newTable (h : s.Canonical) {region} : (s.newTable region).1.Canonical :=
  .fst_mk (.writeHome (.forgetUnder h.frame))

theorem State.Canonical.makeTables (h : s.Canonical) {region g va n t} :
    (s.makeTables region g va n t).1.Canonical := by
  induction n generalizing s t with
  | zero => exact h
  | succ n ih =>
    dsimp only [State.makeTables]
    exact .fst_ite (ih h.readHome) (ih (.writeHome (.newTable h.readHome)))

theorem State.Canonical.putLeaf (h : s.Canonical) {asid va leaf} : OptCanonical (s.putLeaf asid va leaf) :=
  .ite h.makeTables.writeHome trivial

theorem State.Canonical.mapPage (h : s.Canonical) {asid va leaf} : OptCanonical (s.mapPage asid va leaf) := by
  unfold State.mapPage
  split
  · exact .ite h.walkReads.putLeaf trivial
  · exact h
  · exact trivial

theorem execPagereq_canonical (h : s.Canonical) {k leaf} : OutCanonical (execPagereq k leaf s) := by
  unfold execPagereq
  split
  · exact h
  · split
    · exact h
    · split
      · dsimp only
        split
        · exact h
        · next e1 =>
            split
            · exact (h.frame.answerPage.mapPage.some e1).modQueue
            · exact h.frame.answerPage.mapPage.some e1
      · split
        · exact h.frame.answerPage.stopQueue
        · exact h.frame.answerPage.modGrant
        · exact h.frame.answerPage

theorem State.Canonical.endMigration (h : s.Canonical) {asid page} : (s.endMigration asid page).Canonical := h.frame

theorem State.Canonical.moveUnder (h : s.Canonical) {old new n} : (s.moveUnder old new n).Canonical := h.frame

theorem State.Canonical.migrateStep (h : s.Canonical) {m a} : (s.migrateStep m a).Canonical := by
  unfold State.migrateStep
  split
  · exact h.ite h.writeHome.performInvl.frame
  · exact h.ite (h.foldl fun _ _ h => h.sliceRead).forgetUnder.writeHome.moveUnder.frame
  · exact h.writeHome.endMigration

theorem execMigration_canonical (h : s.Canonical) {asid va frame} : OutCanonical (execMigration asid va frame s) := by
  unfold execMigration
  split
  · exact h
  · dsimp only
    split
    · exact h
    · split
      · exact h.walkReads.migrateStep
      · exact h.ite h.frame

theorem State.Canonical.writeVa (h : s.Canonical) {region va b} : OptCanonical (s.writeVa region va b) := by
  unfold State.writeVa
  extract_lets asid
  generalize hr : List.foldlM (m := Option) _ (s, 0) _ = r
  cases r with
  | none => exact trivial
  | some q =>
    refine State.Canonical.fst_foldlM (fun p a q hp e => ?_) h hr
    obtain ⟨pa, -, rfl⟩ := Option.map_eq_some_iff.mp e
    exact hp.writeHome

theorem State.Canonical.summaryRecord (h : s.Canonical) {q r} : (s.summaryRecord q r).Canonical := by
  unfold State.summaryRecord
  split
  · exact h.badRecord
  · dsimp only
    split
    · exact h.badRecord
    · next e => exact (h.frame.writeVa.some e).complete.finishRecord

theorem execSummary_canonical (h : s.Canonical) {q} : OutCanonical (execSummary q s) :=
  h.onRecord fun _ _ h => h.throughF1 fun _ _ _ h => h.summaryRecord

/-! Machine/Dram -/

theorem State.Canonical.modHbm (h : s.Canonical) {k f} : (s.modHbm k f).Canonical := h.setHbm

theorem State.Canonical.settleBuckets (h : s.Canonical) {stack} : (s.settleBuckets stack).Canonical :=
  h.foldl fun _ _ h => h.modHbm

theorem State.Canonical.hbmAdmit (h : s.Canonical) {stack k t} : (s.hbmAdmit stack k t).Canonical := by
  unfold State.hbmAdmit
  split
  · exact h.ite h
  · exact h.ite h.frame.modHbm.modRegion

theorem State.Canonical.activateRow (h : s.Canonical) {stack t q} : (s.activateRow stack t q).Canonical :=
  h.modHbm.post.ite h.modHbm

theorem State.Canonical.hbmServe (h : s.Canonical) {stack k t} : (s.hbmServe stack k t).Canonical := by
  unfold State.hbmServe
  split
  · exact h.ite h
  · exact h.ite (h.frame.modHbm.modHbm.ite h.frame.modHbm.activateRow)

/-! Machine/Regions -/

theorem State.Canonical.sendReply (h : s.Canonical) {f m} : (s.sendReply f m).Canonical :=
  h.modFunc.ite h.homeWrite.emit.modFunc.raiseVec

theorem State.Canonical.takeMbox (h : s.Canonical) {f} : (s.takeMbox f).Canonical := by
  dsimp only [State.takeMbox]
  split
  · exact h
  · split
    · exact h
    · split
      · split
        · exact h.modFunc.sendReply
        · split
          · exact h.modFunc.sendReply
          · exact h.ite h.modFunc.modNal
      · split
        · exact h.modFunc.sendReply
        · split
          · exact h.modFunc.sendReply
          · exact h.ite h.modFunc.modNal

theorem State.Canonical.takeMboxes (h : s.Canonical) : s.takeMboxes.Canonical := h.foldl fun _ _ h => h.takeMbox

theorem State.Canonical.serve (h : s.Canonical) {fn q f} (hf : ∀ s, s.Canonical → (f s).1.Canonical) :
    (s.serve fn q f).Canonical := by
  unfold State.serve
  refine .ite h ?_
  split
  · next e => exact ((hf s h).fst e).modNal.sendReply.takeMboxes
  · next e => exact ((hf s h).fst e).modNal

theorem State.Canonical.ofRegion (h : s.Canonical) {q f} (hf : ∀ x, (f x).1.Canonical) :
    (s.ofRegion q f).1.Canonical := by
  unfold State.ofRegion
  split
  · exact hf _
  · exact h

theorem State.Canonical.setCosDie (h : s.Canonical) {d} : (s.setCosDie d).Canonical :=
  h.settleBuckets.settleBuckets.modDie.modHbm.modHbm.foldl fun _ _ h => h.modRegion

theorem State.Canonical.setCos (h : s.Canonical) : s.setCos.Canonical := h.foldl fun _ _ h => h.setCosDie

theorem State.Canonical.giveSpace (h : s.Canonical) {r raf} : (s.giveSpace r raf).Canonical := h.frame.modRegion

theorem State.Canonical.createRegion (h : s.Canonical) {q parent} : (s.createRegion q parent).1.Canonical := by
  dsimp only [State.createRegion]
  split
  · exact h
  · refine .fst_ite h (.fst_ite h ?_)
    split
    · exact h
    · exact .fst_mk (.setCos (.ite h.setRegion.giveSpace h.setRegion))

theorem execRegionCreate_canonical (h : s.Canonical) {q} : OutCanonical (execRegionCreate q s) := by
  unfold execRegionCreate
  split
  · exact h.serve fun _ h => h.createRegion
  · exact h.serve fun _ h => h

theorem State.Canonical.fitHoldings (h : s.Canonical) {r} : (s.fitHoldings r).Canonical :=
  h.foldl fun _ _ h => h.requestPreempt

theorem State.Canonical.wakeQueues (h : s.Canonical) {ok} : (s.wakeQueues ok).Canonical := h.frame

theorem State.Canonical.resumeDomain (h : s.Canonical) {r} : (s.resumeDomain r).Canonical :=
  (h.foldl fun _ _ h => h.modRegion).wakeQueues

theorem State.Canonical.updateRegion (h : s.Canonical) {q fields resume} :
    (s.updateRegion q fields resume).1.Canonical := by
  refine h.ofRegion fun _ => ?_
  split
  · exact h
  · extract_lets t1 t2 t3
    have h3 : t3.Canonical := h.settleFab.setRegion.setCos.fitHoldings.wakeQueues
    exact .fst_ite h (.fst_mk (.ite h3.resumeDomain h3))

theorem execRegionUpdate_canonical (h : s.Canonical) {q} : OutCanonical (execRegionUpdate q s) := by
  unfold execRegionUpdate
  split
  · exact h.serve fun _ h => h.updateRegion
  · exact h.serve fun _ h => h

theorem State.Canonical.dropLaunches (h : s.Canonical) {r} : (s.dropLaunches r).Canonical :=
  ((h.foldl fun _ _ h => h.failReservation).foldl fun _ _ h => h.endGrant).frame

theorem State.Canonical.dropTask (h : s.Canonical) {r c} : (s.dropTask r c).Canonical :=
  h.drainReleased.unhold.modCtx.ite h.modCtx

theorem State.Canonical.dropHoldings (h : s.Canonical) {r} : (s.dropHoldings r).Canonical :=
  ((h.foldl fun _ _ h => h.dropTask).foldl fun _ _ h => h.unpin).frame

theorem State.Canonical.dropSpace (h : s.Canonical) {a} : (s.dropSpace a).Canonical :=
  (h.performInvl.foldl fun _ _ h => h.answerPage).frame

theorem State.Canonical.endRegion (h : s.Canonical) {r} : (s.endRegion r).Canonical := by
  dsimp only [State.endRegion]
  split
  · exact h.frame.dropLaunches.dropHoldings.dropSpace.frame.post
  · exact h.frame.dropLaunches.dropHoldings.frame.post

theorem State.Canonical.destroyRegion (h : s.Canonical) {q} : (s.destroyRegion q).1.Canonical :=
  h.ofRegion fun _ => .fst_ite h (.fst_ite h (.fst_mk (.recount (.setCos (h.foldl fun _ _ h => h.endRegion)))))

theorem execRegionDestroy_canonical (h : s.Canonical) {q} : OutCanonical (execRegionDestroy q s) := by
  unfold execRegionDestroy
  split
  · exact h.serve fun _ h => h.destroyRegion
  · exact h.serve fun _ h => h

/-! Machine/Host -/

theorem State.Canonical.createQueue (h : s.Canonical) {q x} : (s.createQueue q x).1.Canonical := by
  refine h.ofRegion fun _ => .fst_ite h ?_
  split
  · exact h
  · exact h.setQueue.fst_mk

theorem execQueueCreate_canonical (h : s.Canonical) {q} : OutCanonical (execQueueCreate q s) := by
  unfold execQueueCreate
  split
  · exact h.serve fun _ h => h.createQueue
  · exact h.serve fun _ h => h

theorem State.Canonical.dropRecordLeases (h : s.Canonical) {k} : (s.dropRecordLeases k).Canonical :=
  h.foldl fun _ _ h => h.modLease.dropLease

theorem State.Canonical.destroyQueue (h : s.Canonical) {q k} : (s.destroyQueue q k).1.Canonical := by
  dsimp only [State.destroyQueue]
  split
  · exact h
  · split
    · split
      · exact h
      · exact h.dropRecordLeases.setQueue
    · split
      · exact h.setQueue.frame
      · exact h.setQueue.frame.dropRecordLeases.setQueue

theorem execQueueDestroy_canonical (h : s.Canonical) {q} : OutCanonical (execQueueDestroy q s) := by
  unfold execQueueDestroy
  split
  · exact h.serve fun _ h => h.destroyQueue
  · exact h.serve fun _ h => h

theorem State.Canonical.createSpace (h : s.Canonical) {q raf} : (s.createSpace q raf).1.Canonical := by
  refine h.ofRegion fun _ => .fst_ite h ?_
  split
  · exact .fst_ite h h.performInvl.frame
  · exact .fst_ite h h.giveSpace.fst_mk

theorem execAsCreate_canonical (h : s.Canonical) {q} : OutCanonical (execAsCreate q s) := by
  unfold execAsCreate
  split
  · exact h.serve fun _ h => h.createSpace
  · exact h.serve fun _ h => h

theorem State.Canonical.rangeLease (h : s.Canonical) {region va n need} :
    (s.rangeLease region va n need).1.Canonical := by
  unfold State.rangeLease
  split
  · exact h
  · split
    · exact h
    · exact h.frame.recount

theorem State.Canonical.createWindow (h : s.Canonical) {q va bound wr rd ad} :
    (s.createWindow q va bound wr rd ad).1.Canonical := by
  refine h.ofRegion fun _ => .fst_ite h ?_
  split
  · exact h
  · refine .fst_ite h ?_
    split
    · next e => exact h.rangeLease.fst e
    · next e => exact (h.rangeLease.fst e).modWindow.fst_mk

theorem execWindowCreate_canonical (h : s.Canonical) {q} : OutCanonical (execWindowCreate q s) := by
  unfold execWindowCreate
  split
  · exact h.serve fun _ h => h.createWindow
  · exact h.serve fun _ h => h

theorem State.Canonical.destroyWindow (h : s.Canonical) {q k} : (s.destroyWindow q k).1.Canonical := by
  dsimp only [State.destroyWindow]
  split
  · exact h
  · exact h.modWindow.dropLease.recount

theorem execWindowDestroy_canonical (h : s.Canonical) {q} : OutCanonical (execWindowDestroy q s) := by
  unfold execWindowDestroy
  split
  · exact h.serve fun _ h => h.destroyWindow
  · exact h.serve fun _ h => h

theorem State.Canonical.mapDevicePages (h : s.Canonical) {asid plog va pa n} :
    OptCanonical (s.mapDevicePages asid plog va pa n) := by
  induction n generalizing s va pa with
  | zero => exact h
  | succ n ih =>
    dsimp only [State.mapDevicePages]
    refine .ite trivial ?_
    split
    · exact trivial
    · next e => exact ih (h.putLeaf.some e)

theorem State.Canonical.mapDevice (h : s.Canonical) {q va pa n} : (s.mapDevice q va pa n).1.Canonical := by
  unfold State.mapDevice
  split
  · exact h.ofRegion fun _ => h
  · dsimp only
    split
    · exact h.ofRegion fun _ => h
    · split
      · exact h.ofRegion fun _ => h
      · next e => exact h.ofRegion fun _ => h.mapDevicePages.some e

theorem execMapDevice_canonical (h : s.Canonical) {q} : OutCanonical (execMapDevice q s) := by
  unfold execMapDevice
  split
  · exact h.serve fun _ h => h.mapDevice
  · exact h.serve fun _ h => h

theorem State.Canonical.setThreshold (h : s.Canonical) {q t} : (s.setThreshold q t).1.Canonical := by
  unfold State.setThreshold
  split
  · exact h.ofRegion fun _ => h
  · split
    · exact h.ofRegion fun _ => h.frame
    · dsimp only
      split
      · exact h.ofRegion fun _ => h
      · exact h.ofRegion fun _ => h.frame

theorem execSetRowthr_canonical (h : s.Canonical) {q} : OutCanonical (execSetRowthr q s) := by
  unfold execSetRowthr
  split
  · exact h.serve fun _ h => h.setThreshold
  · exact h.serve fun _ h => h

theorem State.Canonical.protectLink (h : s.Canonical) {k} : (s.protectLink k).1.Canonical :=
  .fst_ite h (.fst_ite h (.fst_ite h h.modPort.fst_mk))

theorem execLinkProtect_canonical (h : s.Canonical) {q} : OutCanonical (execLinkProtect q s) := by
  unfold execLinkProtect
  split
  · exact h.serve fun _ h => h.protectLink
  · exact h.serve fun _ h => h

theorem State.Canonical.entryLeases (h : s.Canonical) {region l} : (s.entryLeases region l).1.Canonical := by
  induction l generalizing s with
  | nil => exact h
  | cons e l ih =>
    dsimp only [State.entryLeases]
    refine .fst_ite (ih h) ?_
    split
    · next e => exact h.rangeLease.fst e
    · next e => exact ih (h.rangeLease.fst e)

theorem State.Canonical.bindVf (h : s.Canonical) {q f bind entries} : (s.bindVf q f bind entries).1.Canonical := by
  unfold State.bindVf
  refine .fst_ite h (.fst_ite h (.fst_ite (.fst_ite h ?_) ?_))
  · exact .fst_mk (.recount (.modFunc (h.foldl fun _ _ h => h.dropLease)))
  · split
    · exact h
    · refine .fst_ite h (.fst_ite h ?_)
      split
      · exact h
      · next e => exact .fst_ite h (h.entryLeases.fst e).modFunc.fst_mk

theorem execVfBind_canonical (h : s.Canonical) {q} : OutCanonical (execVfBind q s) := by
  unfold execVfBind
  split
  · exact h.serve fun _ h => h.bindVf
  · exact h.serve fun _ h => h

theorem State.Canonical.makePeer (h : s.Canonical) {q k bus size} : (s.makePeer q k bus size).1.Canonical := by
  unfold State.makePeer
  split
  · exact h
  · split
    · exact h.ofRegion fun _ => h
    · exact h.ofRegion fun _ => h.frame

theorem execPeerWindow_canonical (h : s.Canonical) {q} : OutCanonical (execPeerWindow q s) := by
  unfold execPeerWindow
  split
  · exact h.serve fun _ h => h.makePeer
  · exact h.serve fun _ h => h

theorem State.Canonical.sendHeld (h : s.Canonical) {f n} : (s.sendHeld f n).Canonical := by
  induction n generalizing s with
  | zero => exact h
  | succ n ih =>
    dsimp only [State.sendHeld]
    split
    · exact h
    · exact .ite h (ih h.modFunc.sendReply.modFunc)

theorem State.Canonical.sendAllHeld (h : s.Canonical) : s.sendAllHeld.Canonical :=
  h.foldl fun _ _ h => h.ite h.sendHeld

theorem State.Canonical.maskVec (h : s.Canonical) {f vec mask} : (s.maskVec f vec mask).Canonical :=
  h.modFunc.ite (h.modFunc.raiseVec.ite h.modFunc)

theorem State.Canonical.writeVec (h : s.Canonical) {f vec upper v} : (s.writeVec f vec upper v).Canonical :=
  h.modFunc.maskVec.ite h.modFunc

theorem State.Canonical.bar0Store (h : s.Canonical) {f off v} : (s.bar0Store f off v).Canonical :=
  h.ite (h.modFunc.ite (h.modFunc.ite (h.writeVec.ite h)))

theorem State.Canonical.resizeBar (h : s.Canonical) {f v} : (s.resizeBar f v).Canonical := h.modFunc.ite h

theorem State.Canonical.extend (h : s.Canonical) {k x} : (s.extend k x).Canonical := h.frame

theorem State.Canonical.nalvelStore (h : s.Canonical) {k v} : (s.nalvelStore k v).Canonical :=
  (h.ite h.modDie).ite (h.extend.ite h)

theorem execRegisterWrite_canonical (h : s.Canonical) {space off v} :
    OutCanonical (execRegisterWrite space off v s) := by
  unfold execRegisterWrite
  split
  · exact .ite trivial h.registerStore
  · exact h.bar0Store.ite (h.resizeBar.ite h.nalvelStore)

theorem State.Canonical.aperturePush (h : s.Canonical) {f cap r} : (s.aperturePush f cap r).Canonical := by
  unfold State.aperturePush
  split
  · exact h.modFunc
  · split
    · next e => exact h.hubPush.some e
    · exact h.pushMissing.frame

theorem State.Canonical.retryAperture (h : s.Canonical) : s.retryAperture.Canonical := by
  unfold State.retryAperture
  split
  · exact h
  · exact h.frame.aperturePush.ite h.frame

theorem execBar2Access_canonical (h : s.Canonical) {f write off data n} :
    OutCanonical (execBar2Access f write off data n s) := by
  unfold execBar2Access
  extract_lets region size s1
  refine State.Canonical.ite (.ite h h.emit) ?_
  split
  · exact h.emit
  · have h1 : s1.Canonical := .ite h <| h.foldl fun s p h => by
      cases (s.func f).bar2[off / 2 ^ 32]? with
      | none => exact h
      | some e => exact h.walkReads
    clear_value s1
    extract_lets l s2 runs s3
    have h2 : s2.Canonical := h1.foldl fun _ _ h => h.sliceWrite
    have h3 : s3.Canonical := h1.foldl fun _ _ h => h.sliceRead
    exact .ite (h2.foldl fun _ _ h => h.setHomeByte) (.ite h3.emit h3.emit)

theorem execPeerReadTimeout_canonical (h : s.Canonical) {c k} : OutCanonical (execPeerReadTimeout c k s) := by
  unfold execPeerReadTimeout
  split
  · exact h
  · exact h.ite h.modCtx

/-! Machine/Trust -/

theorem State.Canonical.beginGraft (h : s.Canonical) {q fn addr len} : (s.beginGraft q fn addr len).1.Canonical :=
  .fst_ite h (.fst_ite h (.fst_ite h (.fst_ite h h.modNal.fst_mk)))

theorem execGraft_canonical (h : s.Canonical) {q} : OutCanonical (execGraft q s) := by
  unfold execGraft
  split
  · exact h.serve fun _ h => h.beginGraft
  · exact h.serve fun _ h => h

theorem execGraftVerified_canonical (h : s.Canonical) {fn good version digest} :
    OutCanonical (execGraftVerified fn good version digest s) := by
  unfold execGraftVerified
  split
  · exact (h.modNal.modNal.ite h.modNal).serve fun _ h => h
  · exact h

theorem State.Canonical.revert (h : s.Canonical) {fn cause} : (s.revert fn cause).Canonical :=
  h.ite h.modNal.extend.extend.postAll

theorem State.Canonical.startGraft (h : s.Canonical) {fn} : (s.startGraft fn).Canonical := by
  dsimp only [State.startGraft]
  have ht {t : State} (h : t.Canonical) : ∀ {a b c d e f g i},
    ((t.readHome a b c d).1.readHome e f g i).1.Canonical :=
    h.readHome.readHome
  exact .ite (ht h.modNal.extend.extend.postAll) (ht h.modNal.extend.extend.postAll).revert

theorem State.Canonical.watch (h : s.Canonical) {fn} : (s.watch fn).Canonical := h.ite (h.revert.ite (h.revert.ite h))

theorem State.Canonical.replacement (h : s.Canonical) {fn} : (s.replacement fn).Canonical := by
  unfold State.replacement
  split
  · exact h.startGraft
  · exact h.watch
  · exact h.modNal
  · exact h.modNal
  · exact h
  · exact h

theorem State.Canonical.replacements (h : s.Canonical) : s.replacements.Canonical :=
  h.foldl fun _ _ h => h.replacement

theorem State.Canonical.modSpdm (h : s.Canonical) {f g} : (s.modSpdm f g).Canonical := h.frame

theorem State.Canonical.spdmError (h : s.Canonical) {f code} : (s.spdmError f code).Canonical := h.emit

theorem State.Canonical.spdmAnswer (h : s.Canonical) {f ready go} (hgo : ∀ s, s.Canonical → (go s).Canonical) :
    OutCanonical (s.spdmAnswer f ready go) :=
  State.Canonical.ite h (.ite h.spdmError (.ite h.spdmError (hgo s h)))

theorem execGetVersion_canonical (h : s.Canonical) {f} : OutCanonical (execGetVersion f s) :=
  h.spdmAnswer fun _ h => h.modSpdm.emit

theorem execChallenge_canonical (h : s.Canonical) {f slot nonce} : OutCanonical (execChallenge f slot nonce s) :=
  h.spdmAnswer fun _ h => h.emit.ite h.spdmError

theorem execGetMeasurements_canonical (h : s.Canonical) {f which} : OutCanonical (execGetMeasurements f which s) := by
  unfold execGetMeasurements
  split
  · exact h.spdmAnswer fun _ h => h.emit
  · refine h.spdmAnswer fun _ h => ?_
    split
    · exact h.emit
    · exact h.spdmError

/-! Machine/Power -/

theorem State.Canonical.setCap (h : s.Canonical) {q w} : (s.setCap q w).1.Canonical := by
  unfold State.setCap
  split
  · exact h
  · split
    · exact h
    · exact h.frame

theorem execSetPowercap_canonical (h : s.Canonical) {q} : OutCanonical (execSetPowercap q s) := by
  unfold execSetPowercap
  split
  · exact h.serve fun _ h => h.setCap
  · exact h.serve fun _ h => h

theorem State.Canonical.throttleEvent (h : s.Canonical) {stage entry} : (s.throttleEvent stage entry).Canonical :=
  h.postAll

theorem State.Canonical.setMhz (h : s.Canonical) {d mhz} : (s.setMhz d mhz).Canonical := h.modDie

theorem State.Canonical.setStage (h : s.Canonical) {n} : (s.setStage n).Canonical :=
  (h.foldl fun _ _ h => h.settleBuckets).settleFab.frame

theorem State.Canonical.throttle (h : s.Canonical) {r} : (s.throttle r).Canonical := by
  unfold State.throttle
  split
  · exact h.setStage.throttleEvent
  · exact h.setStage.setMhz.throttleEvent
  · exact h.setMhz.ite (h.setStage.foldl fun _ _ h => h.setMhz).throttleEvent
  · exact h.setStage.frame.throttleEvent
  · exact h

theorem State.Canonical.relax (h : s.Canonical) {t} : (s.relax t).Canonical := by
  unfold State.relax
  split
  · exact h.frame.setStage.frame.throttleEvent
  · exact h.setStage.frame.throttleEvent
  · exact (h.foldl fun _ _ h => h.setMhz).setStage.frame.throttleEvent.ite (h.foldl fun _ _ h => h.setMhz)
  · exact h.setStage.frame.throttleEvent
  · exact h

theorem State.Canonical.dark (h : s.Canonical) : s.dark.Canonical := ⟨rfl, h.host, rfl⟩

theorem State.Canonical.trip (h : s.Canonical) : s.trip.Canonical := by
  dsimp only [State.trip]
  exact h.dark.frame.emit

theorem execPowerComparison_canonical (h : s.Canonical) {r t} : OutCanonical (execPowerComparison r t s) := by
  unfold execPowerComparison
  extract_lets t s1 l
  have h1 : s1.Canonical := h.frame
  refine State.Canonical.ite h1.trip (.ite h1 (.ite (.throttle h1.frame) (.ite h1.frame ?_)))
  split
  · exact h1.frame
  · exact .ite h1.relax h1

theorem State.Canonical.mapSpare (h : s.Canonical) {n k} : (s.mapSpare n k).Canonical := by
  dsimp only [State.mapSpare]
  split <;> exact h.modDie.modCore

theorem State.Canonical.selfTest (h : s.Canonical) {n} : (s.selfTest n).Canonical :=
  h.foldl fun _ _ h => h.mapSpare.ite h

theorem State.Canonical.moduleReset (h : s.Canonical) {n} : (s.moduleReset n).Canonical := by
  have hr : State.Canonical { State.reset with
    free := s.free, now := s.now, hostMem := s.hostMem, outbox := s.outbox
    cores := Tab.mapVals {} s.cores fun k => { dead := k.dead, phys := k.phys }
    dies := s.dies.map fun d => { Die.reset with spares := d.spares } } := ⟨rfl, h.host, rfl⟩
  exact hr.selfTest.frame

theorem State.Canonical.bringupFailed (h : s.Canonical) {k} : (s.bringupFailed k).Canonical := h.dark.frame.emit

theorem State.Canonical.notStarted (h : s.Canonical) : s.notStarted.Canonical := h.dark.frame

theorem execModuleReset_canonical (h : s.Canonical) : OutCanonical (execModuleReset s) := by
  unfold execModuleReset
  split
  · exact h.frame.notStarted.ite h.frame.moduleReset
  · exact h.frame.notStarted.ite h.frame.bringupFailed

theorem execPldmRequest_canonical (h : s.Canonical) {k} : OutCanonical (execPldmRequest k s) := by
  unfold execPldmRequest
  split
  · exact h.emit
  · exact h

/-! Machine/Vector -/

theorem State.Canonical.vec2 (h : s.Canonical) {k d a b mask f} : ResCanonical (s.vec2 k d a b mask f) :=
  .bind fun _ => h.putV

theorem State.Canonical.vfp2 (h : s.Canonical) {t d a b mask f} : ResCanonical (s.vfp2 t d a b mask f) :=
  .bind fun _ => h.putV

theorem State.Canonical.vcmp (h : s.Canonical) {k d a b mask one f} : ResCanonical (s.vcmp k d a b mask one f) :=
  .bind fun _ => h.push

theorem State.Canonical.vspecial (h : s.Canonical) {fn d a mask} : ResCanonical (s.vspecial fn d a mask) :=
  .bind fun _ => h.frame.putV

theorem State.Canonical.vreduce (h : s.Canonical) {op t d a mask} : ResCanonical (s.vreduce op t d a mask) :=
  .bind fun _ => h.putV

theorem execVmov_canonical (h : s.Canonical) {d a mask} : OutCanonical (execVmov d a mask s) := h.slot h.vec2

/-! Machine/Exec -/

theorem exec_canonical (h : s.Canonical) {i t} (e : exec i s = .next t) : t.Canonical := by
  cases i with
  | pand => exact canonical_of_next e (h.acts h.plog)
  | por => exact canonical_of_next e (h.acts h.plog)
  | pxor => exact canonical_of_next e (h.acts h.plog)
  | pandn => exact canonical_of_next e (h.acts h.plog)
  | pnot => exact canonical_of_next e (h.acts h.plog)
  | checkpointBundle => exact canonical_of_next e (.ite h h.closeRegion.endRerun.capture)
  | token => exact canonical_of_next e (execToken_canonical h)
  | snop => exact canonical_of_next e (h.acts h)
  | add => exact canonical_of_next e (h.slot h.intRR)
  | sub => exact canonical_of_next e (h.slot h.intRR)
  | and => exact canonical_of_next e (h.slot h.intRR)
  | or => exact canonical_of_next e (h.slot h.intRR)
  | xor => exact canonical_of_next e (h.slot h.intRR)
  | shl => exact canonical_of_next e (h.slot h.intRR)
  | shr => exact canonical_of_next e (h.slot h.intRR)
  | asr => exact canonical_of_next e (h.slot h.intRR)
  | mul => exact canonical_of_next e (h.slot h.intRR)
  | mulh => exact canonical_of_next e (h.slot h.intRR)
  | mulhN64 => exact canonical_of_next e (h.slot h.intRR)
  | min => exact canonical_of_next e (h.slot h.intRR)
  | max => exact canonical_of_next e (h.slot h.intRR)
  | cmpeq => exact canonical_of_next e (h.slot h.cmpRR)
  | cmpne => exact canonical_of_next e (h.slot h.cmpRR)
  | cmplt => exact canonical_of_next e (h.slot h.cmpRR)
  | cmple => exact canonical_of_next e (h.slot h.cmpRR)
  | cmpltn => exact canonical_of_next e (h.slot h.cmpRR)
  | sel => exact canonical_of_next e (h.slot h.intRR)
  | fadd => exact canonical_of_next e (h.slot h.fpRR)
  | fsub => exact canonical_of_next e (h.slot h.fpRR)
  | fmul => exact canonical_of_next e (h.slot h.fpRR)
  | fma => exact canonical_of_next e (h.slot h.fpRR)
  | fdiv => exact canonical_of_next e (h.slot h.fpRR)
  | fsqrt => exact canonical_of_next e (h.slot h.fpRR)
  | fcmpeq => exact canonical_of_next e (h.slot h.fpCmp)
  | fcmplt => exact canonical_of_next e (h.slot h.fpCmp)
  | fcmple => exact canonical_of_next e (h.slot h.fpCmp)
  | fcvt => exact canonical_of_next e (h.slot (.bind fun _ => h.putS))
  | ld => exact canonical_of_next e (h.slot (.bind fun _ => h.loadS))
  | st => exact canonical_of_next e (h.slot (.bind fun _ => h.storeS))
  | spld => exact canonical_of_next e (h.slot (.bind fun _ => h.spadLoadS))
  | spst => exact canonical_of_next e (h.slot (.bind fun _ => h.spadStoreS))
  | movg => exact canonical_of_next e (h.slot (.bind fun _ => h.push))
  | pkc => exact canonical_of_next e (h.acts h.putS)
  | upc => exact canonical_of_next e (h.slot (.bind fun _ => h.push))
  | addi => exact canonical_of_next e (h.slot h.intRI)
  | andi => exact canonical_of_next e (h.slot h.intRI)
  | ori => exact canonical_of_next e (h.slot h.intRI)
  | shli => exact canonical_of_next e (h.slot h.intRI)
  | shri => exact canonical_of_next e (h.slot h.intRI)
  | asri => exact canonical_of_next e (h.slot h.intRI)
  | movi => exact canonical_of_next e (h.slot h.intRI)
  | movhi => exact canonical_of_next e (h.slot h.intRI)
  | cmpeqi => exact canonical_of_next e (h.slot h.cmpRI)
  | cmplti => exact canonical_of_next e (h.slot h.cmpRI)
  | ldi => exact canonical_of_next e (h.slot (.bind fun _ => h.loadS))
  | sti => exact canonical_of_next e (h.slot (.bind fun _ => h.storeS))
  | spldi => exact canonical_of_next e (h.slot (.bind fun _ => h.spadLoadS))
  | spsti => exact canonical_of_next e (h.slot (.bind fun _ => h.spadStoreS))
  | crd => exact canonical_of_next e (h.acts h.putS)
  | cwr => exact canonical_of_next e (h.slot (.bind fun _ => h.push))
  | pbr => exact canonical_of_next e (h.slot (.bind fun _ => h.push))
  | trn => exact canonical_of_next e (h.slot (.control h.transfer))
  | call => exact canonical_of_next e (h.slot (.control (.bind fun _ => h.push.transfer)))
  | loop => exact canonical_of_next e (h.slot (.control (.bind fun _ => .ite h.modCur.modCur (.bind
      fun _ => h.modCur.modArch.push))))
  | lend => exact canonical_of_next e (execLend_canonical h)
  | vnop => exact canonical_of_next e (h.acts h)
  | vadd => exact canonical_of_next e (h.slot h.vec2)
  | vsub => exact canonical_of_next e (h.slot h.vec2)
  | vadds => exact canonical_of_next e (h.slot h.vec2)
  | vsubs => exact canonical_of_next e (h.slot h.vec2)
  | vmul => exact canonical_of_next e (h.slot h.vec2)
  | vmulh => exact canonical_of_next e (h.slot h.vec2)
  | vmin => exact canonical_of_next e (h.slot h.vec2)
  | vmax => exact canonical_of_next e (h.slot h.vec2)
  | vminn => exact canonical_of_next e (h.slot h.vec2)
  | vmaxn => exact canonical_of_next e (h.slot h.vec2)
  | vand => exact canonical_of_next e (h.slot h.vec2)
  | vor => exact canonical_of_next e (h.slot h.vec2)
  | vxor => exact canonical_of_next e (h.slot h.vec2)
  | vnot => exact canonical_of_next e (h.slot h.vec2)
  | vshl => exact canonical_of_next e (h.slot h.vec2)
  | vshr => exact canonical_of_next e (h.slot h.vec2)
  | vasr => exact canonical_of_next e (h.slot h.vec2)
  | vcmpeq => exact canonical_of_next e (h.slot h.vcmp)
  | vcmplt => exact canonical_of_next e (h.slot h.vcmp)
  | vcmpltn => exact canonical_of_next e (h.slot h.vcmp)
  | vsel => exact canonical_of_next e (h.slot (.bind fun _ => h.putV))
  | vfadd => exact canonical_of_next e (h.slot h.vfp2)
  | vfsub => exact canonical_of_next e (h.slot h.vfp2)
  | vfmul => exact canonical_of_next e (h.slot h.vfp2)
  | vfma => exact canonical_of_next e (h.slot (.bind fun _ => h.putV))
  | vfmin => exact canonical_of_next e (h.slot h.vfp2)
  | vfmax => exact canonical_of_next e (h.slot h.vfp2)
  | vfcmpeq => exact canonical_of_next e (h.slot h.vcmp)
  | vfcmplt => exact canonical_of_next e (h.slot h.vcmp)
  | vfcmple => exact canonical_of_next e (h.slot h.vcmp)
  | vfrcp => exact canonical_of_next e (h.slot h.vspecial)
  | vfrsq => exact canonical_of_next e (h.slot h.vspecial)
  | vfexp2 => exact canonical_of_next e (h.slot h.vspecial)
  | vflog2 => exact canonical_of_next e (h.slot h.vspecial)
  | vftanh => exact canonical_of_next e (h.slot h.vspecial)
  | vfsigm => exact canonical_of_next e (h.slot h.vspecial)
  | vperm => exact canonical_of_next e (h.slot (.bind fun _ => h.putV))
  | vshuf => exact canonical_of_next e (h.slot (.bind fun _ => h.putV))
  | vrot => exact canonical_of_next e (h.slot (.bind fun _ => h.putV))
  | vbcast => exact canonical_of_next e (h.slot (.bind fun _ => h.putV))
  | vrdsum => exact canonical_of_next e (h.slot h.vreduce)
  | vrdmax => exact canonical_of_next e (h.slot h.vreduce)
  | vrdmin => exact canonical_of_next e (h.slot h.vreduce)
  | vscan => exact canonical_of_next e (h.slot (.bind fun _ => h.putV))
  | vcvt => exact canonical_of_next e (.ite h (h.slot (.bind fun _ => (h.popWord.ite h).putV)))
  | vqnt => exact canonical_of_next e (.ite h (h.slot (.bind fun _ => .bind fun _ => h.popWord.push)))
  | vdq => exact canonical_of_next e (h.slot (.bind fun _ => .bind fun _ => h.putV))
  | vspld => exact canonical_of_next e (h.slot (.bind fun _ => .bind fun _ => h.frame.putV))
  | vspst => exact canonical_of_next e (h.slot (.bind fun _ => h.spadWrite))
  | vld => exact canonical_of_next e (h.slot (.bind fun _ => .bind fun _ => h.issueLoad))
  | vst => exact canonical_of_next e (h.slot (.bind fun _ => h.holdStore))
  | vins => exact canonical_of_next e (h.slot (.bind fun _ => .bind fun _ => h.putV))
  | vext => exact canonical_of_next e (h.slot (.bind fun _ => h.putQuiet))
  | vany => exact canonical_of_next e (h.acts h.putFlag)
  | vall => exact canonical_of_next e (h.acts h.putFlag)
  | vmov => exact canonical_of_next e (execVmov_canonical h)
  | vmovExpand => exact canonical_of_next e (h.acts h.putV)
  | vmovPack => exact canonical_of_next e (h.slot (.bind fun _ => h.push))
  | viota => exact canonical_of_next e (h.acts h.putV)
  | mnop => exact canonical_of_next e (h.acts h)
  | macc => exact canonical_of_next e (h.slot (h.readSides.bind_of fun _ h => h.launchBeat))
  | mset => exact canonical_of_next e (h.slot (h.readSides.bind_of fun _ h => h.launchBeat))
  | mpush => exact canonical_of_next e (h.slot h.readSides)
  | mshift => exact canonical_of_next e (h.slot (h.readPiece.bind_of fun _ h => h.fillB.launchBeat))
  | mdrain => exact canonical_of_next e (execMdrain_canonical h)
  | mzero => exact canonical_of_next e (h.acts h.launchM)
  | mload => exact canonical_of_next e (execMload_canonical h)
  | mswap => exact canonical_of_next e (h.acts h.modArch)
  | mdrainq => exact canonical_of_next e (execMdrainq_canonical h)
  | cnop => exact canonical_of_next e (h.acts h)
  | cpy => exact canonical_of_next e (h.issueCmd)
  | cpyt => exact canonical_of_next e (h.issueCmd)
  | cmcast => exact canonical_of_next e (execCmcast_canonical h)
  | cgath => exact canonical_of_next e (execCgath_canonical h)
  | cfill => exact canonical_of_next e (h.issueCmd)
  | cpref => exact canonical_of_next e (h.issueCmd)
  | put => exact canonical_of_next e (execPut_canonical h)
  | get => exact canonical_of_next e (execGet_canonical h)
  | radd => exact canonical_of_next e (execRadd_canonical h)
  | ynop => exact canonical_of_next e (h.acts h)
  | fwait => exact canonical_of_next e (h.flagWait fun _ h => h)
  | fwaitAcq => exact canonical_of_next e (execFwaitAcq_canonical h)
  | fpost => exact canonical_of_next e (execFpost_canonical h)
  | fpostRel => exact canonical_of_next e (execFpostRel_canonical h)
  | fclr => exact canonical_of_next e (h.acts h.modArch)
  | finc => exact canonical_of_next e (h.acts h.addFlag)
  | fbar => exact canonical_of_next e (.ite (h.slot trivial) (.ite h (h.barOpen.flagWait fun _ h => h)))
  | xnop => exact canonical_of_next e (h.acts h)
  | lea => exact canonical_of_next e (h.slot (.bind fun _ => .bind fun _ => h.putAddr))
  | leai => exact canonical_of_next e (h.slot (.bind fun _ => h.putAddr))
  | agen => exact canonical_of_next e (h.slot h.putAddr)
  | rbpop => exact canonical_of_next e (.ite h (h.slot h.popWord.putQuiet))
  | esld => exact canonical_of_next e (h.slot (.bind fun _ => .bind fun _ => h.frame.push))
  | nld => exact canonical_of_next e (h.slot (.bind fun _ => .bind fun _ => h.issueLoad))
  | nst => exact canonical_of_next e (h.slot (.bind fun _ => .bind fun _ => h.holdStore))
  | aadd => exact canonical_of_next e (h.atomic)
  | amin => exact canonical_of_next e (h.atomic)
  | amax => exact canonical_of_next e (h.atomic)
  | aminn => exact canonical_of_next e (h.atomic)
  | amaxn => exact canonical_of_next e (h.atomic)
  | aand => exact canonical_of_next e (h.atomic)
  | aor => exact canonical_of_next e (h.atomic)
  | axor => exact canonical_of_next e (h.atomic)
  | axchg => exact canonical_of_next e (h.atomic)
  | acas => exact canonical_of_next e (h.atomic)
  | afadd => exact canonical_of_next e (h.atomic)
  | aaddU => exact canonical_of_next e (h.update)
  | aminU => exact canonical_of_next e (h.update)
  | amaxU => exact canonical_of_next e (h.update)
  | aminnU => exact canonical_of_next e (h.update)
  | amaxnU => exact canonical_of_next e (h.update)
  | aandU => exact canonical_of_next e (h.update)
  | aorU => exact canonical_of_next e (h.update)
  | axorU => exact canonical_of_next e (h.update)
  | afaddU => exact canonical_of_next e (h.update)
  | oadd => exact canonical_of_next e (h.orderedAtomic)
  | ofadd => exact canonical_of_next e (h.orderedAtomic)
  | oopen => exact canonical_of_next e (h.slotRequest (.bind fun _ => .bind fun _ => .bind fun _ => h.request))
  | oclose => exact canonical_of_next e (h.slotRequest (.bind fun _ => .bind fun _ => .bind fun _ => h.request))
  | spawn => exact canonical_of_next e (execSpawn_canonical h)
  | join => exact canonical_of_next e (h.slot (.control (.bind fun _ => h.beginEnding)))
  | exit => exact canonical_of_next e (h.slot (.control (.ite h.returnInline h.beginEnding)))
  | tkt => exact canonical_of_next e (h.slotRequest (.bind fun _ => .bind fun _ => .bind fun _ => h.request))
  | qpush => exact canonical_of_next e (h.slot h.push64)
  | qpushT => exact canonical_of_next e (h.slot (.bind fun _ => h.push64))
  | mwait => exact canonical_of_next e (h.mwait)
  | mwaitNe => exact canonical_of_next e (h.mwait)
  | invl => exact canonical_of_next e (h.slot h.invl)
  | invlAll => exact canonical_of_next e (h.slot h.invl)
  | probe => exact canonical_of_next e (execProbe_canonical h)
  | trap => exact canonical_of_next e (.ite h (.ite (h.slot trivial) h.advance.takeFault))
  | eret => exact canonical_of_next e (h.slot (.control (.bind fun _ => .bind
      fun _ => h.finishArray.modArch.modCtx.modCur)))
  | dld => exact canonical_of_next e (execDld_canonical h)
  | resultLanding => exact canonical_of_next e (h.modArch)
  | interlockedLoadData => exact canonical_of_next e (execInterlockedLoadData_canonical h)
  | arrayPoint => exact canonical_of_next e (h.modArch)
  | drainWrite => exact canonical_of_next e (h.drainWrites)
  | mergeDecision => exact execMergeDecision_canonical h e
  | forcedYield => exact canonical_of_next e (execForcedYield_canonical h)
  | rbqFill => exact canonical_of_next e (h.modArch.ite (h.modArch.ite h))
  | copyCompletion => exact canonical_of_next e (execCopyCompletion_canonical h)
  | copyStop => exact canonical_of_next e (execCopyStop_canonical h)
  | flagPostArrival => exact canonical_of_next e (execFlagPostArrival_canonical h)
  | preemptionRequest => exact canonical_of_next e (h.preemptTask.ite (h.ite h.requestPreempt))
  | saveComplete => exact canonical_of_next e (h.completeSave)
  | parkedWindowWrite => exact canonical_of_next e (h.writeParked)
  | resumption => exact canonical_of_next e (execResumption_canonical h)
  | timeSliceExpiry => exact canonical_of_next e ((h.requestPreempt.ite h).ite (h.requestPreempt.ite h).modCtx)
  | dataError => exact canonical_of_next e (execDataError_canonical h)
  | rerunVerdict => exact canonical_of_next e (execRerunVerdict_canonical h)
  | coreRetirement => exact canonical_of_next e (execCoreRetirement_canonical h)
  | reserve => exact canonical_of_next e (execReserve_canonical h)
  | commit => exact canonical_of_next e (execCommit_canonical h)
  | lost => exact canonical_of_next e (h.failReservation)
  | release => exact canonical_of_next e (h.modCore)
  | reservationRetry => exact canonical_of_next e (execReservationRetry_canonical h)
  | steal => exact canonical_of_next e ((h.stealCore.getD h).ite h)
  | stealRound => exact canonical_of_next e (execStealRound_canonical h)
  | task => exact canonical_of_next e (execTask_canonical h)
  | launchConditionMet => exact canonical_of_next e (execLaunchConditionMet_canonical h)
  | walk => exact canonical_of_next e (execWalk_canonical h)
  | wait => exact canonical_of_next e (execWait_canonical h)
  | signal => exact canonical_of_next e (execSignal_canonical h)
  | bind => exact canonical_of_next e (execBind_canonical h)
  | lease => exact canonical_of_next e (execLease_canonical h)
  | summary => exact canonical_of_next e (execSummary_canonical h)
  | emptyRecord => exact canonical_of_next e (execEmptyRecord_canonical h)
  | leaseGrant => exact canonical_of_next e (execLeaseGrant_canonical h)
  | pagereq => exact canonical_of_next e (execPagereq_canonical h)
  | migration => exact canonical_of_next e (execMigration_canonical h)
  | migfail => exact canonical_of_next e (h.ite (h.endMigration.post.ite h))
  | orderedAtomicArrival => exact canonical_of_next e (execOrderedAtomicArrival_canonical h)
  | orderedRetry => exact canonical_of_next e (execOrderedRetry_canonical h)
  | hbmRequestAdmit => exact canonical_of_next e (h.hbmAdmit)
  | activation => exact canonical_of_next e (h.hbmServe)
  | backoffEnd => exact canonical_of_next e (h.frame.modHbm)
  | periodicRefresh => exact canonical_of_next e (h.modHbm)
  | rowIdleClose => exact canonical_of_next e (h.frame.modHbm)
  | putPacket => exact canonical_of_next e (execPutPacket_canonical h)
  | getreq => exact canonical_of_next e (execGetreq_canonical h)
  | getdata => exact canonical_of_next e (execGetdata_canonical h)
  | raddPacket => exact canonical_of_next e (execRaddPacket_canonical h)
  | done => exact canonical_of_next e (execDone_canonical h)
  | nack => exact canonical_of_next e (execNack_canonical h)
  | fragmentTimeout => exact canonical_of_next e (h.stopFrag)
  | pkt => exact canonical_of_next e (h.hear fun _ h => h.pktFlit)
  | ack => exact canonical_of_next e (h.hear fun _ h => h.ackFlit)
  | nak => exact canonical_of_next e (h.hear fun _ h => h.nakFlit)
  | lmreq => exact canonical_of_next e (h.hear fun _ h => h.lmreqFlit)
  | lmap => exact canonical_of_next e (h.hear fun _ h => h.lmapFlit)
  | resync => exact canonical_of_next e (h.hear fun _ h => h.resyncFlit)
  | idle => exact canonical_of_next e (h.hear fun _ h => h)
  | laneFail => exact canonical_of_next e (h.dropLane.ite h)
  | ackTimer => exact canonical_of_next e (h.sendAck.ite h)
  | nakResend => exact canonical_of_next e (h.sendNak.ite h)
  | replayTimeout => exact canonical_of_next e (h.resend.ite h)
  | resyncSend => exact canonical_of_next e (h.resyncNow)
  | resyncMissing => exact canonical_of_next e (h.resyncMissing)
  | retrain => exact canonical_of_next e (h.enterRetrain)
  | retrainDone => exact canonical_of_next e (.ite h (.ite (h.modPort.modPort.portDown.ite h.modPort)
      h.frame.modPort.sendLmap.replayAll.pumpAll))
  | linkTrained => exact canonical_of_next e (.ite h (.ite h.modPort h.frame.modPort.pumpAll))
  | escapeTreeInstall => exact canonical_of_next e (h.installTree)
  | sparePortAssign => exact canonical_of_next e (.ite h (h.portDown.ite h).modPort.frame)
  | rekey => exact canonical_of_next e (h.ite h.modPort)
  | regionCreate => exact canonical_of_next e (execRegionCreate_canonical h)
  | regionUpdate => exact canonical_of_next e (execRegionUpdate_canonical h)
  | regionDestroy => exact canonical_of_next e (execRegionDestroy_canonical h)
  | queueCreate => exact canonical_of_next e (execQueueCreate_canonical h)
  | queueDestroy => exact canonical_of_next e (execQueueDestroy_canonical h)
  | asCreate => exact canonical_of_next e (execAsCreate_canonical h)
  | windowCreate => exact canonical_of_next e (execWindowCreate_canonical h)
  | windowDestroy => exact canonical_of_next e (execWindowDestroy_canonical h)
  | mapDevice => exact canonical_of_next e (execMapDevice_canonical h)
  | setRowthr => exact canonical_of_next e (execSetRowthr_canonical h)
  | linkProtect => exact canonical_of_next e (execLinkProtect_canonical h)
  | vfBind => exact canonical_of_next e (execVfBind_canonical h)
  | peerWindow => exact canonical_of_next e (execPeerWindow_canonical h)
  | graft => exact canonical_of_next e (execGraft_canonical h)
  | setPowercap => exact canonical_of_next e (execSetPowercap_canonical h)
  | mboxWrite => exact canonical_of_next e (h.ite h.modFunc.takeMbox)
  | replyheadWrite => exact canonical_of_next e (h.ite h.modFunc.sendHeld.takeMbox)
  | wakerejRead => exact canonical_of_next e (h.emit.modFunc.ite h.emit)
  | qarejRead => exact canonical_of_next e (h.emit.modFunc.ite h.emit)
  | registerWrite => exact canonical_of_next e (execRegisterWrite_canonical h)
  | wakeWrite => exact canonical_of_next e (h.ite h.stageWake)
  | deviceWakeStore => exact canonical_of_next e (h.wakeStore)
  | queueApertureWrite => exact canonical_of_next e (h.ite (h.modFunc.ite h.aperturePush))
  | bar2Access => exact canonical_of_next e (execBar2Access_canonical h)
  | peerReadTimeout => exact canonical_of_next e (execPeerReadTimeout_canonical h)
  | graftVerified => exact canonical_of_next e (execGraftVerified_canonical h)
  | handover => exact canonical_of_next e (h.ite h.modNal.writeHome)
  | commitRegisterWrite => exact canonical_of_next e (h.ite h.modNal.extend)
  | refuse => exact canonical_of_next e (h.revert)
  | heartbeat => exact canonical_of_next e (h.frame.modNal)
  | heartbeatMissed => exact canonical_of_next e (h.frame.watch)
  | trialExpiry => exact canonical_of_next e (h.frame.ite h)
  | getVersion => exact canonical_of_next e (execGetVersion_canonical h)
  | getCapabilities => exact canonical_of_next e (h.spdmAnswer fun _ h => h.modSpdm.emit)
  | negotiateAlgorithms => exact canonical_of_next e (h.spdmAnswer fun _ h => h.modSpdm.emit)
  | getDigests => exact canonical_of_next e (h.spdmAnswer fun _ h => h.emit)
  | getCertificate => exact canonical_of_next e (h.spdmAnswer fun _ h => (h.emit.ite h.spdmError))
  | challenge => exact canonical_of_next e (execChallenge_canonical h)
  | getMeasurements => exact canonical_of_next e (execGetMeasurements_canonical h)
  | keyExchange => exact canonical_of_next e (h.spdmAnswer fun _ h => h.modSpdm.emit)
  | finish => exact canonical_of_next e (h.spdmAnswer fun _ h => (h.modSpdm.emit.ite h.modSpdm.spdmError))
  | keyUpdate => exact canonical_of_next e (h.spdmAnswer fun _ h => h.modSpdm.emit)
  | endSession => exact canonical_of_next e (h.spdmAnswer fun _ h => h.modSpdm.emit)
  | powerComparison => exact canonical_of_next e (execPowerComparison_canonical h)
  | thermalTrip => exact canonical_of_next e (h.trip)
  | moduleReset => exact canonical_of_next e (execModuleReset_canonical h)
  | sensorRefresh => exact canonical_of_next e (h.frame)
  | hbmLineUncorrectable => exact canonical_of_next e (.ite trivial (h.ite h.frame))
  | escapeWaitTimeout => exact canonical_of_next e (execEscapeWaitTimeout_canonical h)
  | overflowQueueDispatch => exact canonical_of_next e ((h.takeOverflow.getD h).ite h)
  | pldmRequest => exact canonical_of_next e (execPldmRequest_canonical h)
  | inputPowerLoss => exact canonical_of_next e (h.dark.frame)

/-! Machine/Issue -/

theorem State.Canonical.trial (h : s.Canonical) {c} : (s.trial c).1.Canonical := by
  dsimp only [State.trial]
  split
  · split <;> exact h.prepare
  · exact h.prepare

theorem State.Canonical.suppress (h : s.Canonical) {c f} : (s.suppress c f).Canonical :=
  h.openCycle.modArch.modCtx.takeFault

theorem State.Canonical.runAll (h : s.Canonical) {l} : OutCanonical (s.runAll l) := by
  induction l generalizing s with
  | nil => exact h
  | cons p l ih => exact .andThen (.of_next (exec_canonical h.atSlot)) fun _ h => ih h

theorem State.Canonical.runSlots (h : s.Canonical) : OutCanonical s.runSlots :=
  .ite h.runAll (.ite h.runAll (h.runAll.andThen fun _ h => (OutCanonical.of_next
    (exec_canonical h.atSlot)).andThen fun _ h => h.runAll))

theorem State.Canonical.countIssue (h : s.Canonical) {c bundle} : (s.countIssue c bundle).Canonical :=
  h.modCtx.modCtx.modRegion.ite h.modCtx

theorem State.Canonical.broadcast (h : s.Canonical) {c pc others} : (s.broadcast c pc others).Canonical :=
  h.foldl fun _ _ h => h.ite h.modCtx

theorem State.Canonical.runBundle (h : s.Canonical) {c} : OutCanonical (s.runBundle c) :=
  h.prepare.openCycle.countIssue.runSlots.andThen fun _ h => .modCtx (.ite h.broadcast h.broadcast.advance)

theorem State.Canonical.trials (h : s.Canonical) {l} : (s.trials l).1.Canonical := by
  induction l generalizing s with
  | nil => exact h
  | cons c l ih => exact ih h.trial

theorem State.Canonical.runMembers (h : s.Canonical) {l} : OutCanonical (s.runMembers l) := by
  induction l generalizing s with
  | nil => exact h
  | cons c l ih => exact h.runBundle.andThen fun _ h => ih h

theorem State.Canonical.nextStep (h : s.Canonical) {l} : (s.nextStep l).Canonical :=
  h.foldl fun _ _ h => h.modCtx.ite h

theorem State.Canonical.stepTrials (h : s.Canonical) {c} : (s.stepTrials c).1.Canonical := h.trials

theorem State.Canonical.issue (h : s.Canonical) {c} : OutCanonical (s.issue c) := by
  dsimp only [State.issue]
  refine .ite h.stepTrials ?_
  split
  · exact h.stepTrials.suppress
  · exact .ite (h.stepTrials.foldl fun _ _ h => h.openCycle.countIssue) (h.stepTrials.runMembers.andThen
      fun _ h => h.nextStep)

/-! Machine/Schedule -/

theorem State.Canonical.after (h : s.Canonical) {o} (ho : OutCanonical o) : (s.after o).Canonical := by
  cases o with
  | next t => exact ho
  | fault => exact h
  | refused => exact h

theorem State.Canonical.packetArrives (h : s.Canonical) {p} : (s.packetArrives p).Canonical := by
  unfold State.packetArrives
  split
  · exact h.after (execPutPacket_canonical h)
  · exact h.after (execGetreq_canonical h)
  · exact h.after (execGetdata_canonical h)
  · exact h.after (execRaddPacket_canonical h)
  · exact h.after (execDone_canonical h)
  · exact h.after (execNack_canonical h)

theorem State.Canonical.messageServed (h : s.Canonical) {q} : (s.messageServed q).Canonical := by
  unfold State.messageServed
  split
  · exact h.after (execRegionCreate_canonical h)
  · exact h.after (execRegionUpdate_canonical h)
  · exact h.after (execRegionDestroy_canonical h)
  · exact h.after (execQueueCreate_canonical h)
  · exact h.after (execQueueDestroy_canonical h)
  · exact h.after (execAsCreate_canonical h)
  · exact h.after (execWindowCreate_canonical h)
  · exact h.after (execWindowDestroy_canonical h)
  · exact h.after (execMapDevice_canonical h)
  · exact h.after (execSetRowthr_canonical h)
  · exact h.after (execLinkProtect_canonical h)
  · exact h.after (execVfBind_canonical h)
  · exact h.after (execPeerWindow_canonical h)
  · exact h.after (execGraft_canonical h)
  · exact h.after (execSetPowercap_canonical h)

theorem State.Canonical.letterServed (h : s.Canonical) {m} : (s.letterServed m).Canonical := by
  unfold State.letterServed
  split
  · exact h.messageServed
  · split
    · exact h.after (execLeaseGrant_canonical h)
    · exact h
  · exact h
  · exact h.modNal
  · exact h.after (execCoreRetirement_canonical h)

theorem State.Canonical.admitAll (h : s.Canonical) {stack t n} : (s.admitAll stack t n).Canonical := by
  induction n generalizing s with
  | zero => exact h
  | succ n ih =>
    dsimp only [State.admitAll]
    split
    · exact ih h.hbmAdmit
    · exact h

theorem State.Canonical.serveAll (h : s.Canonical) {stack t n} : (s.serveAll stack t n).Canonical := by
  induction n generalizing s with
  | zero => exact h
  | succ n ih =>
    dsimp only [State.serveAll]
    split
    · exact ih h.hbmServe
    · exact h

theorem State.Canonical.controllerTurn (h : s.Canonical) {stack t} : (s.controllerTurn stack t).Canonical :=
  h.admitAll.serveAll

theorem State.Canonical.memoryTurn (h : s.Canonical) : s.memoryTurn.Canonical :=
  (h.frame.foldl fun _ _ h => h.controllerTurn).ite h

theorem State.Canonical.hubTurn (h : s.Canonical) : s.hubTurn.Canonical :=
  ((h.frame.foldl fun _ _ h => h.packetArrives).foldl fun _ _ h =>
    h.letterServed).sendAllHeld.takeMboxes.retryAperture.unsealWakes.linkTurn.memoryTurn.replacements

theorem State.Canonical.schedule (h : s.Canonical) : s.schedule.Canonical := by
  unfold State.schedule
  extract_lets s1
  have h1 : s1.Canonical := .ite h.hubTurn h
  split
  · exact h1.frame
  · exact h1.frame

/-! Machine/Step -/

theorem step_canonical (h : s.Canonical) : OutCanonical (step s) := by
  unfold step
  split
  · exact .of_next (exec_canonical h.frame)
  · split
    · exact State.Canonical.issue h.frame
    · exact h.schedule

end

end Sys2Proof.Machine

namespace Sys2Proof

open Sys2Proof.Machine

/-- Settles O41: it holds of every event, of every grant and of what the machine does of itself. -/
theorem stepsKeepTheCanonicalForm : Obligations.StepsKeepTheCanonicalForm :=
  fun _ _ h e => canonical_of_next e (step_canonical h)

end Sys2Proof
end

section
/-! PROOF. Home bytes, O42: what a byte written at its home reads as, and what a run of bytes does to each. -/

namespace Sys2Proof.Machine

section
variable {s : State}

/-- A write erases the UNDER of its own byte, or none. -/
theorem under_setHomeByte (pa : Nat) (b : Byte) : (s.setHomeByte pa b).under = s.under ∨
    4 ≤ pa ∧ (s.setHomeByte pa b).under = s.under.erase (pa - 4) := by
  unfold State.setHomeByte
  split
  · by_cases h : (s.holdsUnder pa && b.getLsbD 2) = true
    · have h4 : 4 ≤ pa := by
        simp only [State.holdsUnder, Bool.and_eq_true, decide_eq_true_eq] at h
        exact h.1.1
      exact .inr ⟨h4, if_pos h⟩
    · exact .inl (if_neg h)
  · exact .inl rfl
  · exact .inl rfl

theorem holdsUnder_setHomeByte_other {pa a : Nat} (ha : a ≠ pa) (b : Byte) :
    (s.setHomeByte pa b).holdsUnder a = s.holdsUnder a := by
  rcases under_setHomeByte (s := s) pa b with h | ⟨h4, h⟩ <;> simp only [State.holdsUnder, h]
  by_cases ha4 : 4 ≤ a
  · have hne : a - 4 ≠ pa - 4 := by omega
    simp [List.contains_eq_mem, List.mem_erase_of_ne hne]
  · simp [ha4]

theorem homeByte_setHomeByte_hbm (h : s.MemWf) {pa : Nat} (hp : paKind pa = .hbm) (b : Byte) :
    (s.setHomeByte pa b).homeByte pa = if s.holdsUnder pa then b ^^^ 4 else b := by
  simp only [State.setHomeByte, State.homeByte, hp]
  exact Tab.get_set_same h.1

theorem homeByte_setHomeByte_host (h : s.MemWf) {pa : Nat} (hp : paKind pa = .host) (b : Byte) :
    (s.setHomeByte pa b).homeByte pa = b := by
  simp only [State.setHomeByte, State.homeByte, hp]
  rw [Tab.get_set_same h.2]
  rfl

theorem setHomeByte_homeless {pa : Nat} (hp : paKind pa = .device ∨ paKind pa = .unmapped) (b : Byte) :
    s.setHomeByte pa b = s := by
  rcases hp with hp | hp <;> simp only [State.setHomeByte, hp]

/-- The first byte of a run reads as it was written: the bytes after it lie elsewhere. -/
theorem homeByte_homeWrite_first (h : s.MemWf) (pa : Nat) (b : Byte) (l : List Byte) :
    (s.homeWrite pa (b :: l)).homeByte pa = (s.setHomeByte pa b).homeByte pa :=
  homeWrite_other l (setHomeByte_memWf h pa b) (Or.inl (Nat.lt_succ_self pa))

theorem homeByte_homeWrite_hbm (l : List Byte) : ∀ {s : State} {pa : Nat}, s.MemWf → ∀ i, i < l.length →
    paKind (pa + i) = .hbm →
    (s.homeWrite pa l).homeByte (pa + i) = if s.holdsUnder (pa + i) then l.getD i 0 ^^^ 4 else l.getD i 0 := by
  induction l with
  | nil => exact fun _ i hi => absurd hi (Nat.not_lt_zero i)
  | cons b l ih =>
    intro s pa h i hi hp
    cases i with
    | zero => exact (homeByte_homeWrite_first h pa b l).trans (homeByte_setHomeByte_hbm h hp b)
    | succ i =>
      rw [show pa + (i + 1) = pa + 1 + i by omega] at hp ⊢
      have hu := holdsUnder_setHomeByte_other (s := s) (show pa + 1 + i ≠ pa by omega) b
      rw [State.homeWrite, ih (setHomeByte_memWf h pa b) i (Nat.lt_of_succ_lt_succ hi) hp, hu]
      rfl

theorem homeByte_homeWrite_host (l : List Byte) : ∀ {s : State} {pa : Nat}, s.MemWf → ∀ i, i < l.length →
    paKind (pa + i) = .host → (s.homeWrite pa l).homeByte (pa + i) = l.getD i 0 := by
  induction l with
  | nil => exact fun _ i hi => absurd hi (Nat.not_lt_zero i)
  | cons b l ih =>
    intro s pa h i hi hp
    cases i with
    | zero => exact (homeByte_homeWrite_first h pa b l).trans (homeByte_setHomeByte_host h hp b)
    | succ i =>
      rw [show pa + (i + 1) = pa + 1 + i by omega] at hp ⊢
      exact ih (setHomeByte_memWf h pa b) i (Nat.lt_of_succ_lt_succ hi) hp

theorem homeWrite_homeless (l : List Byte) : ∀ {s : State} {pa : Nat},
    (∀ i, i < l.length → paKind (pa + i) = .device ∨ paKind (pa + i) = .unmapped) → s.homeWrite pa l = s := by
  induction l with
  | nil => exact fun _ => rfl
  | cons b l ih =>
    intro s pa hp
    rw [State.homeWrite, setHomeByte_homeless (pa := pa) (hp 0 (Nat.succ_pos _))]
    refine ih fun i hi => ?_
    rw [show pa + 1 + i = pa + (i + 1) by omega]
    exact hp (i + 1) (Nat.succ_lt_succ hi)

end

end Sys2Proof.Machine

namespace Sys2Proof

open Sys2Proof.Machine

/-- Settles O42, byte by byte along the run that is written. -/
theorem homeBytesReadBack : Obligations.HomeBytesReadBack := fun _ pa l h =>
  have hw := And.intro h.mem h.host
  ⟨homeByte_homeWrite_hbm l hw, homeByte_homeWrite_host l hw, fun _ ha => homeWrite_other l hw ha,
    homeWrite_canonical h pa l, homeWrite_homeless l⟩

end Sys2Proof
end

section
/-! PROOF. Results in flight, O45: one result's issue cycle, due or not, and what a CWR to LOOPST leaves of the loops. -/

namespace Sys2Proof.Machine

section
variable {a : Arch} {l : Land}

theorem exec_resultLanding (s : State) (c : Nat) : exec (.resultLanding c) s =
    .next { s with ctxs := Tab.set {} s.ctxs c { s.ctx c with a := (s.ctx c).a.landResults } } := rfl

theorem landResults_early (hf : a.flight = [l]) (hl : 2 ≤ l.left) :
    a.landResults = { a.raise 0 with flight := [{ l with left := l.left - 1 }] } := by
  have hne : l.left - 1 ≠ 0 := by omega
  simp [Arch.landResults, hf, hne, Arch.raise]

theorem landResults_due (hf : a.flight = [l]) (hl : l.left = 1) :
    a.landResults = (({ a with flight := [] } : Arch).landOne l).raise l.status := by
  obtain ⟨left, wr, latch, status⟩ := l
  subst hl
  simp [Arch.landResults, hf, Arch.landOne]

/-- A CWR to LOOPST keeps the outer levels, as many as it names of those that are open. -/
theorem writeCr_loopst (a : Arch) (w : Word) : ∃ l, a.writeCr 7 w = { a with loops := l } ∧ l <:+ a.loops ∧
    l.length = Nat.min (w &&& 0x7).toNat a.loops.length := by
  refine ⟨_, rfl, List.drop_suffix _ _, ?_⟩
  rw [List.length_drop, Nat.sub_sub_eq_min, Nat.min_comm]

theorem writeCr_index (a : Arch) (w : Word) {j : Nat} (hj : j < 6) :
    a.writeCr (0x10 + j) w = { a with i := Tab.set 0 a.i j (w.setWidth 32) } := by
  interval_cases j <;> rfl

theorem writeCr_fixed (a : Arch) {n : Nat} (w : Word)
    (hn : n ∉ [1, 2, 3, 4, 5, 7, 0x10, 0x11, 0x12, 0x13, 0x14, 0x15]) : a.writeCr n w = a := by
  unfold Arch.writeCr
  split <;> simp_all

end

end Sys2Proof.Machine

namespace Sys2Proof

open Sys2Proof.Machine

/-- Settles O45: what lands is what the writes of a result say, and those of control registers stand in `writeCr`. -/
theorem resultsLand : Obligations.ResultsLand := by
  refine ⟨fun s c l hf => ⟨fun hl => ?_, fun hl => ?_⟩, fun _ _ => rfl, fun _ _ _ _ _ _ => rfl, fun a _ n _ w => ?_⟩
  · exact (exec_resultLanding s c).trans (by rw [landResults_early hf hl])
  · exact (exec_resultLanding s c).trans (by rw [landResults_due hf hl])
  · exact ⟨rfl, fun _ => rfl, rfl, fun _ => rfl, rfl, fun _ => rfl, fun _ _ => rfl, fun _ _ => rfl, fun _ _ => rfl,
      rfl, rfl, rfl, rfl, rfl, writeCr_loopst a w, fun _ hj => writeCr_index a w hj, writeCr_fixed a w⟩

end Sys2Proof
end

section
/-! PROOF. The host link, O58: a state whose table of functions is not in canonical form. -/

namespace Sys2Proof.Machine

/-- Function 0 stands twice in the table of functions: first with a REPLYHEAD alone, then with a held reply. -/
def listedTwice : State :=
  { State.reset with funcs := [(0, { replyhead := 5 }), (0, { heldReplies := [1] })] }

/-- A REPLYHEAD of 0 takes the first entry out of the table, so that the held reply of the second is sent. -/
theorem listedTwice_sends : ∃ t, exec (.replyheadWrite 0 0) listedTwice = .next t ∧ t.outbox.length = 1 :=
  ⟨_, rfl, by decide⟩

end Sys2Proof.Machine

namespace Sys2Proof

open Sys2Proof.Machine

/-- Refutes O58, on a state that no run reaches: a write of REPLYHEAD of a function that answers sends as many held replies
as the function holds once its REPLYHEAD is written. The clause counts those that it held before, which are as many where
the table of functions is in canonical form; the clause, unlike the one before it, does not ask for that. In `listedTwice`
the write of 0 leaves nothing but defaults in the entry, which goes, and uncovers an entry with a held reply. -/
theorem not_hostAccesses : ¬ Obligations.HostAccesses := by
  rintro ⟨-, -, hreplyhead, -⟩
  obtain ⟨-, -, hw⟩ := hreplyhead listedTwice 0 0
  obtain ⟨t, ht, hlen⟩ := listedTwice_sends
  obtain rfl := Host.Outcome.next.inj (ht.symm.trans (hw (by decide)))
  exact absurd hlen (by decide)

end Sys2Proof
end

section
/-! PROOF. Nullified slots, O8: what an instruction of a slot does when the predicate map nullifies it. -/

namespace Sys2Proof.Machine

section
variable {s : State} {i : Instr}

/-! An instruction that takes no random word, by the shapes of the meanings. -/

theorem slot_nullified_same {r : Res State} (hw : popsWord i = false) (h : s.nullified s.cur.slot i = true) :
    s.slot i r = .next s := by simp [slot_nullified h, hw]

theorem slotRequest_nullified_same {r : Res (Option State)} (hw : popsWord i = false)
    (h : s.nullified s.cur.slot i = true) : s.slotRequest i r = .next s := by
  match r with
  | .ok none => rfl
  | .ok (some t) => exact slot_nullified_same (r := .ok t) hw h
  | .error f => exact slot_nullified_same (r := .error f) hw h

theorem issueCmd_nullified_same {op : Nat} {o : COps} {check : Cmd → Res Unit} (hw : popsWord i = false)
    (h : s.nullified s.cur.slot i = true) : s.issueCmd i op o check = .next s := by
  unfold State.issueCmd
  rw [if_neg (by simp [h])]
  exact slot_nullified_same hw h

theorem mwait_nullified_same {d : Dst} {a b : Src} {met : Word → Word → Bool} (hw : popsWord i = false)
    (h : s.nullified s.cur.slot i = true) : s.mwait i d a b met = .next s := by
  unfold State.mwait
  split
  · exact slot_nullified_same hw h
  · exact if_pos h
  · exact if_pos h

theorem flagWait_nullified_same {f n : Nat} {done : State → State} (h : s.nullified s.cur.slot i = true) :
    s.flagWait i f n done = .next s := if_pos h

theorem execFbar_nullified_same {f : BitVec 4} {n : BitVec 8} (h : s.nullified s.cur.slot (.fbar f n) = true) :
    execFbar f n s = .next s := by
  unfold execFbar
  by_cases hk : s.cur.ckpt = true
  · simp [hk, h]
  · simp [hk, slot_nullified_same rfl h]

theorem execTrap_nullified_same {imm : BitVec 13} (h : s.nullified s.cur.slot (.trap imm) = true) :
    execTrap imm s = .next s := if_pos h

/-- An event has no place in a bundle; each instruction that has one answers by one of the shapes above. -/
theorem exec_nullified_same (hne : (encode i).1 ≠ .event) (hnt : (encode i).1 ≠ .token) (hnk : (encode i).1 ≠ .ckpt)
    (hw : popsWord i = false) (h : s.nullified s.cur.slot i = true) : exec i s = .next s := by
  cases i with
  | checkpointBundle => exact absurd rfl hnk
  | token => exact absurd rfl hnt
  | cpy | cpyt | cmcast | cgath | cfill | cpref | put | get | radd =>
    unfold exec
    exact issueCmd_nullified_same hw h
  | fwait | fwaitAcq => exact flagWait_nullified_same h
  | fbar => exact execFbar_nullified_same h
  | mwait | mwaitNe => exact mwait_nullified_same hw h
  | aadd | amin | amax | aminn | amaxn | aand | aor | axor | axchg | acas | afadd | oopen | oclose | tkt =>
    exact slotRequest_nullified_same hw h
  | trap => exact execTrap_nullified_same h
  | vcvt d a part code mask =>
    have hd : Vec.cvtDraws code.toNat = false := hw
    have hexec : exec (.vcvt d a part code mask) s = execVcvt d a part code mask s := rfl
    rw [hexec, execVcvt, hd]
    exact slot_nullified_same hw h
  | rbpop | vqnt => cases hw
  | _ =>
    first
    | exact absurd rfl hne
    | unfold exec; exact slot_nullified_same hw h

/-- An instruction that takes a random word waits while there is none (R152). -/
theorem exec_nullified_of_popsWord (hw : popsWord i = true) (h : s.nullified s.cur.slot i = true) :
    exec i s = .next (if s.here.a.rbq = [] then s else s.popWord) := by
  have waits (r : Res State) : (if s.here.a.rbq.isEmpty then .next s else s.slot i r) =
      Host.Outcome.next (if s.here.a.rbq = [] then s else s.popWord) := by
    rw [slot_nullified h, if_pos hw]
    by_cases hr : s.here.a.rbq = [] <;> simp [hr]
  cases i with
  | rbpop | vqnt => exact waits _
  | vcvt d a part code mask =>
    have hd : Vec.cvtDraws code.toNat = true := hw
    have hexec : exec (.vcvt d a part code mask) s = execVcvt d a part code mask s := rfl
    rw [hexec, execVcvt, hd]
    exact waits _
  | _ => cases hw

theorem slot_nop (s : State) (hw : popsWord i = false) : s.slot i (.ok s) = .next s := by
  rcases slot_cases s i (.ok s) with ⟨-, he⟩ | ⟨-, t, ht, he⟩ | ⟨-, f, hf, -⟩
  · simpa [hw] using he
  · exact Except.ok.inj ht ▸ he
  · cases hf

end

end Sys2Proof.Machine

namespace Sys2Proof

open Sys2Proof.Machine

/-- Settles O8: a NOP acts as it does when it is nullified, and each other instruction by its shape. -/
theorem nopsAndNullifiedSlots : Obligations.NopsAndNullifiedSlots := by
  refine ⟨fun i hi s => ?_, fun s i hp h => ?_⟩
  · fin_cases hi <;> exact slot_nop s rfl
  · by_cases hw : popsWord i = true
    · rw [exec_nullified_of_popsWord hw h]
      by_cases hr : s.here.a.rbq = []
      · simp [hr]
      · simp [hw, hr]; rfl
    · rw [if_neg fun h => hw h.1]
      refine exec_nullified_same ?_ ?_ ?_ (by simpa using hw) h <;>
        (intro he; simp [he] at hp)

end Sys2Proof
end

section
/-! PROOF. Sparse tables: one in canonical form is known by what it reads as, so that of two writes of one entry the later
stays. -/

namespace Sys2Proof.Tab

section
variable {α : Type} [DecidableEq α] {d : α}

theorem wf_cons {t : Tab α} {j : Nat} {v : α} (h : wf d ((j, v) :: t) = true) :
    v ≠ d ∧ above j t = true ∧ wf d t = true := by
  simpa [wf, and_assoc] using h

omit [DecidableEq α] in
@[simp] theorem get_cons_same {t : Tab α} {j : Nat} {v : α} : get d ((j, v) :: t) j = v := if_pos rfl

omit [DecidableEq α] in
theorem get_cons_lt {t : Tab α} {j k : Nat} {v : α} (h : k < j) : get d ((j, v) :: t) k = d := by
  simp [get, h, Nat.ne_of_lt h]

omit [DecidableEq α] in
theorem get_cons_gt {t : Tab α} {j k : Nat} {v : α} (h : j < k) : get d ((j, v) :: t) k = get d t k := by
  simp [get, Nat.ne_of_gt h, Nat.lt_asymm h]

/-- Two tables in canonical form that read alike are the same. -/
theorem eq_of_get {t u : Tab α} (ht : wf d t = true) (hu : wf d u = true) (h : ∀ k, get d t k = get d u k) : t = u := by
  induction t generalizing u with
  | nil =>
    cases u with
    | nil => rfl
    | cons p u => exact absurd ((h p.1).trans get_cons_same).symm (wf_cons hu).1
  | cons p t ih =>
    obtain ⟨j, v⟩ := p
    obtain ⟨hv, hat, hwt⟩ := wf_cons ht
    cases u with
    | nil => exact absurd (get_cons_same.symm.trans (h j)) hv
    | cons q u =>
      obtain ⟨i, w⟩ := q
      obtain ⟨hw, hau, hwu⟩ := wf_cons hu
      have hji : j = i := by
        rcases Nat.lt_trichotomy j i with hlt | heq | hgt
        · exact absurd (get_cons_same.symm.trans ((h j).trans (get_cons_lt hlt))) hv
        · exact heq
        · exact absurd (get_cons_same.symm.trans ((h i).symm.trans (get_cons_lt hgt))) hw
      subst hji
      have hvw : v = w := get_cons_same.symm.trans ((h j).trans get_cons_same)
      have htu : t = u := ih hwt hwu fun k => by
        rcases Nat.lt_or_ge j k with hk | hk
        · exact (get_cons_gt hk).symm.trans ((h k).trans (get_cons_gt hk))
        · exact (get_of_above hat hk).trans (get_of_above hau hk).symm
      rw [hvw, htu]

/-- Of two writes of one entry the later stays. -/
theorem set_set {t : Tab α} {k : Nat} {v w : α} (ht : wf d t = true) : set d (set d t k v) k w = set d t k w := by
  have htv := wf_set (k := k) (v := v) ht
  refine eq_of_get (wf_set htv) (wf_set ht) fun a => ?_
  by_cases ha : a = k
  · rw [ha, get_set_same htv, get_set_same ht]
  · rw [get_set_other htv ha, get_set_other ht ha, get_set_other ht ha]

end

end Sys2Proof.Tab

namespace Sys2Proof.Machine

section
variable {s : State}

theorem setCtx_setCtx (h : Tab.wf {} s.ctxs = true) (c : Nat) (x y : Ctx) : (s.setCtx c x).setCtx c y = s.setCtx c y := by
  simp only [State.setCtx]
  rw [Tab.set_set h]

theorem ctx_setCtx_same (h : Tab.wf {} s.ctxs = true) (c : Nat) (x : Ctx) : (s.setCtx c x).ctx c = x := Tab.get_set_same h

theorem ctx_setCtx_other (h : Tab.wf {} s.ctxs = true) {c d : Nat} (hd : d ≠ c) (x : Ctx) :
    (s.setCtx c x).ctx d = s.ctx d := Tab.get_set_other h hd

/-- Two changes of one context in turn are one. -/
theorem modCtx_modCtx (h : Tab.wf {} s.ctxs = true) (c : Nat) (f g : Ctx → Ctx) :
    (s.modCtx c f).modCtx c g = s.modCtx c fun x => g (f x) := by
  simp only [State.modCtx]
  rw [ctx_setCtx_same h, setCtx_setCtx h]

end

end Sys2Proof.Machine
end

section
/-! PROOF. Address generation, random words and the dictionary, O15 and O16. -/

namespace Sys2Proof.Machine

section
variable {s : State}

theorem putAddr_ok {d : Dst} {v : Word} (left : Nat) (h : s.SpOk d v) :
    s.putAddr d left v = .ok (s.withFlight (resultS 3 d left v)) := by
  unfold State.putAddr
  rw [checkSp_ok h]
  rfl

theorem exec_lea {d : Dst} {a b : Src} {sh : BitVec 3} {x y : Word} (hx : s.srcS a = .ok x) (hy : s.srcS b = .ok y)
    (h : s.Acts (.lea d a b sh)) (hsp : s.SpOk d (x + y <<< sh.toNat)) :
    exec (.lea d a b sh) s = .next (s.withFlight (resultS 3 d 1 (x + y <<< sh.toNat))) := by
  change s.slot _ _ = _
  rw [hx, hy]
  exact (congrArg _ (putAddr_ok 1 hsp)).trans (slot_ok h)

theorem exec_leai {d : Dst} {a : Src} {imm : BitVec 13} {x : Word} (hx : s.srcS a = .ok x)
    (h : s.Acts (.leai d a imm)) (hsp : s.SpOk d (x + imm.signExtend 64)) :
    exec (.leai d a imm) s = .next (s.withFlight (resultS 3 d 1 (x + imm.signExtend 64))) := by
  change s.slot _ _ = _
  rw [hx]
  exact (congrArg _ (putAddr_ok 1 hsp)).trans (slot_ok h)

theorem exec_agen {d : Dst} {n : BitVec 6} {imm : BitVec 13} (h : s.Acts (.agen d n imm))
    (hsp : s.SpOk d (s.nestAddr (s.nreg n.toNat) + imm.signExtend 64)) :
    exec (.agen d n imm) s =
      .next (s.withFlight (resultS 3 d 2 (s.nestAddr (s.nreg n.toNat) + imm.signExtend 64))) :=
  (congrArg _ (putAddr_ok 2 hsp)).trans (slot_ok h)

/-- The oldest word leaves the queue and is counted as its write is on its way, which is one change of the context. -/
theorem exec_rbpop (hwf : Tab.wf {} s.ctxs = true) {d : Dst} {w : Word} {l : List Word} (h : s.Acts (.rbpop d))
    (hq : s.here.a.rbq = w :: l) :
    exec (.rbpop d) s = .next (s.withArch { s.here.a with
      rbq := l, popcnt := s.here.a.popcnt + 1
      flight := s.here.a.flight ++ [⟨1, (resultS 0 d 1 w).wr, none, 0⟩] }) := by
  have hexec : exec (.rbpop d) s = execRbpop d s := rfl
  have hrbq : (s.ctx s.cur.ctx).a.rbq = w :: l := hq
  have hw : s.randWord = w := by simp [State.randWord, hq]
  have hpush : s.popWord.putQuiet d 1 w = s.withArch { s.here.a with
      rbq := l, popcnt := s.here.a.popcnt + 1
      flight := s.here.a.flight ++ [⟨1, (resultS 0 d 1 w).wr, none, 0⟩] } := by
    have htwo : s.popWord.putQuiet d 1 w = (s.modCtx s.cur.ctx fun x => { x with a := x.a.popWord }).modCtx s.cur.ctx
        fun x => { x with a := { x.a with flight := x.a.flight ++ [⟨1, (resultS 0 d 1 w).wr, none, 0⟩] } } := rfl
    rw [htwo, modCtx_modCtx hwf]
    simp only [State.modCtx, State.withArch, State.setCtx, Arch.popWord, hrbq, List.tail_cons]
    rfl
  rw [hexec, execRbpop, if_neg (by simp [hq]), hw, hpush, slot_ok h]

theorem exec_rbpop_empty {d : Dst} (hq : s.here.a.rbq = []) : exec (.rbpop d) s = .next s :=
  if_pos (List.isEmpty_iff.mpr hq)

/-! ## The dictionary (R71) -/

theorem exec_dld {a : Src} {entry cnt : BitVec 9} {x : Word} {t : State} {bytes : List Byte} (h : s.Acts (.dld a entry cnt))
    (hx : s.srcS a = .ok x) (hal : x.toNat % 32 = 0)
    (hl : s.here.task.leased x.toNat (32 * (cnt.toNat + 1)) .read = true) (hm : s.mtype x.toNat ≠ 1)
    (hr : s.loadRange x.toNat (32 * (cnt.toNat + 1)) = (t, .ok bytes)) :
    exec (.dld a entry cnt) s =
      .next (t.modArch s.cur.ctx fun q => q.loadDict entry.toNat bytes (cnt.toNat + 1)) := by
  have hc : s.checkMem x.toNat (32 * (cnt.toNat + 1)) 32 .read true false = .ok () :=
    checkMem_ok hal hl (fun _ => hm) (fun hf => nomatch hf)
  change s.slot _ _ = _
  simp only [hx, bind, Except.bind, hc, hr]
  exact slot_ok h

end

/-- Each entry from the first on takes 32 bytes of its own; every other entry is as it was. -/
theorem get_loadDict_dict (n : Nat) : ∀ (a : Arch) (entry : Nat) (b : List Byte) (k : Nat), Tab.wf none a.dict = true →
    Tab.get none (a.loadDict entry b n).dict k =
      if entry ≤ k ∧ k < entry + n then
        some (BitVec.ofNat 256 (ofBytes ((b.drop (32 * (k - entry))).take 32)))
      else Tab.get none a.dict k := by
  induction n with
  | zero => exact fun a entry b k _ => (if_neg (by omega)).symm
  | succ n ih =>
    intro a entry b k h
    have hset : Tab.wf none (Tab.set none a.dict entry (some (BitVec.ofNat 256 (ofBytes (b.take 32))))) = true :=
      Tab.wf_set h
    rw [Arch.loadDict, ih _ _ _ _ hset]
    rcases Nat.lt_trichotomy k entry with hk | hk | hk
    · rw [if_neg (by omega), if_neg (by omega), Tab.get_set_other h (by omega)]
    · subst hk
      rw [if_neg (by omega), if_pos (by omega), Tab.get_set_same h]
      simp
    · have hd : 32 + 32 * (k - (entry + 1)) = 32 * (k - entry) := by omega
      simp only [Tab.get_set_other h (show k ≠ entry by omega), List.drop_drop, hd]
      exact if_congr (by omega) rfl rfl

end Sys2Proof.Machine

namespace Sys2Proof

open Sys2Proof.Machine

/-- Settles O15, an instruction at a time. -/
theorem addressesAndRandomWords : Obligations.AddressesAndRandomWords := fun _ _ _ _ _ _ _ _ _ hx hy =>
  ⟨exec_lea hx hy, exec_leai hx, exec_agen, fun _ _ hwf => exec_rbpop hwf, exec_rbpop_empty⟩

/-- Settles O16: the entries are written one after the other, each once. -/
theorem dldFillsTheDictionary : Obligations.DldFillsTheDictionary := by
  intro s a entry cnt x t bytes h hx hal hl hm hr
  refine ⟨⟨_, exec_dld h hx hal hl hm hr, rfl⟩, fun q k hq => ?_⟩
  rw [get_loadDict_dict _ _ _ _ _ hq]
  exact if_congr (by omega) rfl rfl

end Sys2Proof
end

section
/-! PROOF. Tokens, checkpoints and rollback, O37. -/

namespace Sys2Proof.Machine

section
variable {s : State}

/-! ## Tokens (R68 to R70) -/

theorem entry_ok {index : BitVec 9} {e : BitVec 256} (h : Tab.get none s.here.a.dict index.toNat = some e)
    (he : e.extractLsb' 254 2 = 0) : s.entry index = .ok e := by
  unfold State.entry
  rw [h]
  exact if_neg (not_not_intro he)

/-- The bundle in issue becomes `w`, which a token has brought. -/
def State.fromEntry (s : State) (w : BitVec 256) : State := (s.loadBundle w).modCur fun k => { k with fromToken := true }

theorem exec_token {index : BitVec 9} {delta : BitVec 7} {e : BitVec 256}
    (h : Tab.get none s.here.a.dict index.toNat = some e) (he : e.extractLsb' 254 2 = 0)
    (hd : delta ≠ 0 → hasImmForm e = true) :
    exec (.token index delta) s = .next (s.fromEntry (if delta = 0 then e else expandToken e delta)) := by
  have hload : s.loadToken index delta = .ok (s.fromEntry (if delta = 0 then e else expandToken e delta)) := by
    unfold State.loadToken
    rw [entry_ok h he]
    by_cases h0 : delta = 0
    · simp [h0, bind, Except.bind, State.fromEntry]
      rfl
    · simp [hd h0, bind, Except.bind, State.fromEntry]
      rfl
  change execToken index delta s = _
  rw [execToken, hload]

/-! ## Rollback (R282, R287, Tables 3.2 and 8.6) -/

theorem rollback_open {x : Ctx} (hc : x.closed = false) (hp : x.past = []) :
    x.rollback.a = (withArrivals x.cap x.arrived).keepRecord x.a ∧ x.rollback.cap = x.cap ∧
    x.rollback.seq = x.capSeq ∧ x.rollback.cbuf = [] ∧ x.rollback.loads = [] ∧ 
    x.rollback.st = (if x.cap.trap.isSome then .trap else .run) ∧ 
    x.rollback.deferred = x.deferred.filter fun f => f.1 ≤ x.capSeq := by
  unfold Ctx.rollback
  simp [hc, hp]

/-- Entry `k` of `t` with each of a list of entries of its own added to it. -/
theorem get_foldl_addEntry {u : Tab (BitVec 16)} : ∀ {t : Tab (BitVec 16)}, Tab.wf 0 u = true → Tab.wf 0 t = true → ∀ k,
    Tab.get 0 (u.foldl (fun t p => Tab.set 0 t p.1 (Tab.get 0 t p.1 + p.2)) t) k = Tab.get 0 t k + Tab.get 0 u k := by
  induction u with
  | nil => intro t _ _ k; simp
  | cons p u ih =>
    obtain ⟨j, v⟩ := p
    intro t hu ht k
    obtain ⟨-, ha, hwf⟩ := Tab.wf_cons hu
    rw [List.foldl_cons, ih hwf (Tab.wf_set ht)]
    rcases Nat.lt_trichotomy k j with hk | hk | hk
    · rw [Tab.get_set_other ht (Nat.ne_of_lt hk), Tab.get_of_above ha (Nat.le_of_lt hk), Tab.get_cons_lt hk]
    · subst hk
      rw [Tab.get_set_same ht, Tab.get_of_above ha (Nat.le_refl _), Tab.get_cons_same]
      exact BitVec.add_zero _
    · rw [Tab.get_set_other ht (Nat.ne_of_gt hk), Tab.get_cons_gt hk]

/-- Of the entries listed in `l` each reads as it is written, every other one as before. -/
theorem get_foldl_set {α : Type} [DecidableEq α] {d : α} (f : Nat → α) (k : Nat) (l : List Nat) :
    ∀ {t : Tab α}, Tab.wf d t = true →
      Tab.get d (l.foldl (fun t n => Tab.set d t n (f n)) t) k = if k ∈ l then f k else Tab.get d t k := by
  induction l with
  | nil => intro t _; simp
  | cons n l ih =>
    intro t h
    rw [List.foldl_cons, ih (Tab.wf_set h)]
    by_cases hl : k ∈ l
    · simp [hl]
    · by_cases hn : k = n
      · subst hn
        simp [hl, Tab.get_set_same h]
      · simp [hl, hn, Tab.get_set_other h hn]

/-- The fault record stays as it is; every other control register is the capture's. -/
theorem get_keepRecord_cr {a now : Arch} (h : Tab.wf 0 a.cr = true) (k : Nat) :
    Tab.get 0 (a.keepRecord now).cr k = if 8 ≤ k ∧ k ≤ 11 then Tab.get 0 now.cr k else Tab.get 0 a.cr k := by
  have hk : k ∈ [8, 9, 10, 11] ↔ 8 ≤ k ∧ k ≤ 11 := by simp only [List.mem_cons, List.not_mem_nil, or_false]; omega
  exact (get_foldl_set _ k _ h).trans (if_congr hk rfl rfl)

end

end Sys2Proof.Machine

namespace Sys2Proof

open Sys2Proof.Machine

/-- Settles O37: a checkpoint is its meaning once its loads are back; a rollback writes the record's four registers and one
flag for each arrival over the capture, each entry read apart. -/
theorem tokensAndCheckpoints : Obligations.TokensAndCheckpoints := by
  refine ⟨fun s index delta e h he => ⟨fun hd => ?_, fun hd hi => ?_⟩, fun s hl => ?_, fun x hc hp hcr hf ha => ?_⟩
  · refine ⟨_, exec_token h he fun hn => absurd hd hn, ?_⟩
    rw [if_pos hd]
    exact ⟨rfl, rfl, rfl, rfl⟩
  · refine ⟨_, exec_token h he fun _ => hi, ?_⟩
    rw [if_neg hd]
    exact ⟨rfl, rfl, rfl, rfl⟩
  · exact if_neg (by simp [hl])
  · obtain ⟨hya, hcap, hseq, hcbuf, hloads, hst, hdef⟩ := rollback_open hc hp
    refine ⟨by rw [hya]; rfl, ?_, ?_, hst, hcap, hseq, hcbuf, hloads, hdef⟩ <;> rw [hya]
    · exact get_keepRecord_cr hcr
    · exact get_foldl_addEntry ha hf

end Sys2Proof
end

section
/-! PROOF. A step of the machine, O38: the event, or the grant of a context that issues alone. -/

namespace Sys2Proof.Machine

section
variable {s s1 t u : State} {c : Nat}

theorem step_agenda {i : Instr} {l : List Instr} (h : s.agenda = i :: l) : step s = exec i { s with agenda := l } := by
  unfold step
  rw [h]

theorem step_grant {l : List Nat} (ha : s.agenda = []) (hg : s.grants = c :: l) :
    step s = State.issue { s with grants := l } c := by
  unfold step
  rw [ha, hg]

theorem runAll_cons {k : Nat} {i : Instr} {l : List (Nat × Instr)} (h : exec i (s.atSlot k) = .next t) :
    s.runAll ((k, i) :: l) = t.runAll l := by
  change andThen (exec i (s.atSlot k)) (fun s => s.runAll l) = _
  rw [h]
  rfl

theorem runMembers_one : s.runMembers [c] = s.runBundle c := by
  change andThen (s.runBundle c) .next = _
  cases s.runBundle c <;> rfl

/-- Whoever issues alone brings one verdict, but for a rerun's closing checkpoint. -/
theorem stepTrials_alone {v : Verdict} (hg : s.group c = [c]) (hs : (s.ctx c).scheduled = true)
    (h : s.trial c = (s1, v)) (hv : v ≠ .closes) : s.stepTrials c = (s1, [(c, v)]) := by
  simp [State.stepTrials, hg, hs, State.trials, h, hv]

theorem issue_fault {f : FaultRec} (hg : s.group c = [c]) (hs : (s.ctx c).scheduled = true)
    (h : s.trial c = (s1, .fault f)) : s.issue c = .next (s1.suppress c f) := by
  unfold State.issue
  rw [stepTrials_alone hg hs h nofun]
  rfl

theorem issue_ready (hg : s.group c = [c]) (hs : (s.ctx c).scheduled = true) (h : s.trial c = (s1, .ready)) :
    s.issue c = andThen (s1.runBundle c) fun s => .next (s.nextStep [c]) := by
  rw [← runMembers_one]
  unfold State.issue
  rw [stepTrials_alone hg hs h nofun, hg]
  rfl

/-- A bundle that no espalier shares: its slots run, its PC advances unless it has moved it, and a rerun is over. -/
theorem runBundle_own (hu : u = ((s.prepare c).1.openCycle c).countIssue c true) (he : u.here.task.inEsp = false)
    (h : u.runSlots = .next t) : s.runBundle c =
      .next ((if t.cur.moved then t else t.advance).modCtx c fun x => { x with replay := false }) := by
  unfold State.runBundle
  simp only [← hu, he, h, Bool.false_and]
  rfl

/-! ## The slots of the bundle in issue (R54, R283) -/

theorem runSlots_plain (hk : s.cur.ckpt = false) (h : s.runAll s.cur.todo = .next t) : s.runSlots = .next t := by
  unfold State.runSlots
  simpa [hk] using h

theorem runSlots_replay (hk : s.cur.ckpt = true) (hr : s.here.replay = true)
    (h : s.runAll (s.cur.todo.filter fun p => !actsFirst p.2) = .next t) : s.runSlots = .next t := by
  unfold State.runSlots
  simpa [hk, hr] using h

theorem runSlots_checkpoint {v w : State} (hk : s.cur.ckpt = true) (hr : s.here.replay = false)
    (hf : s.runAll (s.cur.todo.filter fun p => actsFirst p.2) = .next v)
    (hc : exec .checkpointBundle (v.atSlot 15) = .next w)
    (h : w.runAll (s.cur.todo.filter fun p => !actsFirst p.2) = .next t) : s.runSlots = .next t := by
  unfold State.runSlots
  simp [hk, hr, hf, andThen, hc, h]

end

end Sys2Proof.Machine

namespace Sys2Proof

open Sys2Proof.Machine

/-- Settles O38: the grant of a context that issues alone is its bundle's, whose slots run in one of three ways. -/
theorem stepRunsTheDecodedInstruction : Obligations.StepRunsTheDecodedInstruction := by
  refine ⟨fun _ _ _ => step_agenda, fun s c l s1 ha hg hgroup hsched => ⟨fun f hf => ?_, fun u t hready hu he => ?_⟩,
    fun _ => rfl, fun _ _ _ _ _ => runAll_cons, fun s w hw => ?_⟩
  · exact (step_grant ha hg).trans (issue_fault hgroup hsched hf)
  · have ends (h : u.runSlots = .next t) : step s =
        .next (((if t.cur.moved then t else t.advance).modCtx c fun x => { x with replay := false }).nextStep [c]) := by
      rw [step_grant ha hg, issue_ready hgroup hsched hready, runBundle_own hu he h]
      rfl
    exact ⟨fun hk h => ends (runSlots_plain hk h), fun hk hr h => ends (runSlots_replay hk hr h),
      fun hk hr v w hf hc h => ends (runSlots_checkpoint hk hr hf hc h)⟩
  · exact ⟨_, if_neg (by simp [hw]), rfl, rfl, rfl, rfl, rfl, rfl⟩

end Sys2Proof
end

section
/-! PROOF. Decoded words, O44. -/

namespace Sys2Proof

open Sys2Proof.Machine

/-- Settles O44: the decoder runs on each of the words. -/
theorem decodedWords : Obligations.DecodedWords := by
  unfold Obligations.DecodedWords
  decide +kernel

end Sys2Proof
end

section
/-! PROOF. Events of a cycle, O46: a write of the scratchpad, the merge stage, and a context's own steps. -/

namespace Sys2Proof.Tab

section
variable {α : Type} [DecidableEq α] {d : α} {t : Tab α} {k : Nat} {v : α}

/-! A write of what an unlisted entry does not read as: it reads back whatever the form of the table. -/

theorem set_of_ne (h : v ≠ d) : set d t k v = ins t k v := if_neg h

theorem get_set_same_of_ne (h : v ≠ d) : get d (set d t k v) k = v := by rw [set_of_ne h, get_ins_same]

theorem get_set_other_of_ne (h : v ≠ d) {a : Nat} (ha : a ≠ k) : get d (set d t k v) a = get d t a := by
  rw [set_of_ne h, get_ins_other ha]

theorem set_ne_nil (h : v ≠ d) : set d t k v ≠ [] := by
  intro he
  have hg := get_set_same_of_ne (t := t) (k := k) h
  rw [he] at hg
  exact h hg.symm

end

end Sys2Proof.Tab

namespace Sys2Proof.Machine

/-! ## A write of the scratchpad (R218, R220) -/

/-- The bytes of a scratchpad once `l` is written from logical address `lo` on under a task's windows. -/
def Task.written (t : Task) (sp : Tab (Option Byte)) (lo : Nat) : List (Option Byte) → Tab (Option Byte)
  | [] => sp
  | none :: l => t.written sp (lo + 1) l
  | some b :: l => t.written (Tab.set none sp (t.spadPa lo) (some b)) (lo + 1) l

section
variable {s : State} {c : Nat}

theorem core_modCore_spad (k p : Nat) (b : Byte) :
    (s.modCore k fun x => { x with spad := Tab.set none x.spad p (some b) }).core k =
      { s.core k with spad := Tab.set none (s.core k).spad p (some b) } :=
  Tab.get_set_same_of_ne fun h => Tab.set_ne_nil (Option.some_ne_none b) (congrArg Core.spad h)

theorem core_modCore_spad_other {k j : Nat} (h : j ≠ k) (p : Nat) (b : Byte) :
    (s.modCore k fun x => { x with spad := Tab.set none x.spad p (some b) }).core j = s.core j :=
  Tab.get_set_other_of_ne (fun h => Tab.set_ne_nil (Option.some_ne_none b) (congrArg Core.spad h)) h

/-- A write of the scratchpad changes the table of cores alone. -/
theorem spadWrite_frame (l : List (Option Byte)) : ∀ (s : State) (lo : Nat),
    s.spadWrite c lo l = { s with cores := (s.spadWrite c lo l).cores } := by
  induction l with
  | nil => exact fun _ _ => rfl
  | cons b l ih =>
    intro s lo
    cases b with
    | none => exact ih s (lo + 1)
    | some b => exact ih _ (lo + 1)

theorem spadWrite_core (l : List (Option Byte)) : ∀ (s : State) (lo : Nat),
    (s.spadWrite c lo l).core (coreOf c) =
      { s.core (coreOf c) with spad := (s.ctx c).task.written (s.core (coreOf c)).spad lo l } := by
  induction l with
  | nil => exact fun _ _ => rfl
  | cons b l ih =>
    intro s lo
    cases b with
    | none => exact ih s (lo + 1)
    | some b => exact (ih _ (lo + 1)).trans (by rw [core_modCore_spad]; rfl)

theorem spadWrite_core_other {k : Nat} (h : k ≠ coreOf c) (l : List (Option Byte)) : ∀ (s : State) (lo : Nat),
    (s.spadWrite c lo l).core k = s.core k := by
  induction l with
  | nil => exact fun _ _ => rfl
  | cons b l ih =>
    intro s lo
    cases b with
    | none => exact ih s (lo + 1)
    | some b => exact (ih _ (lo + 1)).trans (core_modCore_spad_other h _ b)

end

section
variable {t : Task}

/-- Within one window the physical offset moves with the logical one. -/
theorem spadPa_add {lo j : Nat} (h : lo % 0x10_0000 + j < 0x10_0000) : t.spadPa (lo + j) = t.spadPa lo + j := by
  have hdiv : (lo + j) / 0x10_0000 = lo / 0x10_0000 := by omega
  have hmod : (lo + j) % 0x10_0000 = lo % 0x10_0000 + j := by omega
  simp only [Task.spadPa, hdiv, hmod]
  omega

theorem get_written_other {a : Nat} (l : List (Option Byte)) : ∀ {sp : Tab (Option Byte)} {lo : Nat},
    (∀ j, j < l.length → a ≠ t.spadPa (lo + j)) → Tab.get none (t.written sp lo l) a = Tab.get none sp a := by
  induction l with
  | nil => exact fun _ => rfl
  | cons b l ih =>
    intro sp lo h
    have hl : ∀ j, j < l.length → a ≠ t.spadPa (lo + 1 + j) := fun j hj => by
      rw [Nat.add_right_comm, Nat.add_assoc]
      exact h (j + 1) (Nat.succ_lt_succ hj)
    cases b with
    | none => exact ih hl
    | some b => exact (ih hl).trans (Tab.get_set_other_of_ne (Option.some_ne_none b) (h 0 (Nat.succ_pos _)))

/-- The bytes of a run that stays within one window read as they were written. -/
theorem get_written (l : List Byte) : ∀ {sp : Tab (Option Byte)} {lo : Nat},
    lo % 0x10_0000 + l.length ≤ 0x10_0000 → ∀ j, j < l.length →
      Tab.get none (t.written sp lo (l.map some)) (t.spadPa lo + j) = l[j]? := by
  induction l with
  | nil => exact fun _ j hj => absurd hj (Nat.not_lt_zero j)
  | cons b l ih =>
    intro sp lo hlo j hj
    simp only [List.length_cons] at hlo hj
    cases j with
    | zero =>
      rw [List.map_cons, Task.written, get_written_other, Nat.add_zero, Tab.get_set_same_of_ne (Option.some_ne_none b)]
      · rfl
      intro i hi
      rw [List.length_map] at hi
      rw [Nat.add_assoc, spadPa_add (by omega)]
      omega
    | succ j =>
      have hpa : t.spadPa lo + (j + 1) = t.spadPa (lo + 1) + j := by rw [spadPa_add (by omega)]; omega
      rw [hpa, List.getElem?_cons_succ]
      exact ih (by omega) j (by omega)

end

/-! ## Drain writes (R203) -/

section
variable {s : State} {c lo : Nat} {st : Word} {l : List Byte}

/-- A drain write that is due: it leaves the drains, its bytes are written, and its status is raised. -/
theorem exec_drainWrite_due (hd : (s.ctx c).a.drains = [⟨1, some lo, l, st⟩]) :
    exec (.drainWrite c) s = .next (((s.modArch c fun a => { a with drains := [] }).spadWrite c lo (l.map some)).modArch c
      fun a => a.raise st) := by
  change Host.Outcome.next (s.drainWrites c) = _
  simp [State.drainWrites, hd, State.landDrain]

/-- Two changes of one context, with the cores replaced between them. -/
theorem modArch_cores_modArch (hwf : Tab.wf {} s.ctxs = true) (f g : Arch → Arch) (cores : Tab Core) :
    ({ s.modArch c f with cores := cores } : State).modArch c g =
      { s with cores := cores, ctxs := Tab.set {} s.ctxs c { s.ctx c with a := g (f (s.ctx c).a) } } :=
  modCtx_modCtx (s := { s with cores := cores }) hwf c (fun x => { x with a := f x.a }) fun x => { x with a := g x.a }

/-- Outside the cores it changes the context alone. -/
theorem drainWrite_frame (hwf : Tab.wf {} s.ctxs = true) (l : List (Option Byte)) :
    let t := ((s.modArch c fun a => { a with drains := [] }).spadWrite c lo l).modArch c fun a => a.raise st
    t = { s with
      cores := t.cores
      ctxs := Tab.set {} s.ctxs c { s.ctx c with a := { (s.ctx c).a.raise st with drains := [] } } } := by
  dsimp only
  rw [spadWrite_frame l]
  exact modArch_cores_modArch hwf _ _ _

theorem core_eq_with_own_spad {x y : Core} {sp : Tab (Option Byte)} (h : x = { y with spad := sp }) :
    x = { y with spad := x.spad } := by
  subst h
  rfl

/-- Of the cores it changes the scratchpad of the context's own. -/
theorem drainWrite_core (hwf : Tab.wf {} s.ctxs = true) (l : List (Option Byte)) :
    ((s.modArch c fun a => { a with drains := [] }).spadWrite c lo l).core (coreOf c) =
      { s.core (coreOf c) with spad := (s.ctx c).task.written (s.core (coreOf c)).spad lo l } := by
  have ht : ((s.modArch c fun a => { a with drains := [] }).ctx c).task = (s.ctx c).task := by
    rw [State.modArch, State.modCtx, ctx_setCtx_same hwf]
  exact (spadWrite_core l _ lo).trans (by rw [ht]; rfl)

end

/-! ## The merge stage (Table 2.18) -/

section
variable {s u v : State} {k : Nat} {p : Pair}

theorem noteStall_of_ne {x : Side} (h : x.v ≠ .waits true) : s.noteStall k x = s := if_neg h

/-- Table 2.18 of a core that issues alone and stalls on no random words. -/
theorem decideBack_eq {front : Bool} (hf : p.f.v ≠ .waits true) (hb : p.b.v ≠ .waits true) :
    s.decideBack front p =
      if p.b.ready = false then s.modCtx (2 * p.core + 1) fun x => { x with sliceReady := false }
      else if front && p.due && !compatible p.f p.b then s.passBack p.core
      else s.grantBack p.core := by
  unfold State.decideBack
  rw [noteStall_of_ne hf, noteStall_of_ne hb]
  cases p.b.ready <;> rfl

/-- The merge stage of a core that issues alone: its foreground is granted when it is due, ready and does not yield. -/
theorem exec_mergeDecision_alone (hu : u = s.clock k) (ht : u.together k = [k]) (hp : u.pair k = (v, p)) :
    exec (.mergeDecision k) s = .next ((if p.due && p.f.ready && !v.yields p then v.grant (2 * p.core) else v).decideBack
      (p.due && p.f.ready && !v.yields p) p) := by
  change execMergeDecision k s = _
  have hfront : (([p].any (·.due)) && [p].all (fun p => !p.due || p.f.ready) && !([p].any v.yields)) =
      (p.due && p.f.ready && !v.yields p) := by
    cases hd : p.due <;> simp [hd]
  have hfind : (p.due && p.f.ready && !v.yields p) = true → [p].find? (·.due) = some p := by
    cases hd : p.due <;> simp [hd]
  simp only [execMergeDecision, ← hu, ht, State.pairs, hp, hfront]
  by_cases h : (p.due && p.f.ready && !v.yields p) = true
  · rw [hfind h]
    rfl
  · simp only [if_neg h]
    rfl

/-- A yield is due when both bundles are ready and the foreground's goes against the background's too long. -/
theorem yields_eq (hb : p.b.ready = true) (hd : (p.due && p.f.ready) = true) (hc : compatible p.f p.b = false) :
    s.yields p = decide ((s.core p.core).yieldCnt = 255 ∧ (s.ctx (2 * p.core)).task.det = false) := by
  rw [Bool.and_eq_true] at hd
  simp [State.yields, hb, hd, hc]

theorem yields_eq_false (h : p.b.ready = false ∨ (p.due && p.f.ready) = false ∨ compatible p.f p.b = true) :
    s.yields p = false := by
  simp only [Bool.and_eq_false_iff] at h
  rcases h with h | (h | h) | h <;> simp [State.yields, h]

theorem grantBack_background (s : State) (k : Nat) : s.grantBack k = Claim.background s k := by
  have h (f : Core → Core) : (s.modCore k f).ctx (2 * k + 1) = s.ctx (2 * k + 1) := rfl
  simp only [State.grantBack, Claim.background, State.grant, State.modCtx, h]
  simp only [State.setCtx, State.modCore, State.setCore]

theorem exec_forcedYield (hp : s.pair k = (u, p)) (hy : u.yields p = true) :
    exec (.forcedYield k) s = .next (u.grantBack k) := by
  change execForcedYield k s = _
  unfold execForcedYield
  simp [hp, hy]

end

/-! ## A context's loads and random words (R97, R98, R151, R334) -/

section
variable {s : State} {c k e : Nat} {o : Outst}

theorem exec_interlockedLoadData_memory (hk : (s.ctx c).loads[k]? = some o) (hb : o.bad = none) (ha : o.asked = false)
    (he : o.ext = false) : exec (.interlockedLoadData c k e) s = .next (s.loadReturns c k o.wr) := by
  change execInterlockedLoadData c k e s = _
  simp [execInterlockedLoadData, hk, hb, ha, he]

/-- A device load in its turn, of a page that no peer device answers for. -/
theorem exec_interlockedLoadData_device {pa n : Nat} {w : Word} (hk : (s.ctx c).loads[k]? = some o) (hb : o.bad = none)
    (ha : o.asked = false) (he : o.ext = true) (hw : o.wr = .s n w) (hq : o.acq = none)
    (hva : s.vaPa (s.asidAt c) o.va.toNat = some pa) (hpeer : s.peerAt pa = none) (hturn : s.deviceTurn c k = true) :
    exec (.interlockedLoadData c k e) s = .next (s.loadReturns c k
      (.s n (BitVec.ofNat 64 (ofBytes (overlay o.own (s.deviceRead pa o.size)))))) := by
  have hl : s.peerLoad c o = none := by simp [State.peerLoad, hva, hpeer]
  have hdata : s.deviceData c o e = ofBytes (overlay o.own (s.deviceRead pa o.size)) := by
    simp [State.deviceData, hva, hpeer]
  change execInterlockedLoadData c k e s = _
  simp [execInterlockedLoadData, hk, hb, ha, he, hl, hturn, hdata, hq, Outst.wrExt, hw]

theorem exec_rbqFill_foreground (hb : (s.ctx (2 * k)).busy = true) (hr : (s.ctx (2 * k)).a.rbq.length + 2 ≤ 32) :
    exec (.rbqFill k) s = .next (s.modArch (2 * k) Arch.fill) := by
  have hw : (s.ctx (2 * k)).wantsWords = true := by simp [Ctx.wantsWords, hb, hr]
  change Host.Outcome.next _ = _
  rw [if_pos hw]

end

end Sys2Proof.Machine

namespace Sys2Proof

open Sys2Proof.Machine

/-- Settles O46, an event at a time: the merge stage by whether the background is ready, the foreground due and ready, the
bundles compatible and a yield due; a drain write by what it leaves of its own core. -/
theorem cycleEvents : Obligations.CycleEvents := by
  refine ⟨fun s u v k p hu ht hp hpk hf hb => ?_,
    fun s u k p hp hy => (exec_forcedYield hp hy).trans (congrArg _ (grantBack_background u k)),
    fun s c k e o hk hb ha he => exec_interlockedLoadData_memory hk hb ha he,
    fun s c k e o pa n w hk hb ha he hw hq hva hpeer hturn =>
      exec_interlockedLoadData_device hk hb ha he hw hq hva hpeer hturn,
    fun s c lo st l hwf hd hlo => ?_, fun s k hb hr => exec_rbqFill_foreground hb hr⟩
  · refine (exec_mergeDecision_alone hu ht hp).trans (congrArg _ ?_)
    rw [decideBack_eq hf hb, hpk, grantBack_background]
    cases hready : p.b.ready with
    | false =>
      rw [yields_eq_false (.inl hready)]
      cases p.due && p.f.ready <;> simp <;> rfl
    | true =>
      cases hd : p.due && p.f.ready with
      | false =>
        simp [yields_eq_false (.inr (.inl hd))]
      | true =>
        cases hc : compatible p.f p.b with
        | true =>
          simp [yields_eq_false (.inr (.inr hc)), State.grant]
        | false =>
          rw [yields_eq hready hd hc, hpk]
          rw [Bool.and_eq_true] at hd
          by_cases hy : (v.core k).yieldCnt = 255 ∧ (v.ctx (2 * k)).task.det = false
          · simp [hy]
          · simp [hy, hd]
            rfl
  · have hcore := drainWrite_core (c := c) (lo := lo) hwf (l.map some)
    refine ⟨_, exec_drainWrite_due hd, drainWrite_frame hwf _, fun k hk => spadWrite_core_other hk _ _ lo,
      core_eq_with_own_spad hcore, fun j hj => ?_, fun a ha => ?_⟩
    · exact (congrArg (Tab.get none · _) (congrArg Core.spad hcore)).trans (get_written l hlo j hj)
    · refine (congrArg (Tab.get none · a) (congrArg Core.spad hcore)).trans (get_written_other _ fun j hj => ?_)
      rw [List.length_map] at hj
      rw [spadPa_add (by omega)]
      exact ha j hj

end Sys2Proof
end

section
/-! PROOF. The table of contexts, O9: the memory, the slices, the translations, the events and the hub's queues leave it as
it stands. -/

namespace Sys2Proof.Machine

section
variable {s t u : State}

theorem ite_ctxs {c : Prop} [Decidable c] (ht : t.ctxs = s.ctxs) (hu : u.ctxs = s.ctxs) :
    (if c then t else u).ctxs = s.ctxs := by split <;> assumption

theorem foldl_ctxs {α : Type} {f : State → α → State} (hf : ∀ s a, (f s a).ctxs = s.ctxs) (l : List α) :
    ∀ s : State, (l.foldl f s).ctxs = s.ctxs := by
  induction l with
  | nil => exact fun _ => rfl
  | cons a l ih => exact fun s => (ih (f s a)).trans (hf s a)

/-! ## Homes and slices -/

@[simp] theorem setHomeByte_ctxs (s : State) (pa : Nat) (b : Byte) : (s.setHomeByte pa b).ctxs = s.ctxs := by
  unfold State.setHomeByte
  split <;> rfl

@[simp] theorem homeWrite_ctxs (l : List Byte) : ∀ (s : State) (pa : Nat), (s.homeWrite pa l).ctxs = s.ctxs := by
  induction l with
  | nil => exact fun _ _ => rfl
  | cons b l ih => exact fun s pa => (ih _ (pa + 1)).trans (setHomeByte_ctxs s pa b)

@[simp] theorem homeWriteOpt_ctxs (l : List (Option Byte)) : ∀ (s : State) (pa : Nat),
    (s.homeWriteOpt pa l).ctxs = s.ctxs := by
  induction l with
  | nil => exact fun _ _ => rfl
  | cons b l ih =>
    intro s pa
    cases b with
    | none => exact ih s (pa + 1)
    | some b => exact (ih _ (pa + 1)).trans (setHomeByte_ctxs s pa b)

@[simp] theorem l2Evict_ctxs (s : State) (d : Nat) (l : L2Line) : (s.l2Evict d l).ctxs = s.ctxs :=
  ite_ctxs rfl (ite_ctxs rfl rfl)

theorem l2Alloc_ctxs {region line : Nat} {hint : Hint} {valid dirty : BitVec 128}
    (h : s.l2Alloc region hint line valid dirty = some t) : t.ctxs = s.ctxs := by
  unfold State.l2Alloc at h
  extract_lets d cos mates free own ways ok keep w s1 s2 at h
  have h1 : s1.ctxs = s.ctxs := by
    unfold s1
    split
    · exact l2Evict_ctxs ..
    · rfl
  split at h
  · cases h
  · cases h
    exact h1

@[simp] theorem sliceRead_ctxs (s : State) (region : Nat) (hint : Hint) (line : Nat) (mask : BitVec 128) :
    (s.sliceRead region hint line mask).ctxs = s.ctxs := by
  unfold State.sliceRead
  extract_lets pa d
  split
  · rfl
  · split
    · exact ite_ctxs rfl (ite_ctxs rfl rfl)
    · refine ite_ctxs rfl ?_
      cases ha : State.l2Alloc _ region hint line (BitVec.allOnes 128) 0 with
      | none => rfl
      | some t => exact (l2Alloc_ctxs ha).trans rfl

@[simp] theorem sliceWrite_ctxs (s : State) (region : Nat) (hint : Hint) (line : Nat) (mask : BitVec 128) :
    (s.sliceWrite region hint line mask).ctxs = s.ctxs := by
  unfold State.sliceWrite
  extract_lets pa d direct
  have hd : (direct s).ctxs = s.ctxs := ite_ctxs rfl rfl
  split
  · rfl
  · split
    · rfl
    · refine ite_ctxs hd ?_
      split
      · next ha => exact l2Alloc_ctxs ha
      · exact hd

@[simp] theorem readHome_ctxs (s : State) (region : Nat) (hint : Hint) (pa n : Nat) :
    (s.readHome region hint pa n).1.ctxs = s.ctxs := foldl_ctxs (fun _ _ => sliceRead_ctxs ..) _ s

@[simp] theorem writeHome_ctxs (s : State) (region : Nat) (hint : Hint) (pa : Nat) (l : List Byte) :
    (s.writeHome region hint pa l).ctxs = s.ctxs :=
  (homeWrite_ctxs ..).trans (foldl_ctxs (fun _ _ => sliceWrite_ctxs ..) _ s)

@[simp] theorem homeUpdate_ctxs (s : State) (region pa n : Nat) (f : Nat → Nat) :
    (s.homeUpdate region pa n f).ctxs = s.ctxs := (writeHome_ctxs ..).trans (readHome_ctxs ..)

@[simp] theorem l1SendDirty_ctxs (s : State) (l : L1Line) : (s.l1SendDirty l).ctxs = s.ctxs :=
  (homeWriteOpt_ctxs ..).trans (sliceWrite_ctxs ..)

@[simp] theorem l1Touch_ctxs (s : State) (c line way : Nat) (away : Bool) : (s.l1Touch c line way away).ctxs = s.ctxs :=
  ite_ctxs (ite_ctxs (ite_ctxs rfl rfl) rfl) rfl

/-! ## Events -/

@[simp] theorem modRegion_ctxs (s : State) (r : Nat) (f : Region → Region) : (s.modRegion r f).ctxs = s.ctxs := by
  unfold State.modRegion
  split <;> rfl

@[simp] theorem post_ctxs (s : State) (r kind detail t extra : Nat) : (s.post r kind detail t extra).ctxs = s.ctxs := by
  unfold State.post
  split
  · rfl
  · exact ite_ctxs rfl ((writeHome_ctxs ..).trans ((writeHome_ctxs ..).trans (readHome_ctxs ..)))

@[simp] theorem postAll_ctxs (s : State) (rs : List Nat) (kind detail t : Nat) :
    (s.postAll rs kind detail t).ctxs = s.ctxs := foldl_ctxs (fun _ _ => post_ctxs ..) rs s

@[simp] theorem postFault_ctxs (s : State) (r ticket : Nat) (w0 w1 w2 w3 frame : Word) (cont : Bool) :
    (s.postFault r ticket w0 w1 w2 w3 frame cont).ctxs = s.ctxs := (post_ctxs ..).trans (modRegion_ctxs ..)

@[simp] theorem domainEvent_ctxs (s : State) (r : Nat) : (s.domainEvent r).ctxs = s.ctxs := by
  have hp : (s.postAll (s.domainPeers r) ev.domainNotice r 0).ctxs = s.ctxs := postAll_ctxs ..
  exact ite_ctxs ((postAll_ctxs ..).trans ((foldl_ctxs (fun _ _ => modRegion_ctxs ..) _ _).trans hp)) hp

@[simp] theorem postLate_ctxs (s : State) (f : FaultRec) (esp : Bool) (member region ticket : Nat) (frame : Word) :
    (s.postLate f esp member region ticket frame).ctxs = s.ctxs :=
  ite_ctxs ((domainEvent_ctxs ..).trans (postFault_ctxs ..)) (postFault_ctxs ..)

/-! ## Translations -/

@[simp] theorem noteWalk_ctxs (s : State) (d region asid va : Nat) (reads : List Nat) (ps : List (Nat × Nat × Nat)) :
    (s.noteWalk d region asid va reads ps).ctxs = s.ctxs := by
  refine (foldl_ctxs ?_ ps _).trans (foldl_ctxs ?_ reads s)
  · exact fun _ _ => rfl
  · exact fun _ _ => sliceRead_ctxs ..

@[simp] theorem walkReads_ctxs (s : State) (region asid va : Nat) : (s.walkReads region asid va).ctxs = s.ctxs :=
  foldl_ctxs (fun _ _ => sliceRead_ctxs ..) _ s

@[simp] theorem translate_ctxs (s : State) (d : Nat) (k : Option Nat) (region asid va : Nat) (ok : Word → Bool) :
    (s.translate d k region asid va ok).1.ctxs = s.ctxs := by
  unfold State.translate
  extract_lets g ent put1 put2 confirm hit
  have h1 (u : State) (x : Word) : (put1 u x).ctxs = u.ctxs := by
    unfold put1
    split <;> rfl
  have h2 (u : State) (x : Word) : (put2 u x).ctxs = u.ctxs := h1 ..
  have hc : (confirm s).1.ctxs = s.ctxs := by
    unfold confirm
    dsimp only
    split
    · exact (h2 ..).trans (noteWalk_ctxs ..)
    · exact noteWalk_ctxs ..
  have hhit (e : TlbEnt) (u : State) (hu : u.ctxs = s.ctxs) :
      (if ok e.leaf then (u, WalkRes.leaf e.leaf) else confirm s).1.ctxs = s.ctxs := by
    split <;> assumption
  cases hit with
  | some e => exact hhit e _ (h1 ..)
  | none =>
    dsimp only
    split
    · exact hhit _ _ (h2 ..)
    · split
      · split
        · exact (h2 ..).trans (noteWalk_ctxs ..)
        · exact hc
      · exact hc

@[simp] theorem effPa_ctxs (s : State) (c va : Nat) (need : Need) : (s.effPa c va need).1.ctxs = s.ctxs := by
  dsimp only [State.effPa]
  split <;> exact translate_ctxs ..

@[simp] theorem partPas_ctxs (c : Nat) (need : Need) (l : List (Nat × Nat × Nat)) : ∀ (s : State) (va : Nat),
    (s.partPas c need va l).1.ctxs = s.ctxs := by
  induction l with
  | nil => exact fun _ _ => rfl
  | cons p l ih => exact fun s va => (ih _ _).trans (effPa_ctxs ..)

/-! ## Queues -/

@[simp] theorem ringMissing_ctxs (s : State) (q va : Nat) (own : Bool) : (s.ringMissing q va own).ctxs = s.ctxs :=
  have hx : (if own && (s.queue q).st = .active then s.modQueue q fun x => { x with st := .fetchWait } else s).ctxs =
      s.ctxs := ite_ctxs rfl rfl
  ite_ctxs hx ((post_ctxs ..).trans hx)

theorem fillTicket_ctxs {q : Nat} {n : BitVec 32} {r : BitVec 512} (h : s.fillTicket q n r = some t) :
    t.ctxs = s.ctxs := by
  dsimp only [State.fillTicket] at h
  split at h
  · cases h
  · cases h
    exact (writeHome_ctxs ..).trans (walkReads_ctxs ..)

theorem hubPush_ctxs {region : Nat} {cap : BitVec 256} {r : BitVec 512} {tk : Option Nat}
    (h : s.hubPush region cap r tk = some t) : t.ctxs = s.ctxs := by
  have hq (reason n : Nat) : some (s.qreject region reason n) = some t → t.ctxs = s.ctxs := fun h => by
    cases h
    exact post_ctxs ..
  dsimp only [State.hubPush] at h
  split at h
  · exact hq _ _ h
  · split at h
    · exact hq _ _ h
    · cases tk with
      | none =>
        dsimp only at h
        split at h
        · cases h
        · obtain ⟨u, hu, rfl⟩ := Option.map_eq_some_iff.mp h
          have hc := fillTicket_ctxs hu
          exact hc
      | some n =>
        dsimp only at h
        split at h
        · split at h
          · exact hq _ _ h
          · exact fillTicket_ctxs h
        · split at h <;> exact hq _ _ h

@[simp] theorem pushMissing_ctxs (s : State) (cap : BitVec 256) (tk : Option Nat) : (s.pushMissing cap tk).ctxs = s.ctxs := by
  dsimp only [State.pushMissing]
  split
  · rfl
  · exact ringMissing_ctxs ..

@[simp] theorem stageWake_ctxs (s : State) (func : Option Nat) (cap : BitVec 256) : (s.stageWake func cap).ctxs = s.ctxs :=
  ite_ctxs rfl rfl

@[simp] theorem registerStore_ctxs (s : State) (pa n : Nat) (v : Word) : (s.registerStore pa n v).ctxs = s.ctxs :=
  ite_ctxs (ite_ctxs rfl rfl) rfl

end

end Sys2Proof.Machine
end

section
/-! PROOF. Delay positions, O9: what a context stands at is kept while it closes a region, so that its checkpoint captures
the pending transfer; and control flow in a delay position. -/

namespace Sys2Proof.Machine

/-- The table of contexts is in canonical form, and the architectural state of context `d` is `f d`. -/
structure State.HasArchs (s : State) (f : Nat → Arch) : Prop where
  wf : Tab.wf {} s.ctxs = true
  arch : ∀ d, (s.ctx d).a = f d

section
variable {s t u : State} {f : Nat → Arch}

theorem State.HasArchs.of_ctxs (h : s.HasArchs f) (e : t.ctxs = s.ctxs) : t.HasArchs f :=
  ⟨e ▸ h.wf, fun d => (congrArg (fun x => (Tab.get {} x d).a) e).trans (h.arch d)⟩

theorem State.HasArchs.ite {c : Prop} [Decidable c] (ht : t.HasArchs f) (hu : u.HasArchs f) :
    (if c then t else u).HasArchs f := by split <;> assumption

theorem State.HasArchs.foldl {α : Type} {g : State → α → State} (hg : ∀ s a, s.HasArchs f → (g s a).HasArchs f)
    (l : List α) : ∀ {s : State}, s.HasArchs f → (l.foldl g s).HasArchs f := by
  induction l with
  | nil => exact id
  | cons a l ih => exact fun h => ih (hg _ a h)

theorem State.HasArchs.fst {α : Type} {p : State × α} {a : α} (h : p.1.HasArchs f) (e : p = (t, a)) : t.HasArchs f := by
  subst e
  exact h

theorem State.HasArchs.fst_mk {α : Type} {a : α} (h : s.HasArchs f) : (s, a).1.HasArchs f := h

/-- A change of a context that leaves its architectural state. -/
theorem State.HasArchs.modCtx (h : s.HasArchs f) {c : Nat} {g : Ctx → Ctx} (hg : ∀ x, (g x).a = x.a := by intro; rfl) :
    (s.modCtx c g).HasArchs f := by
  refine ⟨Tab.wf_set h.wf, fun d => ?_⟩
  unfold State.modCtx
  by_cases hd : d = c
  · subst hd
    rw [ctx_setCtx_same h.wf, hg, h.arch]
  · rw [ctx_setCtx_other h.wf hd, h.arch]

theorem State.HasArchs.walkReads (h : s.HasArchs f) {region asid va : Nat} : (s.walkReads region asid va).HasArchs f :=
  h.of_ctxs (walkReads_ctxs ..)

/-! ## The L1 (R329 to R333, R367, R375) -/

theorem State.HasArchs.defer (h : s.HasArchs f) {c : Nat} {r : FaultRec} : (s.defer c r).HasArchs f :=
  h.modCtx fun _ => rfl

theorem State.HasArchs.ordcMerge (h : s.HasArchs f) {k : Nat} {l : L1Line} : (s.ordcMerge k l).HasArchs f :=
  h.defer.ite (h.defer.ite (h.of_ctxs (postLate_ctxs ..)))

theorem State.HasArchs.l1SendDirty (h : s.HasArchs f) {l : L1Line} : (s.l1SendDirty l).HasArchs f :=
  h.of_ctxs (l1SendDirty_ctxs ..)

theorem State.HasArchs.l1Put (h : s.HasArchs f) {k : Nat} {l : L1Line} : (s.l1Put k l).HasArchs f := h.of_ctxs rfl

theorem State.HasArchs.l1MergeU (h : s.HasArchs f) {k : Nat} {op : AtOp} {l : L1Line} : (s.l1MergeU k op l).HasArchs f :=
  h.ordcMerge.ite (.foldl (fun _ _ h => (h.of_ctxs (homeWrite_ctxs ..)).ite h) _ (h.of_ctxs (sliceWrite_ctxs ..)))

theorem State.HasArchs.l1Flush (h : s.HasArchs f) {k : Nat} {l : L1Line} : (s.l1Flush k l).HasArchs f := by
  unfold State.l1Flush
  split
  · exact h.l1MergeU.of_ctxs rfl
  · exact h.l1SendDirty.of_ctxs rfl
  · exact h.of_ctxs rfl

theorem State.HasArchs.l1Unmerge (h : s.HasArchs f) {k line : Nat} : (s.l1Unmerge k line).HasArchs f := by
  unfold State.l1Unmerge
  split
  · exact h.l1Flush.ite h
  · exact h

theorem State.HasArchs.l1Yield (h : s.HasArchs f) {k line : Nat} : (s.l1Yield k line).HasArchs f := by
  unfold State.l1Yield
  split
  · exact h.l1Flush
  · exact h

theorem State.HasArchs.l1Alloc (h : s.HasArchs f) {c : Nat} {hint : Hint} {l : L1Line} : (s.l1Alloc c hint l).HasArchs f := by
  dsimp only [State.l1Alloc]
  split
  · exact h.l1Flush.of_ctxs (l1Touch_ctxs ..)
  · exact h.of_ctxs (l1Touch_ctxs ..)

theorem State.HasArchs.l1Store (h : s.HasArchs f) {c region pa : Nat} {data : List (Option Byte)} {hint : Hint} :
    (s.l1Store c region pa data hint).HasArchs f := by
  dsimp only [State.l1Store]
  split
  · exact h.l1Unmerge.of_ctxs (l1Touch_ctxs ..)
  · exact (h.l1Unmerge.of_ctxs ((homeWriteOpt_ctxs ..).trans (sliceWrite_ctxs ..))).ite (h.l1Unmerge.ite h.l1Unmerge.l1Alloc)

theorem State.HasArchs.storeThrough (h : s.HasArchs f) {c region pa : Nat} {data : List (Option Byte)} {hint : Hint} :
    (s.storeThrough c region pa data hint).HasArchs f := by
  dsimp only [State.storeThrough]
  split <;> exact h.l1Unmerge.of_ctxs ((homeWriteOpt_ctxs ..).trans (sliceWrite_ctxs ..))

theorem State.HasArchs.l1WriteBack (h : s.HasArchs f) {k : Nat} {host : Bool} : (s.l1WriteBack k host).HasArchs f :=
  .foldl (fun _ _ h => h.l1SendDirty.l1Put.ite h) _ h

theorem State.HasArchs.l1MergeAll (h : s.HasArchs f) {k : Nat} : (s.l1MergeAll k).HasArchs f :=
  .foldl (fun _ _ h => h.l1Flush.ite h) _ h

theorem State.HasArchs.l1Update (h : s.HasArchs f) {c region pa : Nat} {va v : Word} {op : AtOp} :
    (s.l1Update c region pa va op v).HasArchs f := by
  unfold State.l1Update
  extract_lets k line off n t s1 init s2
  have h1 : s1.HasArchs f := by
    unfold s1
    split
    · exact h.ite h.l1Flush
    · exact h
  have h2 : s2.HasArchs f := by
    unfold s2
    split
    · exact h1
    · exact h1.l1Alloc
  split
  · exact h2.of_ctxs (l1Touch_ctxs ..)
  · exact h2

/-! ## Released effects (R356, R367, R372, R395, R399, R456) -/

theorem State.HasArchs.stageWake (h : s.HasArchs f) {func : Option Nat} {cap : BitVec 256} :
    (s.stageWake func cap).HasArchs f := h.of_ctxs (stageWake_ctxs ..)

theorem State.HasArchs.wakeStore (h : s.HasArchs f) {c off n : Nat} {v : Word} : (s.wakeStore c off n v).HasArchs f := by
  unfold State.wakeStore
  split
  · exact h.modCtx
  · split
    · exact h.modCtx.ite ((h.modCtx.stageWake.ite h.modCtx).ite h.modCtx)
    · exact h.modCtx.ite h.modCtx

theorem State.HasArchs.deviceStore (h : s.HasArchs f) {c pa : Nat} {b : List Byte} : (s.deviceStore c pa b).HasArchs f := by
  unfold State.deviceStore
  split
  · exact h.wakeStore
  · split
    · exact h.of_ctxs rfl
    · exact h.of_ctxs (registerStore_ctxs ..)

theorem State.HasArchs.releaseWrites (h : s.HasArchs f) {c : Nat} {sc : Scope} {p : BitVec 4} :
    (s.releaseWrites c sc p).HasArchs f :=
  have hw : (if isWide sc p then s.l1WriteBack (coreOf c) (withHost sc p) else s).HasArchs f := h.l1WriteBack.ite h
  hw.l1MergeAll.ite hw

theorem State.HasArchs.releaseSteps (h : s.HasArchs f) {c seq : Nat} {sc : Scope} {p : BitVec 4} :
    (s.releaseSteps c sc p seq).1.HasArchs f := h.releaseWrites

theorem State.HasArchs.releaseFor (h : s.HasArchs f) {c : Nat} {r : Option Release} : (s.releaseFor c r).1.HasArchs f := by
  unfold State.releaseFor
  split
  · exact h.releaseSteps
  · exact h

theorem State.HasArchs.effPa (h : s.HasArchs f) {c va : Nat} {need : Need} : (s.effPa c va need).1.HasArchs f :=
  h.of_ctxs (effPa_ctxs ..)

theorem State.HasArchs.partPas (h : s.HasArchs f) {c va : Nat} {need : Need} {l : List (Nat × Nat × Nat)} :
    (s.partPas c need va l).1.HasArchs f := h.of_ctxs (partPas_ctxs ..)

theorem State.HasArchs.deferStore (h : s.HasArchs f) {c slot va n : Nat} {pc : Word} :
    (s.deferStore c slot pc va n).HasArchs f := h.defer

theorem State.HasArchs.storeAt {c : Nat} {hint : Hint} {through : Bool} (l : List (Nat × Nat × Nat)) :
    ∀ {s : State} {data : List (Option Byte)} {pas : List Nat}, s.HasArchs f →
      (s.storeAt c hint through data l pas).HasArchs f := by
  induction l with
  | nil => exact fun h => h
  | cons p l ih =>
    intro s data pas h
    cases pas with
    | nil => exact h
    | cons pa pas => exact ih (h.deviceStore.ite (h.storeThrough.ite h.l1Store))

theorem State.HasArchs.performStore (h : s.HasArchs f) {c slot va : Nat} {pc : Word} {hint : Hint} {through : Bool}
    {data : List (Option Byte)} : (s.performStore c slot pc hint through data va).HasArchs f := by
  dsimp only [State.performStore]
  split
  · next e => exact .storeAt _ (h.partPas.fst e)
  · next e => exact (h.partPas.fst e).deferStore

theorem State.HasArchs.performUpdate (h : s.HasArchs f) {c : Nat} {op : AtOp} {va v pc : Word} :
    (s.performUpdate c op va v pc).HasArchs f := by
  unfold State.performUpdate
  split
  · next e => exact (h.effPa.fst e).l1Update
  · next e => exact (h.effPa.fst e).deferStore

theorem State.HasArchs.sendOrdered (h : s.HasArchs f) {c n : Nat} {fp : Bool} {va v pc : Word} :
    (s.sendOrdered c fp va v n pc).HasArchs f := by
  unfold State.sendOrdered
  split
  · next e => exact (h.effPa.fst e).l1Yield.of_ctxs rfl
  · next e => exact (h.effPa.fst e).deferStore

theorem State.HasArchs.performInvl (h : s.HasArchs f) {asid va n : Nat} {all : Bool} :
    (s.performInvl asid all va n).HasArchs f :=
  have hf {l : List (Nat × Nat)} : (s.flushPages l).HasArchs f :=
    .foldl (fun _ _ h => .foldl (fun _ _ h => h.l1Flush.ite h) _ h) _ h
  hf.of_ctxs rfl

theorem State.HasArchs.atomic64 (h : s.HasArchs f) {k region pa : Nat} {g : Nat → Nat} :
    (s.atomic64 k region pa g).HasArchs f := h.l1Yield.of_ctxs (homeUpdate_ctxs ..)

theorem State.HasArchs.modLease (h : s.HasArchs f) {id : Nat} {g : Lease → Lease} : (s.modLease id g).HasArchs f :=
  h.of_ctxs rfl

theorem State.HasArchs.performSpawn (h : s.HasArchs f) {c n : Nat} {w parent : Word} :
    (s.performSpawn c w n parent).HasArchs f := by
  unfold State.performSpawn
  split
  · exact h.walkReads.atomic64.modLease.modCtx
  · exact h.modLease.modCtx

theorem enqueue_a (eng : Nat) (m : Cmd) (x : Ctx) : (x.enqueue eng m).a = x.a := by
  unfold Ctx.enqueue
  split <;> rfl

theorem State.HasArchs.perform (h : s.HasArchs f) {c : Nat} {e : Eff} : (s.perform c e).1.HasArchs f := by
  unfold State.perform
  split
  · exact h
  · cases e with
    | store va data hint rel pc slot =>
      dsimp only
      split
      · next e => exact (h.releaseFor.fst e).performStore
      · exact h.releaseFor
    | upd op va v pc => exact h.performUpdate
    | ordered fp va v t rel pc =>
      dsimp only
      split
      · next e =>
        have hr := h.releaseFor.fst e
        split
        · exact hr
        · split
          · exact hr.sendOrdered.modCtx.fst_mk
          · exact hr.sendOrdered
      · exact h.releaseFor
    | ordWait => exact h
    | copy eng m =>
      dsimp only
      split
      · next e =>
        have hr := h.releaseFor.fst e
        split
        · exact hr
        · exact (hr.modCtx (enqueue_a eng m)).fst_mk
      · exact h.releaseFor
    | qpush cap r tk n =>
      dsimp only
      split
      · next e =>
        have hr := h.releaseSteps.fst e
        split
        · next e => exact hr.of_ctxs (hubPush_ctxs e)
        · exact (hr.of_ctxs (pushMissing_ctxs ..)).modCtx.fst_mk
      · exact h.releaseSteps
    | pushWait cap r tk =>
      dsimp only
      split
      · exact h
      · split
        · next e => exact h.of_ctxs (hubPush_ctxs e)
        · exact h.of_ctxs (pushMissing_ctxs ..)
    | spawn w t parent n =>
      dsimp only
      split
      · next e => exact (h.releaseSteps.fst e).performSpawn
      · exact h.releaseSteps
    | invl asid all va n q =>
      dsimp only
      split
      · next e => exact (h.releaseSteps.fst e).performInvl.modCtx.fst_mk
      · exact h.releaseSteps
    | invlWait asid all va n => exact h
    | fpost flag member n =>
      dsimp only
      split
      · next e => exact (h.releaseSteps.fst e).of_ctxs rfl
      · exact h.releaseSteps

theorem State.HasArchs.drainFrom (c n : Nat) : ∀ {s : State}, s.HasArchs f → (s.drainFrom c n).HasArchs f := by
  induction n with
  | zero => exact fun h => h
  | succ n ih =>
    intro s h
    unfold State.drainFrom
    split
    · exact h
    · split
      · next e => exact ih (h.modCtx.perform.fst e)
      · next e => exact (h.modCtx.perform.fst e).modCtx

theorem State.HasArchs.releaseHeld (h : s.HasArchs f) {c : Nat} : (s.releaseHeld c).HasArchs f :=
  .drainFrom _ _ h.modCtx

/-! ## The end of a region (R283) -/

theorem State.HasArchs.releaseEsp (h : s.HasArchs f) {c : Nat} : (s.releaseEsp c).HasArchs f :=
  .foldl (fun _ _ h => .drainFrom _ _ h.modCtx) _ h

theorem State.HasArchs.closeRegion (h : s.HasArchs f) {c : Nat} : (s.closeRegion c).HasArchs f :=
  (h.ite h.releaseHeld).ite (h.modCtx.releaseEsp.ite h.releaseHeld.modCtx)

theorem State.HasArchs.endRerun (h : s.HasArchs f) {c : Nat} : (s.endRerun c).HasArchs f := by
  refine .ite (.modCtx h.modCtx fun x => ?_) h
  split <;> rfl

end

/-! ## The checkpoint (R283) -/

section
variable {s : State}

theorem ctx_capture {c : Nat} {g : Ctx → Ctx} (h : Tab.wf {} s.ctxs = true) {mid : Bool} :
    ((s.capture c g mid).ctx c).cap = { (g (s.ctx c)).a with spad := s.windowBytes c } := by
  unfold State.capture
  dsimp only [State.modCtx]
  rw [ctx_setCtx_same h]
  rfl

/-- A checkpoint captures the pending transfer and the delay positions left, as they stand. -/
theorem exec_checkpointBundle_captures (hwf : Tab.wf {} s.ctxs = true) (hl : s.here.loadsDone = true) :
    ∃ t, exec .checkpointBundle s = .next t ∧ (t.ctx s.cur.ctx).cap.pending = s.here.a.pending ∧
      (t.ctx s.cur.ctx).cap.delay = s.here.a.delay := by
  have hk : ((s.closeRegion s.cur.ctx).endRerun s.cur.ctx).HasArchs fun d => (s.ctx d).a :=
    State.HasArchs.endRerun (.closeRegion ⟨hwf, fun _ => rfl⟩)
  refine ⟨_, if_neg (by simp [hl]), ?_⟩
  rw [ctx_capture hk.wf]
  have ha := hk.arch s.cur.ctx
  have hp := congrArg Arch.pending ha
  have hd := congrArg Arch.delay ha
  exact ⟨hp, hd⟩

/-! ## Control flow (R54, R108) -/

/-- The instructions that are never nullified (R259) act. -/
theorem acts_of_neverNull {i : Instr} (h : neverNull i = true) : s.Acts i := by
  simp [State.Acts, State.nullified, h]

theorem exec_trn_control {flag : BitVec 3} {neg alw : Bool} {a : BitVec 6} (hd : s.NoDelay) :
    ∃ t, exec (.trn flag neg alw a) s = .next t ∧ t.cur.control = true :=
  ⟨_, (congrArg _ (control_free hd _)).trans (slot_ok (acts_of_neverNull rfl)), rfl⟩

theorem exec_call_control {a : Src} {imm : BitVec 21} {x : Word} (hd : s.NoDelay) (hx : s.srcS a = .ok x) :
    ∃ t, exec (.call a imm) s = .next t ∧ t.cur.control = true := by
  change ∃ t, s.slot _ _ = _ ∧ _
  rw [hx, control_free hd]
  exact ⟨_, slot_ok (acts_of_neverNull rfl), rfl⟩

/-- A control-flow instruction is a slot whose effect is a control transfer. -/
theorem exec_of_isControlFlow {i : Instr} (h : isControlFlow i = true) (s : State) :
    ∃ r, exec i s = s.slot i (s.control r) := by
  cases i with
  | trn flag neg alw a => exact ⟨.ok _, rfl⟩
  | call | loop | lend | join | exit | eret | spawn => exact ⟨_, rfl⟩
  | _ => cases h

/-- A delay position lets no control-flow instruction by: it raises 0x11, or the lower detail of its slot. -/
theorem raises_of_delay {i : Instr} (hi : isControlFlow i = true) (hd : ¬ s.NoDelay) (ha : s.Acts i) :
    ∃ f, f.detail ≤ 0x11 ∧ Claim.Raises i s f := by
  obtain ⟨r, hexec⟩ := exec_of_isControlFlow hi s
  rcases control_delay hd r with he | ⟨f, -, hlt, he⟩
  · exact ⟨_, Nat.le_refl _, hexec.trans ((congrArg _ he).trans (slot_fault ha))⟩
  · exact ⟨f, Nat.le_of_lt hlt, hexec.trans ((congrArg _ he).trans (slot_fault ha))⟩

/-- A slot's effect that fails, if it does, with no detail below `n`. -/
def Res.FailsFrom {α : Type} (n : Nat) : Res α → Prop
  | .ok _ => True
  | .error f => n ≤ f.detail

theorem require_failsFrom {b : Bool} {k n : Nat} (h : n ≤ k) : (s.require b k).FailsFrom n := by
  unfold State.require
  split
  · trivial
  · exact h

theorem Res.FailsFrom.bind {α β : Type} {n : Nat} {r : Res α} {g : α → Res β} (hr : r.FailsFrom n)
    (hg : ∀ a, (g a).FailsFrom n) : (r >>= g).FailsFrom n := by
  cases r with
  | ok a => exact hg a
  | error => exact hr

/-- In a delay position what has no cause of a lower detail raises 0x11. -/
theorem raises_illegal_of_delay {i : Instr} {r : Res State} (hd : ¬ s.NoDelay) (ha : s.Acts i)
    (hexec : exec i s = s.slot i (s.control r)) (hr : r.FailsFrom 0x11) : Claim.Raises i s (s.illegal 0x11) := by
  rcases control_delay hd r with he | ⟨f, rfl, hlt, -⟩
  · exact hexec.trans ((congrArg _ he).trans (slot_fault ha))
  · exact absurd hlt (Nat.not_lt.mpr hr)

theorem raises_trn (hd : ¬ s.NoDelay) {flag : BitVec 3} {neg alw : Bool} {a : BitVec 6} :
    Claim.Raises (.trn flag neg alw a) s (s.illegal 0x11) :=
  raises_illegal_of_delay (r := .ok _) hd (acts_of_neverNull rfl) rfl trivial

theorem raises_call (hd : ¬ s.NoDelay) {a : Src} {imm : BitVec 21} {x : Word} (hx : s.srcS a = .ok x) :
    Claim.Raises (.call a imm) s (s.illegal 0x11) := by
  refine raises_illegal_of_delay hd (acts_of_neverNull rfl) rfl ?_
  rw [hx]
  trivial

theorem raises_loop (hd : ¬ s.NoDelay) {k : BitVec 6} {a : Src} {imm : BitVec 21} {x : Word} (hx : s.srcS a = .ok x) :
    Claim.Raises (.loop k a imm) s (s.illegal 0x11) := by
  refine raises_illegal_of_delay hd (acts_of_neverNull rfl) rfl ?_
  rw [hx]
  change Res.FailsFrom _ (ite _ _ _)
  split
  · trivial
  · exact .bind (require_failsFrom (by decide)) fun _ => trivial

theorem raises_lend (hd : ¬ s.NoDelay) : Claim.Raises .lend s (s.illegal 0x11) := by
  refine raises_illegal_of_delay hd (acts_of_neverNull rfl) rfl ?_
  split
  · exact (by decide : (0x11 : Nat) ≤ 0x12)
  · trivial

theorem raises_exit (hd : ¬ s.NoDelay) (hp : s.cr 0x21 = 0) : Claim.Raises .exit s (s.illegal 0x11) := by
  refine raises_illegal_of_delay hd (acts_of_neverNull rfl) rfl ?_
  rw [if_neg (not_not_intro hp)]
  trivial

theorem raises_eret (hd : ¬ s.NoDelay) (ha : s.Acts .eret) : Claim.Raises .eret s (s.illegal 0x11) :=
  raises_illegal_of_delay hd ha rfl
    (.bind (require_failsFrom (by decide)) fun _ => .bind (require_failsFrom (by decide)) fun _ => trivial)

theorem raises_join (hd : ¬ s.NoDelay) (ha : s.Acts .join) (hj : s.checkJoin = .ok ()) :
    Claim.Raises .join s (s.illegal 0x11) := by
  refine raises_illegal_of_delay hd ha rfl ?_
  rw [hj]
  trivial

theorem raises_spawn (hd : ¬ s.NoDelay) {wt : Bool} {d : Dst} {a : Src} {x : Word} (ha : s.Acts (.spawn wt d a))
    (hx : s.srcS a = .ok x) (hal : x.toNat % 256 = 0) (hlt : x.toNat < 2 ^ 56)
    (hl : s.here.task.leased x.toNat 256 .read = true) (hin : s.inlineSpawn = false) :
    Claim.Raises (.spawn wt d a) s (s.illegal 0x11) := by
  refine raises_illegal_of_delay hd ha rfl ?_
  rw [hx]
  have hr : ¬ (x.toNat ≥ 2 ^ 56 ∨ (!s.here.task.leased x.toNat 256 .read) = true) := by
    rintro (h | h)
    · exact absurd hlt (Nat.not_lt.mpr h)
    · simp [hl] at h
  simp only [bind, Except.bind, hal, ne_eq, not_true_eq_false, if_false, hr, hin, pure, Except.pure]
  exact .bind (g := fun _ => Except.ok _) (require_failsFrom (by decide)) fun _ => trivial

end

end Sys2Proof.Machine

namespace Sys2Proof

open Sys2Proof.Machine

/-- Settles O9: closing the region keeps the state that a checkpoint captures; in a delay position a control-flow
instruction raises 0x11, where nothing of its slot has a lower detail. -/
theorem controlFlowInDelayPosition : Obligations.ControlFlowInDelayPosition := by
  refine ⟨fun s f n w a hd _ => exec_trn_control hd, fun s a imm x hd _ hx => exec_call_control hd hx, fun _ _ => rfl,
    fun s hwf hl => exec_checkpointBundle_captures hwf hl, fun s hd i hi => ?_, fun s hd i ha hi => ?_⟩
  · refine ⟨s.illegal 0x11, rfl, rfl, rfl, rfl, ?_⟩
    rcases hi with ⟨f, n, a, b, rfl⟩ | rfl | ⟨rfl, hp⟩ | ⟨a, imm, x, rfl, hx⟩ | ⟨k, a, imm, x, rfl, hx⟩ |
      ⟨ha, rfl | ⟨rfl, hj⟩ | ⟨wt, d, a, x, rfl, hx, hal, hlt, hl, hin⟩⟩
    · exact raises_trn hd
    · exact raises_lend hd
    · exact raises_exit hd hp
    · exact raises_call hd hx
    · exact raises_loop hd hx
    · exact raises_eret hd ha
    · exact raises_join hd ha hj
    · exact raises_spawn hd ha hx hal hlt hl hin
  · refine raises_of_delay ?_ hd ha
    rcases hi with ⟨f, n, a, b, rfl⟩ | ⟨a, imm, rfl⟩ | ⟨k, a, imm, rfl⟩ | rfl | rfl | rfl | rfl | ⟨wt, d, a, rfl⟩ <;> rfl

end Sys2Proof
end

section
/-! PROOF. Elements of numbers: what a number made of a list's elements holds in each, and the integer elements of
Table 6.4 as arithmetic on the elements. -/

namespace Sys2Proof

theorem eltN_lt (k x i : Nat) : eltN k x i < 2 ^ k := Nat.mod_lt _ (by positivity)

theorem packN_lt (k : Nat) : ∀ l : List Nat, packN k l < 2 ^ (k * l.length)
  | [] => by simp [packN]
  | e :: l => by
    have he : e % 2 ^ k < 2 ^ k := Nat.mod_lt _ (by positivity)
    have hl := packN_lt k l
    calc packN k (e :: l) < 2 ^ k * (packN k l + 1) := by rw [packN, Nat.mul_succ]; omega
      _ ≤ 2 ^ k * 2 ^ (k * l.length) := Nat.mul_le_mul_left _ hl
      _ = 2 ^ (k * (e :: l).length) := by rw [← pow_add, List.length_cons, Nat.mul_succ, Nat.add_comm]

theorem eltN_packN (k : Nat) : ∀ (l : List Nat) (i : Nat) (h : i < l.length), eltN k (packN k l) i = l[i] % 2 ^ k
  | e :: l, 0, _ => by simp [eltN, packN]
  | e :: l, i + 1, h => by
    have hdiv : packN k (e :: l) / 2 ^ k = packN k l := by
      rw [packN, Nat.add_mul_div_left _ _ (by positivity), Nat.div_eq_of_lt (Nat.mod_lt _ (by positivity)), Nat.zero_add]
    have hstep : eltN k (packN k (e :: l)) (i + 1) = eltN k (packN k l) i := by
      rw [eltN, Nat.mul_succ, Nat.add_comm, pow_add, ← Nat.div_div_eq_div_mul, hdiv, eltN]
    rw [hstep, eltN_packN k l i (Nat.lt_of_succ_lt_succ h), List.getElem_cons_succ]

@[simp] theorem length_tabulate {α : Type} (n : Nat) (f : Nat → α) : (tabulate n f).length = n := by simp [tabulate]

theorem map_tabulate {α β : Type} (n : Nat) (f : Nat → α) (g : α → β) :
    (tabulate n f).map g = tabulate n fun i => g (f i) := List.map_map

theorem packN_tabulate_lt (k n : Nat) (f : Nat → Nat) : packN k (tabulate n f) < 2 ^ (k * n) := by
  simpa using packN_lt k (tabulate n f)

theorem eltN_packN_tabulate (k n : Nat) (f : Nat → Nat) {i : Nat} (h : i < n) :
    eltN k (packN k (tabulate n f)) i = f i % 2 ^ k := by
  rw [eltN_packN k _ i (by simpa using h)]
  simp [tabulate]

theorem onesN_mod (k : Nat) : onesN k % 2 ^ k = 2 ^ k - 1 := Nat.mod_eq_of_lt (Nat.sub_lt (by positivity) Nat.one_pos)

theorem wrapN_natCast (k x : Nat) : wrapN k (x : Int) = x % 2 ^ k := by
  rw [wrapN, ← Int.natCast_mod, Int.toNat_natCast]

/-- Two elements of one size that read alike as signed are the same. -/
theorem sextN_inj {k x y : Nat} (hx : x < 2 ^ k) (hy : y < 2 ^ k) (h : sextN k x = sextN k y) : x = y := by
  simp only [sextN, Nat.mod_eq_of_lt hx, Nat.mod_eq_of_lt hy] at h
  by_cases hk : k = 0
  · subst hk; omega
  · rw [if_neg hk, if_neg hk] at h
    split at h <;> split at h <;> omega

namespace Vec

theorem add_eq (k x y : Nat) : add k x y = (x + y) % 2 ^ k := wrapN_natCast k (x + y)

theorem sub_eq {k y : Nat} (x : Nat) (hy : y < 2 ^ k) : sub k x y = (x + (2 ^ k - y)) % 2 ^ k := by
  have hcast : (x : Int) - y = ((x + (2 ^ k - y) : Nat) : Int) - ((2 ^ k : Nat) : Int) := by omega
  rw [← wrapN_natCast, sub, hcast, wrapN, wrapN, Int.sub_emod_right]

theorem satS_eq (k : Nat) (v : Int) : satS k v = wrapN k (satI v (-(2 ^ (k - 1) : Int)) (2 ^ (k - 1) - 1)) := by
  simp [satS]

theorem mulh_eq (k x y : Nat) : mulh k x y = wrapN k (sextN k x * sextN k y / (2 ^ k : Int)) := by simp [mulh]

theorem min_eq (k x y : Nat) : min k x y = if sextN k y < sextN k x then y else x := by
  simp only [min, ← not_lt, ite_not]

/-- Of two elements that read alike as signed it is no matter which one is taken: they are the same. -/
theorem max_eq {k x y : Nat} (hx : x < 2 ^ k) (hy : y < 2 ^ k) : max k x y = if sextN k x < sextN k y then y else x := by
  rcases lt_trichotomy (sextN k x) (sextN k y) with h | h | h
  · rw [max, if_pos h.le, if_pos h]
  · rw [max, if_pos h.le, if_neg h.not_lt, sextN_inj hx hy h]
  · rw [max, if_neg h.not_ge, if_neg h.not_gt]

theorem asr_eq (k x y : Nat) : asr k x y = wrapN k (sextN k x / (2 ^ Nat.min y (k - 1) : Int)) := by
  have hmin : (if y < k - 1 then y else k - 1) = Nat.min y (k - 1) := by
    split
    · next h => exact (Nat.min_eq_left h.le).symm
    · next h => exact (Nat.min_eq_right (Nat.le_of_not_lt h)).symm
  rw [asr, hmin]
  simp

/-- The table of shuffles by the number of the pattern (Table 6.6). -/
theorem shufElt_eq (k w x y i : Nat) : ∀ pat, shufElt k w pat x y i = Claim.shuffled k (w / k) pat x y i
  | 0 | 1 | 2 | n + 3 => by simp only [shufElt, Claim.shuffled]; split <;> simp_all

end Vec

end Sys2Proof
end

section
/-! PROOF. Vector lanes, O17 to O21: an element-by-element result and a compare's mask, once for all operations, and the
slot that sends them by the number of its operands. -/

namespace Sys2Proof.Machine

section
variable {k w act n : Nat}

/-- The union of the status of the active elements, whatever stands beside it in the list. -/
theorem foldl_status {α : Type} (z : α) (f : Nat → α × Word) :
    (tabulate n fun i => if Vec.active k act i then f i else (z, 0)).foldl (fun st p => st ||| p.2) 0 =
      laneStatus k act n fun i => (0, (f i).2) := by
  rw [tabulate, List.foldl_map, laneStatus]
  congr
  funext st i
  split <;> simp

/-- Each element of what an operation delivers, its bounds and its status. -/
theorem lanesAre_ewise (k w act : Nat) (f : Nat → Nat × Word) : LanesAre (Vec.ewise k w act f) k w act f where
  val_lt := by rw [Vec.ewise, map_tabulate]; exact packN_tabulate_lt ..
  elt i hi := by
    simp only [Vec.ewise, map_tabulate, eltN_packN_tabulate _ _ _ hi]
    split <;> simp
  mask_lt := packN_tabulate_lt ..
  on i hi := by
    simp only [Vec.ewise, Vec.activeBits, eltN_packN_tabulate _ _ _ hi]
    split <;> simp [onesN_mod]
  st := foldl_status 0 f

end

section
variable {s : State} {i : Instr} {k : Nat} {d : Dst} {a b c : Src} {mask : BitVec 4} {x y z : Nat}

/-! ## What is on its way -/

theorem sendsLanes_putV (left : Nat) (f : Nat → Nat × Word) :
    s.SendsLanes (s.putV d left (Vec.ewise k s.cur.width (s.act mask) f)) k left d mask f :=
  ⟨_, lanesAre_ewise .., rfl⟩

theorem sendsMask_push (m : BitVec 6) (f : Nat → Nat → Bool × Word) :
    let r := Vec.cmp k s.cur.width (s.act mask) x y f
    s.SendsMask (s.push 1 [.m (m.toNat % 16) (BitVec.ofNat 128 r.1) (BitVec.ofNat 128 (onesN (s.cur.width / 8)))] none r.2)
      k m mask fun i => f (eltN k x i) (eltN k y i) := by
  refine ⟨(Vec.cmp k s.cur.width (s.act mask) x y f).1, ?_, fun i hi => ?_, ?_⟩
  · rw [Vec.cmp, map_tabulate]
    exact packN_tabulate_lt ..
  · simp only [Vec.cmp, map_tabulate, eltN_packN_tabulate _ _ _ hi]
    cases Vec.active k (s.act mask) i <;> simp [apply_ite (· % 2 ^ (k / 8)), onesN_mod]
  · rw [push_withFlight]
    exact congrArg (fun st => s.withFlight ⟨1, _, none, st⟩) (foldl_status ..)

/-! ## A slot that acts -/

theorem both_bind {α β γ : Type} {p : Res α} {q : Res β} {v : α} {w : β} {g : α × β → Res γ} (hp : p = .ok v)
    (hq : q = .ok w) : (Res.both p q >>= g) = g (v, w) := by rw [both_ok hp hq]; rfl

theorem slot_sendsLanes {r : Res State} {left : Nat} {f : Nat → Nat × Word} (h : s.Acts i)
    (hr : r = .ok (s.putV d left (Vec.ewise k s.cur.width (s.act mask) f))) :
    ∃ u, s.slot i r = .next u ∧ s.SendsLanes u k left d mask f := by
  subst hr
  exact ⟨_, slot_ok h, sendsLanes_putV ..⟩

/-- An element operation `f` of two v operands, told by a `g` that agrees with it on elements. -/
theorem slot_vec2 {f g : Nat → Nat → Nat} (h : s.Acts i) (hx : s.srcV a s.cur.width k = .ok x)
    (hy : s.srcV b s.cur.width k = .ok y) (hfg : ∀ p q, p < 2 ^ k → q < 2 ^ k → f p q = g p q) :
    ∃ u, s.slot i (s.vec2 k d a b mask f) = .next u ∧
      s.SendsLanes u k 2 d mask fun j => (g (eltN k x j) (eltN k y j), 0) := by
  have hg : (fun j => (g (eltN k x j) (eltN k y j), (0 : Word))) = fun j => (f (eltN k x j) (eltN k y j), 0) :=
    funext fun j => by rw [hfg _ _ (eltN_lt ..) (eltN_lt ..)]
  rw [hg]
  exact slot_sendsLanes h (both_bind hx hy)

theorem slot_vfp2 {t : FpTy} (f : Fmt → Nat → Nat → Nat × Word) (h : s.Acts i)
    (hx : s.srcV a s.cur.width (fpFmt t).bits (fpOne t) = .ok x)
    (hy : s.srcV b s.cur.width (fpFmt t).bits (fpOne t) = .ok y) :
    ∃ u, s.slot i (s.vfp2 t d a b mask f) = .next u ∧ s.SendsLanes u (fpFmt t).bits 4 d mask fun j =>
      f (fpFmt t) (eltN (fpFmt t).bits x j) (eltN (fpFmt t).bits y j) :=
  slot_sendsLanes h (both_bind hx hy)

theorem slot_vspecial (fn : SpFn) (h : s.Acts i) (hx : s.srcV a s.cur.width 32 oneF32 = .ok x) :
    ∃ u, s.slot i (s.vspecial fn d a mask) = .next u ∧
      ({ s with free := s.free + 32 } : State).SendsLanes u 32 8 d mask fun j => fn.eval (s.free + j) (eltN 32 x j) := by
  rw [State.vspecial, hx]
  exact ⟨_, slot_ok h, sendsLanes_putV (s := { s with free := s.free + 32 }) ..⟩

theorem slot_vcmp {m : BitVec 6} {one : Word} (f : Nat → Nat → Bool × Word) (h : s.Acts i)
    (hx : s.srcV a s.cur.width k one = .ok x) (hy : s.srcV b s.cur.width k one = .ok y) :
    ∃ u, s.slot i (s.vcmp k m a b mask one f) = .next u ∧
      s.SendsMask u k m mask fun j => f (eltN k x j) (eltN k y j) := by
  rw [State.vcmp, both_ok hx hy]
  exact ⟨_, slot_ok h, sendsMask_push ..⟩

theorem exec_vfma {t : FpTy} (h : s.Acts (.vfma t d a b c mask))
    (hx : s.srcV a s.cur.width (fpFmt t).bits (fpOne t) = .ok x)
    (hy : s.srcV b s.cur.width (fpFmt t).bits (fpOne t) = .ok y)
    (hz : s.srcV c s.cur.width (fpFmt t).bits (fpOne t) = .ok z) :
    ∃ u, exec (.vfma t d a b c mask) s = .next u ∧ s.SendsLanes u (fpFmt t).bits 4 d mask fun j =>
      (fpFmt t).ffma (eltN (fpFmt t).bits x j) (eltN (fpFmt t).bits y j) (eltN (fpFmt t).bits z j) := by
  have hexec : exec (.vfma t d a b c mask) s = execVfma t d a b c mask s := rfl
  simp only [hexec, execVfma, both_ok hx (both_ok hy hz)]
  exact slot_sendsLanes h rfl

/-! ## Permutes, rotation and broadcast (R167, R173, R174, R183) -/

theorem exec_vsel {m : BitVec 6} (h : s.Acts (.vsel d a b m mask)) (hx : s.srcV a s.cur.width 8 = .ok x)
    (hy : s.srcV b s.cur.width 8 = .ok y) :
    ∃ u, exec (.vsel d a b m mask) s = .next u ∧ s.SendsLanes u 8 2 d mask fun j =>
      (if (s.mreg m.toNat).getLsbD j then eltN 8 x j else eltN 8 y j, 0) :=
  slot_sendsLanes h (both_bind hx hy)

theorem exec_vperm {sz : BitVec 2} (h : s.Acts (.vperm d a b sz mask)) (hx : s.srcV a s.cur.width (szBits sz) = .ok x)
    (hy : s.srcV b s.cur.width (szBits sz) = .ok y) :
    ∃ u, exec (.vperm d a b sz mask) s = .next u ∧ s.SendsLanes u (szBits sz) 2 d mask fun j =>
      (eltN (szBits sz) x (eltN (szBits sz) y j % (s.cur.width / szBits sz)), 0) :=
  slot_sendsLanes h (both_bind hx hy)

theorem exec_vshuf {pat : BitVec 3} {sz : BitVec 2} (h : s.Acts (.vshuf d a b pat sz mask))
    (hx : s.srcV a s.cur.width (szBits sz) = .ok x) (hy : s.srcV b s.cur.width (szBits sz) = .ok y) :
    ∃ u, exec (.vshuf d a b pat sz mask) s = .next u ∧ s.SendsLanes u (szBits sz) 2 d mask fun j =>
      (Claim.shuffled (szBits sz) (s.cur.width / szBits sz) pat.toNat x y j, 0) := by
  simp only [← Vec.shufElt_eq]
  exact slot_sendsLanes h (both_bind hx hy)

theorem exec_vrot {sz : BitVec 2} {r : Word} (h : s.Acts (.vrot d a b sz mask))
    (hx : s.srcV a s.cur.width (szBits sz) = .ok x) (hr : s.srcS b = .ok r) :
    ∃ u, exec (.vrot d a b sz mask) s = .next u ∧ s.SendsLanes u (szBits sz) 2 d mask fun j =>
      (eltN (szBits sz) x ((j + r.toNat) % (s.cur.width / szBits sz)), 0) :=
  slot_sendsLanes h (both_bind hx hr)

theorem exec_vbcast {sz : BitVec 2} {r : Word} (h : s.Acts (.vbcast d a sz mask)) (hr : s.srcS a = .ok r) :
    ∃ u, exec (.vbcast d a sz mask) s = .next u ∧
      s.SendsLanes u (szBits sz) 2 d mask fun _ => (r.toNat % 2 ^ szBits sz, 0) := by
  refine slot_sendsLanes h ?_
  rw [hr]
  rfl

end

end Sys2Proof.Machine

namespace Sys2Proof

open Sys2Proof.Machine

/-- Settles O17: each operation of Table 6.4 is its arithmetic on elements. -/
theorem vectorIntegerForms : Obligations.VectorIntegerForms := by
  refine ⟨fun f hf s t d a b mask x y h hx hy => ?_, fun s t d a b mask x y hx hy => ⟨fun h => ?_, fun h => ?_⟩,
    fun f hf s d a b mask x y h hx hy => ?_⟩
  · simp only [Claim.lanesInt, List.mem_cons, List.not_mem_nil, or_false] at hf
    rcases hf with rfl | rfl | rfl | rfl | rfl | rfl | rfl | rfl | rfl | rfl | rfl
    · exact slot_vec2 h hx hy fun p q _ _ => Vec.add_eq _ p q
    · exact slot_vec2 h hx hy fun p _ _ hq => Vec.sub_eq p hq
    · exact slot_vec2 h hx hy fun _ _ _ _ => Vec.satS_eq ..
    · exact slot_vec2 h hx hy fun _ _ _ _ => Vec.satS_eq ..
    · exact slot_vec2 h hx hy fun p q _ _ => Vec.min_eq _ p q
    · exact slot_vec2 h hx hy fun _ _ hp hq => Vec.max_eq hp hq
    · exact slot_vec2 h hx hy fun _ _ _ _ => rfl
    · exact slot_vec2 h hx hy fun _ _ _ _ => rfl
    · exact slot_vec2 h hx hy fun _ _ _ _ => rfl
    · exact slot_vec2 h hx hy fun _ _ _ _ => rfl
    · exact slot_vec2 h hx hy fun p q _ _ => Vec.asr_eq _ p q
  · exact slot_vec2 h hx hy fun _ _ _ _ => rfl
  · exact slot_vec2 h hx hy fun p q _ _ => Vec.mulh_eq _ p q
  · simp only [List.mem_cons, List.not_mem_nil, or_false] at hf
    rcases hf with rfl | rfl | rfl | rfl | rfl
    · exact slot_vec2 h hx hy fun _ _ _ _ => rfl
    · exact slot_vec2 h hx hy fun _ _ _ _ => rfl
    · exact slot_vec2 h hx hy fun _ _ _ _ => rfl
    · exact slot_vec2 (g := fun p _ => 255 - p) h hx rfl fun _ _ _ _ => rfl
    · exact slot_vec2 (g := fun p _ => p) h hx rfl fun _ _ _ _ => rfl

/-- Settles O18. -/
theorem vectorFloatForms : Obligations.VectorFloatForms := by
  refine ⟨fun f hf s t d a b mask x y h hx hy => ?_, fun s t d a b c mask x y z => exec_vfma⟩
  simp only [List.mem_cons, List.not_mem_nil, or_false] at hf
  rcases hf with rfl | rfl | rfl | rfl | rfl <;> exact slot_vfp2 _ h hx hy

/-- Settles O19. -/
theorem vectorSpecialFunctions : Obligations.VectorSpecialFunctions := by
  intro f hf s d a mask x h hx
  simp only [List.mem_cons, List.not_mem_nil, or_false] at hf
  rcases hf with rfl | rfl | rfl | rfl | rfl | rfl <;> exact slot_vspecial _ h hx

/-- Settles O20. -/
theorem vectorCompares : Obligations.VectorCompares := by
  refine ⟨fun f hf s t d a b mask x y h hx hy => ?_, fun f hf s t d a b mask x y h hx hy => ?_⟩
  · simp only [List.mem_cons, List.not_mem_nil, or_false] at hf
    rcases hf with rfl | rfl | rfl <;> exact slot_vcmp _ h hx hy
  · simp only [List.mem_cons, List.not_mem_nil, or_false] at hf
    rcases hf with rfl | rfl | rfl <;> exact slot_vcmp _ h hx hy

/-- Settles O21, an instruction at a time. -/
theorem vectorPermutes : Obligations.VectorPermutes := fun _ _ _ _ _ _ _ _ _ _ _ =>
  ⟨exec_vsel, exec_vperm, exec_vshuf, exec_vrot, exec_vbcast⟩

end Sys2Proof
end

section
/-! PROOF. Reductions and scans, O23: the integer sum of a line and of a balanced tree is that of its leaves modulo 2^32. -/

namespace Sys2Proof.Vec

theorem node_sum_int (x y : Nat) : node .sum false x y = ((x + y) % 2 ^ 32, 0) := by rw [node, add_eq]

theorem add_mod_add_modEq (x y n : Nat) : (x + y) % 2 ^ 32 + n ≡ x + (y + n) [MOD 2 ^ 32] := by
  rw [← Nat.add_assoc]
  exact (Nat.mod_modEq _ _).add_right n

theorem scanLine_sum_last : ∀ (l : List Nat) (t : Nat),
    (scanLine (node .sum false) t l).1.getLast?.getD t ≡ t + l.sum [MOD 2 ^ 32]
  | [], _ => Nat.ModEq.rfl
  | y :: l, t => by
    have hlast : (scanLine (node .sum false) t (y :: l)).1.getLast?.getD t =
        (scanLine (node .sum false) ((t + y) % 2 ^ 32) l).1.getLast?.getD ((t + y) % 2 ^ 32) := by
      simp [scanLine, node_sum_int, List.getLast?_cons]
    rw [hlast, List.sum_cons]
    exact (scanLine_sum_last l _).trans (add_mod_add_modEq t y l.sum)

theorem pairs_cons_cons (x y : Nat) (l : List Nat) :
    (pairs (node .sum false) (x :: y :: l)).1 = (x + y) % 2 ^ 32 :: (pairs (node .sum false) l).1 := by
  simp [pairs, node_sum_int]

/-- A level of the tree keeps the sum. -/
theorem pairs_sum : ∀ l : List Nat, (pairs (node .sum false) l).1.sum ≡ l.sum [MOD 2 ^ 32]
  | [] => Nat.ModEq.rfl
  | [_] => Nat.ModEq.rfl
  | x :: y :: l => by
    rw [pairs_cons_cons, List.sum_cons, List.sum_cons, List.sum_cons]
    exact ((pairs_sum l).add_left _).trans (add_mod_add_modEq x y l.sum)

/-- A level of the tree halves the number of elements. -/
theorem length_pairs : ∀ l : List Nat, 2 * (pairs (node .sum false) l).1.length ≤ l.length + 1
  | [] => by simp [pairs]
  | [_] => by simp [pairs]
  | x :: y :: l => by
    have hl := length_pairs l
    rw [pairs_cons_cons]
    simp only [List.length_cons]
    omega

theorem headD_eq_sum : ∀ {l : List Nat}, l.length ≤ 1 → l.headD 0 = l.sum
  | [], _ => rfl
  | [_], _ => (List.sum_singleton).symm

theorem tree_sum : ∀ (n : Nat) {l : List Nat}, l.length ≤ 2 ^ n → (tree (node .sum false) n l).1 ≡ l.sum [MOD 2 ^ 32]
  | 0, _, h => by rw [tree, headD_eq_sum h]
  | n + 1, l, h => by
    rw [tree]
    split
    · next h1 => rw [headD_eq_sum h1]
    · have hlen := length_pairs l
      have hhalf : (pairs (node .sum false) l).1.length ≤ 2 ^ n := by rw [pow_succ] at h; omega
      exact (tree_sum n hhalf).trans (pairs_sum l)

/-- Both orders give the sum of the inputs, for what is at most the tree's 64 leaves. -/
theorem reduce_sum_modEq (bal : Bool) {w : Nat} (hw : w / 32 ≤ 64) (act a : Nat) :
    (reduce .sum false bal w act a).val ≡ (inputs .sum false w act a).sum [MOD 2 ^ 32] := by
  cases bal with
  | true => exact tree_sum 6 (by simpa [inputs] using hw)
  | false =>
    have hsum : ∀ l : List Nat, l.headD 0 + l.tail.sum = l.sum
      | [] => rfl
      | _ :: _ => List.sum_cons.symm
    exact (scanLine_sum_last ..).trans (by rw [hsum])

/-- Element 0 of the reduction is the sum of the active elements. -/
theorem eltN_reduce_sum (bal : Bool) {w : Nat} (hw : w / 32 ≤ 64) (act a : Nat) :
    eltN 32 (reduce .sum false bal w act a).val 0 =
      ((List.range (w / 32)).map fun i => if active 32 act i then eltN 32 a i else 0).sum % 2 ^ 32 := by
  have helt : ∀ v, eltN 32 v 0 = v % 2 ^ 32 := fun v => by simp [eltN]
  rw [helt]
  exact reduce_sum_modEq bal hw act a

end Sys2Proof.Vec

namespace Sys2Proof.Machine

section
variable {s : State} {t : RedTy} {d : Dst} {a : Src} {mask : BitVec 4} {x : Nat}

theorem slot_vreduce {i : Instr} (op : Vec.RedOp) (h : s.Acts i)
    (hx : s.srcV a s.cur.width 32 (if t = .f32 then oneF32 else 1) = .ok x) :
    s.slot i (s.vreduce op t d a mask) = .next (s.withFlight (s.resultV d (if t = .f32 then 8 else 4)
      (Vec.reduce op (decide (t = .f32)) (Profile.of s.cur.profile).balanced s.cur.width (s.act mask) x))) := by
  simp only [State.vreduce, decide_eq_true_eq, hx]
  exact slot_ok h

theorem exec_vscan (h : s.Acts (.vscan t d a mask))
    (hx : s.srcV a s.cur.width 32 (if t = .f32 then oneF32 else 1) = .ok x) :
    exec (.vscan t d a mask) s = .next (s.withFlight (s.resultV d (if t = .f32 then 8 else 4)
      (Vec.scan (decide (t = .f32)) (Profile.of s.cur.profile).balanced s.cur.width (s.act mask) x))) := by
  have hexec : exec (.vscan t d a mask) s = execVscan t d a mask s := rfl
  simp only [hexec, execVscan, decide_eq_true_eq, hx]
  exact slot_ok h

end

end Sys2Proof.Machine

namespace Sys2Proof

open Sys2Proof.Machine

/-- Settles O23: a width has at most 32 elements, fewer than the tree's leaves. -/
theorem reductionsAndScans : Obligations.ReductionsAndScans := by
  refine ⟨fun f hf s t d a mask x h hx => ?_, fun s t d a mask x => exec_vscan, fun bal w act x hw =>
    Vec.eltN_reduce_sum bal ?_ act x⟩
  · simp only [List.mem_cons, List.not_mem_nil, or_false] at hf
    rcases hf with rfl | rfl | rfl <;> exact slot_vreduce _ h hx
  · simp only [List.mem_cons, List.not_mem_nil, or_false] at hw
    omega

end Sys2Proof
end

section
/-! PROOF. Conversions and block quantisation, O24: the oldest random word leaves the queue as the result sets out, in one
change of the context. -/

namespace Sys2Proof.Machine

section
variable {s : State} {t : BlkTy} {d : Dst} {a : Src} {part code e : BitVec 6} {ty : BitVec 2} {k0 : BitVec 3} {sr : Bool}
  {mask : BitVec 4} {x : Nat} {word : Word} {l : List Word}

theorem popWord_push (hwf : Tab.wf {} s.ctxs = true) (hq : s.here.a.rbq = word :: l) (left : Nat) (wr : List Wr)
    (latch : Option (Nat × LatchVal)) (st : Word) :
    s.popWord.push left wr latch st = s.withArch { s.here.a with
      rbq := l, popcnt := s.here.a.popcnt + 1, flight := s.here.a.flight ++ [⟨left, wr, latch, st⟩] } := by
  have htwo : s.popWord.push left wr latch st = (s.modCtx s.cur.ctx fun c => { c with a := c.a.popWord }).modCtx s.cur.ctx
      fun c => { c with a := { c.a with flight := c.a.flight ++ [⟨left, wr, latch, st⟩] } } := rfl
  have hrbq : (s.ctx s.cur.ctx).a.rbq = word :: l := hq
  rw [htwo, modCtx_modCtx hwf]
  simp only [State.modCtx, State.withArch, State.setCtx, Arch.popWord, hrbq, List.tail_cons]
  rfl

theorem randWord_cons (hq : s.here.a.rbq = word :: l) : s.randWord = word := by rw [State.randWord, hq, List.headD_cons]

theorem exec_vcvt_quiet (h : s.Acts (.vcvt d a part code mask)) (hd : Vec.cvtDraws code.toNat = false)
    (hx : s.srcV a s.cur.width (Vec.cvtOf code.toNat).1.bits (tyOne (Vec.cvtOf code.toNat).1) = .ok x) :
    exec (.vcvt d a part code mask) s = .next (s.withFlight (s.resultV d 3
      (Vec.cvt code.toNat part.toNat s.cur.width (s.act mask) x s.randWord))) := by
  have hexec : exec (.vcvt d a part code mask) s = execVcvt d a part code mask s := rfl
  simp only [hexec, execVcvt, hd, hx]
  exact slot_ok h

theorem exec_vcvt_draws (hwf : Tab.wf {} s.ctxs = true) (h : s.Acts (.vcvt d a part code mask))
    (hd : Vec.cvtDraws code.toNat = true) (hq : s.here.a.rbq = word :: l)
    (hx : s.srcV a s.cur.width (Vec.cvtOf code.toNat).1.bits (tyOne (Vec.cvtOf code.toNat).1) = .ok x) :
    exec (.vcvt d a part code mask) s = .next (s.withArch { s.here.a with
      rbq := l, popcnt := s.here.a.popcnt + 1
      flight := s.here.a.flight ++
        [s.resultV d 3 (Vec.cvt code.toNat part.toNat s.cur.width (s.act mask) x word)] }) := by
  have hexec : exec (.vcvt d a part code mask) s = execVcvt d a part code mask s := rfl
  simp only [hexec, execVcvt, hd, hx, hq, List.isEmpty_cons, randWord_cons hq]
  exact (slot_ok h).trans (congrArg _ (popWord_push hwf hq ..))

theorem exec_vqnt (hwf : Tab.wf {} s.ctxs = true) (h : s.Acts (.vqnt t d a e ty sr k0 mask))
    (hq : s.here.a.rbq = word :: l) (hfit : Vec.blkFits t ty.toNat s.cur.width k0.toNat = true)
    (hx : s.srcV a s.cur.width (Vec.blkSrc ty.toNat).bits (Fmt.oneBits (Vec.blkSrc ty.toNat)) = .ok x) :
    let q := Vec.qnt t ty.toNat s.cur.width k0.toNat (s.act mask) x sr word
    exec (.vqnt t d a e ty sr k0 mask) s = .next (s.withArch { s.here.a with
      rbq := l, popcnt := s.here.a.popcnt + 1
      flight := s.here.a.flight ++
        [⟨3, (s.resultV d 3 q.1).wr ++ [.e (e.toNat % 8) (BitVec.ofNat 128 q.2.1) (BitVec.ofNat 128 q.2.2)],
          (s.resultV d 3 q.1).latch, q.1.st⟩] }) := by
  have hexec : exec (.vqnt t d a e ty sr k0 mask) s = execVqnt t d a e ty sr k0 mask s := rfl
  simp only [hexec, execVqnt, hq, List.isEmpty_cons, require_ok hfit, hx, randWord_cons hq]
  exact (slot_ok h).trans (congrArg _ (popWord_push hwf hq ..))

theorem exec_vdq (h : s.Acts (.vdq t d a e ty k0 mask)) (hfit : Vec.blkFits t ty.toNat s.cur.width k0.toNat = true)
    (hx : s.srcV a s.cur.width 8 = .ok x) :
    exec (.vdq t d a e ty k0 mask) s = .next (s.withFlight (s.resultV d 3
      (Vec.dq t ty.toNat s.cur.width k0.toNat (s.act mask) x (s.ereg (e.toNat % 8)).toNat))) := by
  have hexec : exec (.vdq t d a e ty k0 mask) s = execVdq t d a e ty k0 mask s := rfl
  simp only [hexec, execVdq, require_ok hfit, hx]
  exact slot_ok h

end

end Sys2Proof.Machine

namespace Sys2Proof

open Sys2Proof.Machine

/-- Settles O24, an instruction at a time. -/
theorem conversionsAndQuantisation : Obligations.ConversionsAndQuantisation :=
  fun _ _ _ _ _ _ _ _ _ _ _ _ _ _ hwf => ⟨exec_vcvt_quiet, exec_vcvt_draws hwf, exec_vqnt hwf, exec_vdq⟩

end Sys2Proof
end

section
/-! PROOF. The array point, O26: an M instruction that is due, alone in flight, and writes accumulators only leaves no drain
write and raises no status; and MZERO writes each row of its bank, one after the other. -/

namespace Sys2Proof.Tab

theorem get_set {α : Type} [DecidableEq α] {d : α} {t : Tab α} (h : wf d t = true) (k j : Nat) (v : α) :
    get d (set d t k v) j = if j = k then v else get d t j := by
  split
  next hj => rw [hj, get_set_same h]
  next hj => exact get_set_other h hj

end Sys2Proof.Tab

namespace Sys2Proof.Machine

section
variable {s : State} {c : Nat} {a : Arch} {act : MAct} {rows : Tab (BitVec 8192)}

theorem arrayPoint_alone (hf : a.mflight = [⟨1, act⟩])
    (hact : ({ a with mflight := [] } : Arch).arrayAct act = ({ a with acc := rows, mflight := [] }, none, 0)) :
    a.arrayPoint = { a.raise 0 with acc := rows, mflight := [] } := by
  simp [Arch.arrayPoint, hf, hact, Arch.raise]

theorem exec_arrayPoint_alone (hf : (s.ctx c).a.mflight = [⟨1, act⟩])
    (hact : ({ (s.ctx c).a with mflight := [] } : Arch).arrayAct act =
      ({ (s.ctx c).a with acc := rows, mflight := [] }, none, 0)) :
    exec (.arrayPoint c) s = .next { s with
      ctxs := Tab.set {} s.ctxs c { s.ctx c with a := { (s.ctx c).a.raise 0 with acc := rows, mflight := [] } } } := by
  have hexec : exec (.arrayPoint c) s = .next (s.modArch c Arch.arrayPoint) := rfl
  rw [hexec, modArch_eq, arrayPoint_alone hf hact]
  rfl

theorem get_zeroBank {t : Tab (BitVec 8192)} (h : Tab.wf 0 t = true) (bank r : Nat) :
    Tab.get 0 ((List.range 128).foldl (fun t n => Tab.set 0 t (bank * 128 + n) 0) t) r =
      if bank * 128 ≤ r ∧ r < bank * 128 + 128 then 0 else Tab.get 0 t r := by
  have hrows : (List.range 128).foldl (fun t n => Tab.set 0 t (bank * 128 + n) 0) t =
      (List.range' (bank * 128) 128).foldl (fun t n => Tab.set 0 t n 0) t := by
    rw [List.range'_eq_map_range, List.foldl_map]
  rw [hrows, get_foldl_set (fun _ => 0) r _ h]
  exact if_congr List.mem_range'_1 rfl rfl

end

end Sys2Proof.Machine

namespace Sys2Proof

open Sys2Proof.Machine

/-- Settles O26: the rows are those of `Arch.arrayAct`, MZERO's all of its bank's and MLOAD's the one. -/
theorem arrayPointActs : Obligations.ArrayPointActs := by
  refine fun s c bank hwf => ⟨fun hzero => ?_, fun row img hload => ?_⟩
  · exact ⟨_, exec_arrayPoint_alone hzero rfl, get_zeroBank hwf bank⟩
  · exact ⟨_, exec_arrayPoint_alone hload rfl, fun r => Tab.get_set hwf (bank * 128 + row) r img⟩

end Sys2Proof
end

section
/-! PROOF. Commands at issue, O27: two writes of a context that leave something in it, whatever the form of the table, and the
nine C instructions as one. -/

namespace Sys2Proof.Tab

section
variable {α : Type} {d : α} {k : Nat} {v w : α}

theorem ins_ins (t : Tab α) : ins (ins t k v) k w = ins t k w := by
  induction t with
  | nil => simp [ins]
  | cons p t ih =>
    obtain ⟨j, u⟩ := p
    rcases Nat.lt_trichotomy k j with hlt | rfl | hgt
    · simp [ins, Nat.ne_of_lt hlt, hlt]
    · simp [ins]
    · simp [ins, Nat.ne_of_gt hgt, Nat.lt_asymm hgt, ih]

/-- Of two writes of one entry, neither of which removes it, the later stays. -/
theorem set_set_of_ne [DecidableEq α] {t : Tab α} (hv : v ≠ d) (hw : w ≠ d) : set d (set d t k v) k w = set d t k w := by
  rw [set_of_ne hv, set_of_ne hw, set_of_ne hw, ins_ins]

end

end Sys2Proof.Tab

namespace Sys2Proof.Machine

section
variable {s : State} {i : Instr} {m : Cmd} {op : Nat} {o : COps} {check : Cmd → Res Unit}

/-- Two changes of one context, neither of which leaves it as at reset, are one. -/
theorem modCtx_modCtx_of_ne {c : Nat} {f g : Ctx → Ctx} (hf : f (s.ctx c) ≠ {}) (hg : g (f (s.ctx c)) ≠ {}) :
    (s.modCtx c f).modCtx c g = s.modCtx c fun x => g (f x) := by
  have hctx : (s.modCtx c f).ctx c = f (s.ctx c) := setCtx_ctx_ne s c hf
  rw [State.modCtx, hctx]
  simp only [State.modCtx, State.setCtx, Tab.set_set_of_ne hf hg]

/-! ## Where a command goes (R225, R228) -/

theorem send_held (h : m.held = true) : s.send m = s.modCtx s.cur.ctx fun x =>
    { x with cbuf := x.cbuf ++ [.copy s.engine m], seq := x.seq + 1 } := by
  have hne (x : Ctx) (l : List Eff) : x.cbuf = l ++ [.copy s.engine m] → x ≠ {} := by rintro hx rfl; simp at hx
  rw [State.send, if_pos h]
  exact modCtx_modCtx_of_ne (hne _ _ rfl) (hne _ _ rfl)

theorem enqueue_cmds_ne_nil (x : Ctx) (eng : Nat) : (x.enqueue eng m).cmds ≠ [] := by
  unfold Ctx.enqueue Ctx.cmds
  split <;> simp

theorem send_queued (h : m.held = false) : s.send m = s.modCtx s.cur.ctx fun x =>
    { x.enqueue s.engine m with seq := x.seq + 1 } := by
  have hne (x y : Ctx) : x.cmds = (y.enqueue s.engine m).cmds → x ≠ {} := by
    rintro hx rfl
    exact enqueue_cmds_ne_nil y _ hx.symm
  have hseq (x : Ctx) : (x.enqueue s.engine m).seq = x.seq := by unfold Ctx.enqueue; split <;> rfl
  rw [State.send, if_neg (by simp [h])]
  refine (modCtx_modCtx_of_ne (hne _ _ rfl) (hne _ _ rfl)).trans ?_
  simp only [hseq]

/-- One change of the issuing context, field by field. -/
theorem send_eq : s.send m = { s with ctxs := Tab.set {} s.ctxs s.cur.ctx { s.here with
    seq := s.here.seq + 1
    cbuf := if m.held then s.here.cbuf ++ [.copy s.engine m] else s.here.cbuf
    q0 := if m.held = false ∧ s.engine = 0 then s.here.q0 ++ [m] else s.here.q0
    q1 := if m.held = false ∧ s.engine = 1 then s.here.q1 ++ [m] else s.here.q1 } } := by
  cases h : m.held with
  | true =>
    rw [send_held h]
    rfl
  | false =>
    rw [send_queued h]
    have heng : s.engine = 0 ∨ s.engine = 1 := by unfold State.engine; split <;> simp
    rcases heng with he | he <;> simp [he, State.modCtx, State.setCtx, State.here, Ctx.enqueue]

/-! ## Issue (R225, R234) -/

theorem issueCmd_ok (h : s.Acts i) (hroom : (s.command op o).held = true ∨ s.here.queueLen s.engine < 8)
    (hc : check (s.command op o) = .ok ()) : s.issueCmd i op o check = .next (s.send (s.command op o)) := by
  unfold State.issueCmd
  rw [if_neg (by rcases hroom with hr | hr <;> simp [hr]), hc]
  exact slot_ok h

theorem issueCmd_full (h : s.Acts i) (hheld : (s.command op o).held = false) (hfull : 8 ≤ s.here.queueLen s.engine) :
    s.issueCmd i op o check = .next s := by
  unfold State.issueCmd
  rw [if_pos (by simp [h, hheld, hfull])]

theorem exec_command {f : (COps → Instr) × Nat × (State → COps → Cmd → Res Unit)} (hf : f ∈ Claim.commands) (s : State)
    (o : COps) : exec (f.1 o) s = s.issueCmd (f.1 o) f.2.1 o (f.2.2 s o) := by
  simp only [Claim.commands, List.mem_cons, List.not_mem_nil, or_false] at hf
  rcases hf with rfl | rfl | rfl | rfl | rfl | rfl | rfl | rfl | rfl <;> rfl

end

end Sys2Proof.Machine

namespace Sys2Proof

open Sys2Proof.Machine

/-- Settles O27: every C instruction issues through `State.issueCmd`, which sends the command that passes its check. -/
theorem commandsIssue : Obligations.CommandsIssue := fun _ hf s o hacts =>
  ⟨fun hroom hc => (exec_command hf s o).trans ((issueCmd_ok hacts hroom hc).trans (congrArg _ send_eq)),
    fun hheld hfull => (exec_command hf s o).trans (issueCmd_full hacts hheld hfull)⟩

end Sys2Proof
end

section
/-! PROOF. Counting flags, O28: the wait of a Y instruction, and a post to the issuer or to another member. -/

namespace Sys2Proof.Machine

section
variable {s : State} {i : Instr} {f n k : Nat} {done : State → State} {fl : BitVec 4} {amount : BitVec 8}

theorem flagMet_iff : s.flagMet f n = true ↔ n ≤ (Tab.get 0 s.here.a.f f).toNat := decide_eq_true_iff

theorem flagWait_met (h : s.Acts i) (hn : n ≤ (Tab.get 0 s.here.a.f f).toNat) :
    s.flagWait i f n done = .next (done (s.subFlag f n)) := by
  unfold State.flagWait
  rw [if_neg (by simp [h]), if_pos (flagMet_iff.mpr hn)]

theorem flagWait_waits (h : s.Acts i) (hn : ¬ n ≤ (Tab.get 0 s.here.a.f f).toNat) : s.flagWait i f n done = .next s := by
  unfold State.flagWait
  rw [if_neg (by simp [h]), if_neg fun hm => hn (flagMet_iff.mp hm)]

theorem flagWait_id (h : s.Acts i) : s.flagWait i f n id =
    .next (if n ≤ (Tab.get 0 s.here.a.f f).toNat then s.subFlag f n else s) := by
  split
  next hn => exact flagWait_met h hn
  next hn => exact flagWait_waits h hn

theorem exec_fbar (hk : s.cur.ckpt = true) (h : s.Acts (.fbar fl amount)) : exec (.fbar fl amount) s =
    (s.barOpen fl.toNat).flagWait (.fbar fl amount) fl.toNat (amount.toNat + 1) id := by
  change execFbar fl amount s = _
  unfold execFbar
  rw [if_neg (by simp [hk]), if_neg (by simp [h])]

/-- A post to the issuer adds one to its flag; one to another member is held (R251). -/
theorem slot_post (h : s.Acts i) : s.slot i (s.post1 f (some k)) =
    .next (if k = s.here.task.member then s.addFlag f 1 else s.withHeld (.fpost f k s.here.seq)) := slot_ok h

end

end Sys2Proof.Machine

namespace Sys2Proof

open Sys2Proof.Machine

/-- Settles O28, an instruction at a time. -/
theorem countingFlagForms : Obligations.CountingFlagForms := by
  refine fun s f n7 n8 m dy dx => ⟨flagWait_met, flagWait_waits, flagWait_met, flagWait_waits, fun h => slot_ok h,
    fun h => slot_ok h, fun h hm => ?_, fun k h hk => ?_, fun u hckpt h hu hacts => ?_⟩
  · have hpost : s.here.task.postMember m.toNat = some m.toNat := if_pos hm
    change s.slot _ (s.post1 _ (s.here.task.postMember m.toNat)) = _
    rw [hpost]
    exact slot_post h
  · change s.slot _ (s.post1 _ (s.here.task.postRel dx dy)) = _
    rw [hk]
    exact slot_post h
  · rw [exec_fbar hckpt h, ← hu]
    exact flagWait_id hacts

end Sys2Proof
end

section
/-! PROOF. Events of the copy engines, O47: the head of a queue past what it waits for, a granule of a copy, a fragment of a
fabric command, its completion, and the arrival of a post. -/

namespace Sys2Proof.Machine

/-! ## The granule that a copy moves (R227) -/

/-- The element at which the next granule of a copy ends. -/
def Cmd.granuleEnd (m : Cmd) : Nat := Nat.min (Nest.count m.src) (m.moved + granuleSize (Nest.size m.src))

/-- The elements of the next granule of a copy. -/
def State.granule (s : State) (c : Nat) (m : Cmd) : List (Place × List Place) :=
  ((s.elements c m).drop m.moved).take (m.granuleEnd - m.moved)

/-- The moves of the next granule, and the first reason to stop: a CFILL's of its pattern, another copy's of its sources. -/
def State.granuleMoves (s : State) (c : Nat) (m : Cmd) : State × List Move × Option CmdStop :=
  if m.op = 5 then s.fillMoves c (Nest.size m.src) (fillBytes (Nest.size m.src) (m.word 1)) m.moved (s.granule c m)
  else s.moves c (Nest.size m.src) (Cw.hint m.cw) m.moved (s.granule c m)

section
variable {s v : State} {c eng : Nat} {m : Cmd} {ms : List Move} {e : CmdStop}

theorem granuleMoves_fill (hop : m.op = 5) : s.granuleMoves c m =
    s.fillMoves c (Nest.size m.src) (fillBytes (Nest.size m.src) (m.word 1)) m.moved (s.granule c m) := if_pos hop

theorem granuleMoves_copy (hop : m.op ≠ 5) : s.granuleMoves c m =
    s.moves c (Nest.size m.src) (Cw.hint m.cw) m.moved (s.granule c m) := if_neg hop

theorem runCopy_no_member (hop : m.op = 3) (hmem : m.members = []) :
    s.runCopy c eng m = .completed (s.completeCmd c m) := by
  unfold State.runCopy
  exact if_pos ⟨hop, hmem⟩

/-- A granule is moved whole: CPREF apart, and a CMCAST to no member. -/
theorem runCopy_performed (hop : m.op ≠ 6) (hmem : m.op = 3 → m.members ≠ []) (h : s.granuleMoves c m = (v, ms, none)) :
    s.runCopy c eng m = (v.performMoves c m ms).progress c m m.granuleEnd (Nest.count m.src) := by
  have hmem' : ¬ (m.op = 3 ∧ m.members = []) := fun ⟨h3, hl⟩ => hmem h3 hl
  simp only [State.granuleMoves, State.granule, Cmd.granuleEnd] at h
  simp only [State.runCopy, if_neg hmem', h, Cmd.granuleEnd]

/-- A granule meets its first bad element: some of its moves are made, and the command stops (R244). -/
theorem runCopy_stopped (hop : m.op ≠ 6) (hmem : m.op = 3 → m.members ≠ []) (h : s.granuleMoves c m = (v, ms, some e)) :
    s.runCopy c eng m =
      .stopped (((v.someMoves ms).1.performMoves c m (v.someMoves ms).2).stopCmd c eng m e) := by
  have hmem' : ¬ (m.op = 3 ∧ m.members = []) := fun ⟨h3, hl⟩ => hmem h3 hl
  simp only [State.granuleMoves, State.granule, Cmd.granuleEnd] at h
  simp only [State.runCopy, if_neg hmem', h]

theorem runCopy_prefetched (hop : m.op = 6)
    (h : s.prefetch c (Nest.size m.src) (Cw.hint m.cw) (s.granule c m) = (v, none)) :
    s.runCopy c eng m = v.progress c m m.granuleEnd (Nest.count m.src) := by
  simp only [State.granule, Cmd.granuleEnd] at h
  simp [State.runCopy, hop, h, Cmd.granuleEnd]

theorem runCopy_prefetch_stopped (hop : m.op = 6)
    (h : s.prefetch c (Nest.size m.src) (Cw.hint m.cw) (s.granule c m) = (v, some e)) :
    s.runCopy c eng m = .stopped (v.stopCmd c eng m e) := by
  simp only [State.granule, Cmd.granuleEnd] at h
  simp [State.runCopy, hop, h]

/-! ## A fabric command (R434, R436, R439) -/

theorem fragments_of_len_zero (h : m.fabricLen = 0) : m.fragments = [] := by
  unfold Cmd.fragments
  rw [h]
  exact if_pos rfl

/-- Every fragment is sent, and none is outstanding. -/
theorem runFabric_sent (hf : m.fragments[m.moved]? = none)
    (hg : ∀ g ∈ s.frags, ¬ (g.uid = (s.ctx c).task.uid ∧ g.member = (s.ctx c).task.member ∧ g.seq = m.seq)) :
    s.runFabric c eng m = .completed ((if m.fabricLen = 0 then s.emptyAck c m else s).completeCmd c m) := by
  have hnone : (s.frags.any fun g => g.isOf (s.ctx c) m) = false :=
    List.any_eq_false.mpr fun g hmem hof => hg g hmem (by simpa [Frag.isOf, and_assoc] using hof)
  simp [State.runFabric, hf, hnone]

section
variable {f : Nat × Nat}

/-- A fragment that its region's credit admits is sent; the last completes the command, unless it is a GET. -/
theorem runFabric_sends {d : List Byte} (hf : m.fragments[m.moved]? = some f) (hd : s.fragData c m f = (v, .ok d))
    (ha : v.fabAdmits (s.ctx c).task.region
      (v.injectBytes (v.fragPacket m f (decide (m.moved + 1 = m.fragments.length)) d)) = true) :
    let w := v.sendFrag c eng m f (decide (m.moved + 1 = m.fragments.length)) d
    s.runFabric c eng m =
      if m.op = 8 then .moved (w.modCtx c fun x => x.modCmd m.seq fun z => { z with moved := m.moved + 1 })
      else w.progress c m (m.moved + 1) m.fragments.length := by
  simp [State.runFabric, hf, hd, ha]

theorem runFabric_stopped (hf : m.fragments[m.moved]? = some f) (hd : s.fragData c m f = (v, .error e)) :
    s.runFabric c eng m = .stopped (v.stopCmd c eng m e) := by
  simp [State.runFabric, hf, hd]

end

/-! ## The head of a queue, past what it waits for (R226) -/

section
variable {q : List Cmd}

theorem members_of_fabric (hf : m.fabric = true) : m.members = [] := by
  have hop : 7 ≤ m.op := of_decide_eq_true hf
  have h3 : m.op ≠ 3 := by omega
  have h4 : m.op ≠ 4 := by omega
  simp [Cmd.members, h3, h4]

theorem all_members_there (hm : ∀ k ∈ m.members, (s.memberAt c k).isSome = true) :
    (m.members.any fun k => (s.memberAt c k).isNone) = false :=
  List.any_eq_false.mpr fun k hk => by simpa [Option.isSome_iff_ne_none] using hm k hk

theorem xord_met (hx : m.xord = false ∨ (s.ctx c).otherBusy eng m = false) :
    (m.xord && (s.ctx c).otherBusy eng m) = false := Bool.and_eq_false_iff.mpr hx

variable (hq : (s.ctx c).queued eng = m :: q)
include hq

section
variable (hm : ∀ k ∈ m.members, (s.memberAt c k).isSome = true) (hf : m.fabric = false)
include hm hf

theorem runHead_copy_goes_on (hs : m.started = true) : s.runHead c eng = s.runCopy c eng m := by
  simp [State.runHead, hq, hs, hf, all_members_there hm]

theorem runHead_copy_starts (hs : m.started = false) (hx : m.xord = false ∨ (s.ctx c).otherBusy eng m = false) :
    s.runHead c eng =
      (s.startCmd c m 0).runCopy c eng ((((s.startCmd c m 0).ctx c).queued eng).headD m) := by
  simp [State.runHead, hq, hs, hf, all_members_there hm, xord_met hx]

end

variable (hf : m.fabric = true)
include hf

theorem runHead_fabric_goes_on (hs : m.started = true) : s.runHead c eng = s.runFabric c eng m := by
  simp [State.runHead, hq, hs, hf, members_of_fabric hf]

variable (hs : m.started = false) (hx : m.xord = false ∨ (s.ctx c).otherBusy eng m = false)
include hs hx

theorem runHead_fabric_empty (hlen : m.fabricLen = 0) : s.runHead c eng = s.runFabric c eng m := by
  simp [State.runHead, hq, hs, hf, hlen, xord_met hx, members_of_fabric hf]

theorem runHead_fabric_starts {h : BitVec 256} (hlen : m.fabricLen ≠ 0) (hh : s.readHandle c m = (v, .ok h)) :
    s.runHead c eng = .moved (v.startCmd c m h) := by
  simp [State.runHead, hq, hs, hf, hlen, xord_met hx, hh, members_of_fabric hf]

theorem runHead_fabric_stopped (hlen : m.fabricLen ≠ 0) (hh : s.readHandle c m = (v, .error e)) :
    s.runHead c eng = .stopped (v.stopCmd c eng m e) := by
  simp [State.runHead, hq, hs, hf, hlen, xord_met hx, hh, members_of_fabric hf]

end

end

/-! ## The event of an engine (R227, R242, R244) -/

section
variable {s u v t : State} {c eng n total : Nat} {m : Cmd}

/-- The turn of an engine changes its core alone. -/
theorem passTurn_ctx (k : Nat) : (s.passTurn k eng).ctx c = s.ctx c := by
  unfold State.passTurn
  split <;> rfl

variable (hc : s.chosen (coreOf c) eng = some c) (hu : s.passTurn (coreOf c) eng = u)
include hc hu

theorem exec_copyCompletion_moved (hr : u.runHead c eng = .moved t) : exec (.copyCompletion c eng) s = .next t := by
  change execCopyCompletion c eng s = _
  simp [execCopyCompletion, hc, hu, hr]

theorem exec_copyCompletion_completed (hr : u.runHead c eng = .completed t) :
    exec (.copyCompletion c eng) s = .next t := by
  change execCopyCompletion c eng s = _
  simp [execCopyCompletion, hc, hu, hr]

theorem exec_copyCompletion_progress (hr : u.runHead c eng = v.progress c m n total) :
    exec (.copyCompletion c eng) s = .next (if total ≤ n then v.completeCmd c m
      else v.modCtx c fun x => x.modCmd m.seq fun z => { z with moved := n }) := by
  unfold State.progress at hr
  by_cases hn : total ≤ n
  · rw [if_pos hn] at hr ⊢
    exact exec_copyCompletion_completed hc hu hr
  · rw [if_neg hn] at hr ⊢
    exact exec_copyCompletion_moved hc hu hr

theorem exec_copyStop_stopped (hr : u.runHead c eng = .stopped t) : exec (.copyStop c eng) s = .next t := by
  change execCopyStop c eng s = _
  simp [execCopyStop, hc, hu, hr]

/-- The event that moves a granule: the last completes the command, and a bad element stops it. -/
theorem exec_granule (hr : u.runHead c eng = t.runCopy c eng m) (hop : m.op ≠ 6) (hmem : m.op = 3 → m.members ≠ []) :
    (∀ v ms, t.granuleMoves c m = (v, ms, none) → exec (.copyCompletion c eng) s = .next (
      if Nest.count m.src ≤ m.granuleEnd then (v.performMoves c m ms).completeCmd c m
      else (v.performMoves c m ms).modCtx c fun x => x.modCmd m.seq fun z => { z with moved := m.granuleEnd })) ∧
    ∀ v ms e, t.granuleMoves c m = (v, ms, some e) → exec (.copyStop c eng) s =
      .next (((v.someMoves ms).1.performMoves c m (v.someMoves ms).2).stopCmd c eng m e) :=
  ⟨fun _ _ h => exec_copyCompletion_progress hc hu (hr.trans (runCopy_performed hop hmem h)),
    fun _ _ _ h => exec_copyStop_stopped hc hu (hr.trans (runCopy_stopped hop hmem h))⟩

/-- The event that sends a fragment: the last completes the command, unless it is a GET. -/
theorem exec_copyCompletion_sends {f : Nat × Nat} {d : List Byte} (hr : u.runHead c eng = u.runFabric c eng m)
    (hf : m.fragments[m.moved]? = some f) (hd : u.fragData c m f = (v, .ok d))
    (ha : v.fabAdmits (u.ctx c).task.region
      (v.injectBytes (v.fragPacket m f (decide (m.moved + 1 = m.fragments.length)) d)) = true) :
    let w := v.sendFrag c eng m f (decide (m.moved + 1 = m.fragments.length)) d
    exec (.copyCompletion c eng) s = .next (
      if m.op ≠ 8 ∧ m.fragments.length ≤ m.moved + 1 then w.completeCmd c m
      else w.modCtx c fun x => x.modCmd m.seq fun z => { z with moved := m.moved + 1 }) := by
  have hr := hr.trans (runFabric_sends (eng := eng) hf hd ha)
  by_cases h8 : m.op = 8
  · rw [if_pos h8] at hr
    simpa [h8] using exec_copyCompletion_moved hc hu hr
  · rw [if_neg h8] at hr
    simpa [h8] using exec_copyCompletion_progress hc hu hr

end

/-! ## Completion and posts (R242, R243, R246, R247) -/

section
variable {s : State} {c : Nat} {m : Cmd}

theorem localPost_eq (x : Ctx) (m : Cmd) : x.localPost m = { x with
    a := if Cw.lpost m.cw && x.busy && !x.exited then { x.a with f := Tab.set 0 x.a.f m.flag (Tab.get 0 x.a.f m.flag + 1) }
      else x.a } := by
  unfold Ctx.localPost
  split <;> rfl

/-- Without a remote post a completion changes the issuing context alone. -/
theorem completeCmd_eq (h : m.posted = []) :
    s.completeCmd c m = s.setCtx c (((s.ctx c).dequeue m.seq).localPost m) := by
  unfold State.completeCmd
  rw [h]
  rfl

/-- The context that holds a member runs the task; a post whose turn it is reaches it there. -/
theorem exec_flagPostArrival_running {k : Nat} {p : Post} (hk : s.posts[k]? = some p) (hfirst : s.postFirst k p = true)
    (hfind : s.ctxs.find? (fun q => q.2.live && q.2.task.uid = p.uid && q.2.task.member = p.member) = some (c, s.ctx c))
    (hb : (s.ctx c).busy = true) (huid : (s.ctx c).task.uid = p.uid) (hmem : (s.ctx c).task.member = p.member) :
    exec (.flagPostArrival k) s =
      .next (({ s with posts := s.posts.eraseIdx k } : State).modCtx c fun x => x.arrive p.flag) := by
  have hany : (s.ctxs.any fun q => q.2.busy && q.2.task.uid = p.uid && q.2.task.member = p.member) = true :=
    List.any_eq_true.mpr ⟨_, List.mem_of_find?_eq_some hfind, by simp [hb, huid, hmem]⟩
  have htask : s.hasTask p.uid p.member = true := by
    unfold State.hasTask
    rw [hany, Bool.true_or]
  change execFlagPostArrival k s = _
  simp [execFlagPostArrival, hk, hfirst, htask, State.modTask, hfind, dropNth]

end

end Sys2Proof.Machine

namespace Sys2Proof

open Sys2Proof.Machine

/-- Settles O47: the head of the queue runs past its waits, and its event is the outcome of `State.runCopy` or
`State.runFabric`. -/
theorem copyEvents : Obligations.CopyEvents := by
  refine ⟨fun s u t c eng m y q hq hc hu hm hf hstart => ?_, fun s u c eng m q hq hc hu hf => ?_,
    fun s c m hp => ⟨_, (completeCmd_eq hp).trans (by rw [localPost_eq]; rfl), rfl, rfl, rfl⟩,
    fun s k c p hk hfirst hfind hb huid hmem => exec_flagPostArrival_running hk hfirst hfind hb huid hmem⟩
  · replace hq : (u.ctx c).queued eng = m :: q := by rw [← hu, passTurn_ctx, hq]
    have hr : u.runHead c eng = t.runCopy c eng y := by
      rcases hstart with ⟨hs, rfl, rfl⟩ | ⟨hs, hx, rfl, rfl⟩
      · exact runHead_copy_goes_on hq hm hf hs
      · exact runHead_copy_starts hq hm hf hs hx
    refine ⟨fun hop hmem => ?_, fun hop hmem => ?_, fun hop => ?_, fun hop => ⟨fun v hv => ?_, fun v e hv => ?_⟩⟩
    · simp only [List.mem_cons, List.not_mem_nil, or_false] at hop
      have h5 : y.op ≠ 5 := by omega
      have h6 : y.op ≠ 6 := by omega
      exact granuleMoves_copy (s := t) (c := c) h5 ▸ exec_granule hc hu hr h6 hmem
    · exact exec_copyCompletion_completed hc hu (hr.trans (runCopy_no_member hop hmem))
    · have h6 : y.op ≠ 6 := by omega
      exact granuleMoves_fill (s := t) (c := c) hop ▸ exec_granule hc hu hr h6 (by omega)
    · exact exec_copyCompletion_progress hc hu (hr.trans (runCopy_prefetched hop hv))
    · exact exec_copyStop_stopped hc hu (hr.trans (runCopy_prefetch_stopped hop hv))
  · replace hq : (u.ctx c).queued eng = m :: q := by rw [← hu, passTurn_ctx, hq]
    refine ⟨fun hs hx hlen => ⟨fun v h hh => ?_, fun v e hh => ?_⟩, fun hs hx hlen hg hmoved => ?_,
      fun hs hlen hsent h8 hg => ?_, fun hs f hfrag => ⟨fun v d hd ha => ?_, fun v e hd => ?_⟩⟩
    · exact exec_copyCompletion_moved hc hu (runHead_fabric_starts hq hf hs hx hlen hh)
    · exact exec_copyStop_stopped hc hu (runHead_fabric_stopped hq hf hs hx hlen hh)
    · have hsent : m.fragments[m.moved]? = none := by rw [fragments_of_len_zero hlen]; rfl
      have hr := (runHead_fabric_empty hq hf hs hx hlen).trans (runFabric_sent hsent hg)
      rw [if_pos hlen] at hr
      exact exec_copyCompletion_completed hc hu hr
    · have hr := (runHead_fabric_goes_on hq hf hs).trans (runFabric_sent hsent hg)
      rw [if_neg hlen] at hr
      exact exec_copyCompletion_completed hc hu hr
    · exact exec_copyCompletion_sends hc hu (runHead_fabric_goes_on hq hf hs) hfrag hd ha
    · exact exec_copyStop_stopped hc hu ((runHead_fabric_goes_on hq hf hs).trans (runFabric_stopped hfrag hd))

end Sys2Proof
end

section
/-! PROOF. Taking a fault and returning from a trap, O35 and O36: with no M instruction and no drain in flight the array has
nothing to finish, so that trap entry and ERET each change one context. -/

namespace Sys2Proof.Tab

section
variable {α : Type} [DecidableEq α] {d : α} {t : Tab α} {k : Nat} {v : α}

/-- What an entry reads as, written again. -/
theorem set_get_self (h : wf d t = true) (k : Nat) : set d t k (get d t k) = t := by
  refine eq_of_get (wf_set h) h fun a => ?_
  by_cases ha : a = k
  · rw [ha, get_set_same h]
  · rw [get_set_other h ha]

omit [DecidableEq α] in
/-- An entry that reads as something stays when another one is removed, whatever the form of the table. -/
theorem get_del_of_get_ne {a : Nat} (ha : a ≠ k) (h : get d t a ≠ d) : get d (del t k) a = get d t a := by
  induction t with
  | nil => rfl
  | cons p t ih =>
    obtain ⟨j, w⟩ := p
    simp only [get] at h
    rcases Nat.lt_trichotomy a j with hlt | rfl | hgt
    · simp [Nat.ne_of_lt hlt, hlt] at h
    · simp only [del, if_neg (Ne.symm ha)]
      split <;> simp [get]
    · simp only [Nat.ne_of_gt hgt, Nat.lt_asymm hgt, if_false] at h
      rw [get_cons_gt hgt]
      simp only [del]
      split
      · rfl
      · split
        · rw [get_cons_gt hgt]
        · rw [get_cons_gt hgt, ih h]

theorem get_set_of_get_ne {a : Nat} (ha : a ≠ k) (h : get d t a ≠ d) : get d (set d t k v) a = get d t a := by
  unfold set
  split
  · exact get_del_of_get_ne ha h
  · exact get_ins_other ha

end

end Sys2Proof.Tab

namespace Sys2Proof.Machine

section
variable {s : State} {c : Nat} {f : FaultRec}

theorem setCtx_self (h : Tab.wf {} s.ctxs = true) (c : Nat) : s.setCtx c (s.ctx c) = s := by
  simp only [State.setCtx, State.ctx, Tab.set_get_self h]

theorem finishArray_idle (h : Tab.wf {} s.ctxs = true) (hm : (s.ctx c).a.mflight = []) (hd : (s.ctx c).a.drains = []) :
    s.finishArray c = s := by
  have hx : ({ s.ctx c with a := { (s.ctx c).a with drains := [], mflight := [], flight := (s.ctx c).a.flight } } : Ctx) =
      s.ctx c := by rw [← hm, ← hd]
  simp only [State.finishArray, hm, hd, List.map_nil, List.foldl_nil, List.append_nil, State.modArch, State.modCtx]
  rw [hx, setCtx_self h]

/-! ## Trap entry (R275, R276) -/

/-- The architectural state of `x` as trap entry leaves it, with record `f`, whose first word is `w0`, to resume at `epc`. -/
def Ctx.trapArch (x : Ctx) (w0 : Word) (f : FaultRec) (epc : Word) : Arch :=
  { x.a.putRecord w0 f with
    cr := Tab.set 0 (x.a.putRecord w0 f).cr 4 epc
    trap := some ⟨x.a.pending, x.a.delay, x.a.loops, x.a.latches, x.a.flight, if x.released then some x.a.pc else none⟩
    pending := none
    delay := 0
    loops := []
    latches := []
    flight := []
    pc := Tab.get 0 (x.a.putRecord w0 f).cr 3 &&& ~~~0x1F }

/-- Trap entry changes one context, but for what a DATA fault posts. -/
theorem enterTrap_setCtx {epc : Word} (h : Tab.wf {} s.ctxs = true) (hf : f.cls ≠ 0x08) (hm : (s.ctx c).a.mflight = [])
    (hd : (s.ctx c).a.drains = []) : ∃ x, s.enterTrap c f epc = s.setCtx c x ∧ x.st = .trap ∧
      x.a = (s.ctx c).trapArch (s.recWord0 c f (s.ctx c).a.pending.isSome false) f epc := by
  unfold State.enterTrap Ctx.trapArch
  simp only [finishArray_idle h hm hd, if_neg hf]
  by_cases ho : (s.ctx c).released = true
  · simp only [ho, if_true]
    exact ⟨_, rfl, rfl, rfl⟩
  · simp only [ho]
    exact ⟨_, rfl, rfl, rfl⟩

/-- A TRAPVEC that is not 0 stands as it did beside a new record. -/
theorem trapvec_putRecord {a : Arch} {w0 : Word} (h : Tab.get 0 a.cr 3 ≠ 0) :
    Tab.get 0 (a.putRecord w0 f).cr 3 = Tab.get 0 a.cr 3 := by
  have step {t : Tab Word} {k : Nat} {v : Word} (hk : 3 ≠ k) (ht : Tab.get 0 t 3 = Tab.get 0 a.cr 3) :
      Tab.get 0 (Tab.set 0 t k v) 3 = Tab.get 0 a.cr 3 := (Tab.get_set_of_get_ne hk (ht ▸ h)).trans ht
  exact step (by decide) (step (by decide) (step (by decide) (step (by decide) rfl)))

theorem trapvec_of_hasHandler (h : s.hasHandler c = true) : Tab.get 0 (s.ctx c).a.cr 3 ≠ 0 := by
  simp only [State.hasHandler, Bool.and_eq_true, decide_eq_true_eq] at h
  rintro h0
  exact h.2 (by rw [h0]; rfl)

/-! ## ERET (R278) -/

theorem trap_write (a : Arch) (w : Wr) : (a.write w).trap = a.trap := by
  cases w with
  | cr k v =>
    change (a.writeCr k v).trap = _
    unfold Arch.writeCr
    split <;> rfl
  | _ => rfl

theorem trap_foldl_write {α : Type} (f : α → Wr) (l : List α) : ∀ a : Arch,
    (l.foldl (fun a x => a.write (f x)) a).trap = a.trap := by
  induction l with
  | nil => exact fun _ => rfl
  | cons x l ih => exact fun a => (ih _).trans (trap_write a (f x))

theorem trap_landOne (a : Arch) (l : Land) : (a.landOne l).trap = a.trap := by
  unfold Arch.landOne
  split <;> exact trap_foldl_write id l.wr a

theorem trap_landAll (a : Arch) : a.landAll.trap = a.trap := by
  have h (l : List Land) : ∀ a : Arch, (l.foldl Arch.landOne a).trap = a.trap := by
    induction l with
    | nil => exact fun _ => rfl
    | cons l ls ih => exact fun a => (ih _).trans (trap_landOne a l)
  exact h _ _

theorem trap_landLoads (x : Ctx) : x.landLoads.a.trap = x.a.trap := trap_foldl_write _ _ _

theorem eret_of_trap {a : Arch} {p : TrapSave} (h : a.trap = some p) : a.eret = { a with
    pending := p.pending, delay := p.delay, loops := p.loops, latches := p.latches, flight := p.flight, trap := none } := by
  unfold Arch.eret
  rw [h]

/-- A handler's context as ERET leaves it. -/
def Ctx.returned (x : Ctx) : Ctx :=
  let y := ({ x with a := x.a.landAll } : Ctx).landLoads
  { y with
    st := .run, a := { y.a.eret with pc := Tab.get 0 y.a.cr 4 }, fresh := !y.loads.isEmpty
    released := (y.a.trap.bind (·.opened)) = some (Tab.get 0 y.a.cr 4) }

/-- ERET in a handler that has no loop open: one change of the context. -/
theorem exec_eret (hwf : Tab.wf {} s.ctxs = true) (hacts : s.Acts .eret) (hnd : s.NoDelay) (hst : s.here.st = .trap)
    (hl : s.here.a.loops = []) (hm : s.here.a.mflight = []) (hd : s.here.a.drains = []) :
    exec .eret s = .next ((s.setCtx s.cur.ctx s.here.returned).modCur fun k => { k with moved := true }) := by
  have hfin : s.finishArray s.cur.ctx = s := finishArray_idle hwf hm hd
  change execEret s = _
  dsimp only [execEret]
  rw [control_free hnd, require_ok (by simp [hl]), require_ok (by simp [hst]), hfin, State.modArch, modCtx_modCtx hwf]
  exact slot_ok hacts

end

end Sys2Proof.Machine

namespace Sys2Proof

open Sys2Proof.Machine

/-- Settles O35: trap entry writes the one context, and the record leaves the TRAPVEC of a context that has a handler. -/
theorem faultsEnterTheHandler : Obligations.FaultsEnterTheHandler := by
  intro s c f hwf hh hf hm hd
  obtain ⟨x, ht, hst, hx⟩ := enterTrap_setCtx (epc := (s.ctx c).a.pc) hwf hf hm hd
  have hc : (s.setCtx c x).ctx c = x := ctx_setCtx_same hwf c x
  have hpc : x.a.pc = Tab.get 0 (s.ctx c).a.cr 3 &&& ~~~0x1F := by
    rw [hx]
    exact congrArg (· &&& ~~~0x1F) (trapvec_putRecord (trapvec_of_hasHandler hh))
  dsimp only
  rw [takeFault_handler hh, ht, hc]
  refine ⟨hst, hpc, ?_⟩
  rw [hx]
  exact ⟨rfl, rfl, rfl, rfl, rfl, rfl, rfl, rfl, rfl, rfl, rfl, rfl, rfl, rfl, rfl, rfl, rfl, rfl, rfl, rfl,
    fun _ hne => ctx_setCtx_other hwf hne x, fun _ => rfl⟩

/-- Settles O36: what lands with ERET leaves the trap save as it is, which ERET restores. -/
theorem trapAndEret : Obligations.TrapAndEret := by
  refine ⟨fun s imm hacts hesp => ?_, fun s p hwf hacts hnd hst hl hm hd htrap => ?_⟩
  · change execTrap imm s = _
    rw [execTrap, if_neg (by simp [hacts]), if_neg (by simp [hesp])]
    rfl
  · have hp : ({ s.here with a := s.here.a.landAll } : Ctx).landLoads.a.trap = some p :=
      (trap_landLoads _).trans ((trap_landAll _).trans htrap)
    refine (exec_eret hwf hacts hnd hst hl hm hd).trans ?_
    simp only [Ctx.returned]
    rw [eret_of_trap hp, hp]
    rfl

end Sys2Proof
end

section
/-! PROOF. What memory and events leave as it stands, for O48 and O49: a state without its memory, its slices and its regions'
blocks is the same before and after a home is read or written or an event is posted. -/

namespace Sys2Proof.Machine

/-- A state but for memory, the dies' slices and controllers, the regions' blocks and the free values taken. -/
def State.sansMemory (s : State) : State :=
  { s with mem := [], hostMem := [], under := [], dies := [], hbm := [], badLines := [], regions := [], free := 0 }

section
variable {s t u : State}

theorem ite_sansMemory {c : Prop} [Decidable c] (ht : t.sansMemory = s.sansMemory) (hu : u.sansMemory = s.sansMemory) :
    (if c then t else u).sansMemory = s.sansMemory := by split <;> assumption

theorem foldl_sansMemory {α : Type} {f : State → α → State} (hf : ∀ s a, (f s a).sansMemory = s.sansMemory) (l : List α) :
    ∀ s : State, (l.foldl f s).sansMemory = s.sansMemory := by
  induction l with
  | nil => exact fun _ => rfl
  | cons a l ih => exact fun s => (ih (f s a)).trans (hf s a)

/-! ## Homes and slices (R24, R337) -/

theorem setHomeByte_sansMemory (s : State) (pa : Nat) (b : Byte) : (s.setHomeByte pa b).sansMemory = s.sansMemory := by
  unfold State.setHomeByte
  split <;> rfl

theorem homeWrite_sansMemory (l : List Byte) : ∀ (s : State) (pa : Nat), (s.homeWrite pa l).sansMemory = s.sansMemory := by
  induction l with
  | nil => exact fun _ _ => rfl
  | cons b l ih => exact fun s pa => (ih _ (pa + 1)).trans (setHomeByte_sansMemory s pa b)

theorem homeWriteOpt_sansMemory (l : List (Option Byte)) : ∀ (s : State) (pa : Nat),
    (s.homeWriteOpt pa l).sansMemory = s.sansMemory := by
  induction l with
  | nil => exact fun _ _ => rfl
  | cons b l ih =>
    intro s pa
    cases b with
    | none => exact ih s (pa + 1)
    | some b => exact (ih _ (pa + 1)).trans (setHomeByte_sansMemory s pa b)

theorem modDie_sansMemory (s : State) (d : Nat) (f : Die → Die) : (s.modDie d f).sansMemory = s.sansMemory := rfl

theorem l2Evict_sansMemory (s : State) (d : Nat) (l : L2Line) : (s.l2Evict d l).sansMemory = s.sansMemory :=
  ite_sansMemory rfl (ite_sansMemory rfl rfl)

theorem l2Alloc_sansMemory {region line : Nat} {hint : Hint} {valid dirty : BitVec 128}
    (h : s.l2Alloc region hint line valid dirty = some t) : t.sansMemory = s.sansMemory := by
  unfold State.l2Alloc at h
  extract_lets d cos mates free own ways ok keep w s1 s2 at h
  have h1 : s1.sansMemory = s.sansMemory := by
    unfold s1
    split
    · exact l2Evict_sansMemory ..
    · rfl
  split at h
  · cases h
  · cases h
    exact (modDie_sansMemory ..).trans ((modDie_sansMemory ..).trans h1)

theorem sliceRead_sansMemory (s : State) (region : Nat) (hint : Hint) (line : Nat) (mask : BitVec 128) :
    (s.sliceRead region hint line mask).sansMemory = s.sansMemory := by
  unfold State.sliceRead
  extract_lets pa d
  split
  · rfl
  · split
    · exact ite_sansMemory rfl (ite_sansMemory rfl rfl)
    · refine ite_sansMemory rfl ?_
      cases ha : State.l2Alloc _ region hint line (BitVec.allOnes 128) 0 with
      | none => rfl
      | some t => exact (l2Alloc_sansMemory ha).trans rfl

theorem sliceWrite_sansMemory (s : State) (region : Nat) (hint : Hint) (line : Nat) (mask : BitVec 128) :
    (s.sliceWrite region hint line mask).sansMemory = s.sansMemory := by
  unfold State.sliceWrite
  extract_lets pa d direct
  have hd : (direct s).sansMemory = s.sansMemory := ite_sansMemory rfl rfl
  split
  · rfl
  · split
    · rfl
    · refine ite_sansMemory hd ?_
      split
      · next ha => exact l2Alloc_sansMemory ha
      · exact hd

theorem readHome_sansMemory (s : State) (region : Nat) (hint : Hint) (pa n : Nat) :
    (s.readHome region hint pa n).1.sansMemory = s.sansMemory := foldl_sansMemory (fun _ _ => sliceRead_sansMemory ..) _ s

theorem writeHome_sansMemory (s : State) (region : Nat) (hint : Hint) (pa : Nat) (l : List Byte) :
    (s.writeHome region hint pa l).sansMemory = s.sansMemory :=
  (homeWrite_sansMemory ..).trans (foldl_sansMemory (fun _ _ => sliceWrite_sansMemory ..) _ s)

theorem homeUpdate_sansMemory (s : State) (region pa n : Nat) (f : Nat → Nat) :
    (s.homeUpdate region pa n f).sansMemory = s.sansMemory := (writeHome_sansMemory ..).trans (readHome_sansMemory ..)

theorem freeBytes_sansMemory (s : State) (region : Nat) (va n : Nat) :
    (s.freeBytes region va n).sansMemory = s.sansMemory := by
  refine foldl_sansMemory (fun u i => ?_) _ { s with free := s.free + n }
  split
  · exact writeHome_sansMemory ..
  · rfl

theorem l1SendDirty_sansMemory (s : State) (l : L1Line) : (s.l1SendDirty l).sansMemory = s.sansMemory :=
  (homeWriteOpt_sansMemory ..).trans (sliceWrite_sansMemory ..)

/-- An update-only line that is not refused merges into memory alone (R367, R375). -/
theorem l1MergeU_sansMemory {k : Nat} {op : AtOp} {l : L1Line} (h : ¬ (op = .fadd ∧ s.orderedLine l.line = true)) :
    (s.l1MergeU k op l).sansMemory = s.sansMemory := by
  unfold State.l1MergeU
  rw [if_neg h]
  exact (foldl_sansMemory (fun _ _ => ite_sansMemory (homeWrite_sansMemory ..) rfl) _ _).trans (sliceWrite_sansMemory ..)

/-! ## Events and the regions' blocks (R36, Table 1.6) -/

theorem modRegion_sansMemory (s : State) (r : Nat) (f : Region → Region) : (s.modRegion r f).sansMemory = s.sansMemory := by
  unfold State.modRegion
  split <;> rfl

theorem post_sansMemory (s : State) (r kind detail t extra : Nat) : (s.post r kind detail t extra).sansMemory = s.sansMemory := by
  unfold State.post
  split
  · rfl
  · exact ite_sansMemory rfl
      ((writeHome_sansMemory ..).trans ((writeHome_sansMemory ..).trans (readHome_sansMemory ..)))

theorem postAll_sansMemory (s : State) (rs : List Nat) (kind detail t : Nat) :
    (s.postAll rs kind detail t).sansMemory = s.sansMemory := foldl_sansMemory (fun _ _ => post_sansMemory ..) rs s

theorem recount_sansMemory (s : State) : s.recount.sansMemory = s.sansMemory :=
  foldl_sansMemory (fun _ _ => modRegion_sansMemory ..) _ s

end

end Sys2Proof.Machine
end

section
/-! PROOF. Pre-emption, saves and resumption, O48: what a request does where it can be answered, what a completed save takes
out of its core, and the banks that a saved task is named in. -/

namespace Sys2Proof.Machine

section
variable {s t : State} {c k : Nat}

/-! ## Requests (R268, R269, R291, R325) -/

theorem ctx_modRegion (s : State) (r : Nat) (f : Region → Region) (c : Nat) : (s.modRegion r f).ctx c = s.ctx c := by
  rw [State.ctx, modRegion_ctxs]
  rfl

theorem mayPreempt_alone (hb : (s.ctx c).busy = true) (hst : (s.ctx c).st ≠ .save) (he : (s.ctx c).ending = none)
    (hx : (s.ctx c).exited = false) (hh : s.holders (s.ctx c).task.uid = [c]) : s.mayPreempt c = true := by
  simp [State.mayPreempt, State.ended, hb, hst, hh, he, hx]

theorem requestPreempt_alone (hm : s.mayPreempt c = true) (hp : (s.ctx c).preempt = false) (hf : s.slotFree c = true)
    (hh : s.holders (s.ctx c).task.uid = [c]) :
    s.requestPreempt c = s.modCtx c fun x => { x with preempt := true } := by
  simp [State.requestPreempt, hm, hp, hf, hh]

/-- A pending request for a task of one member is taken at its boundary. -/
theorem preemptTask_alone (hm : s.mayPreempt c = true) (hst : (s.ctx c).st ≠ .save)
    (hh : s.holders (s.ctx c).task.uid = [c]) (hn : (s.ctx c).task.w * (s.ctx c).task.h = 1)
    (ha : s.savedAway (s.ctx c).task.uid = 0) (hr : s.holdsRequest c = false) :
    let u := s.modRegion (s.ctx c).task.region fun r => { r with preempts := r.preempts + 1 }
    ((s.ctx c).task.tile = none ∨ (s.ctx c).task.released = true → s.preemptTask c = u.toSave c) ∧
    ∀ step, (s.ctx c).task.tile = some step → (s.ctx c).task.released = false →
      s.preemptTask c = u.discardStep [c] step := by
  have hagain : (decide (s.savedAway (s.ctx c).task.uid ≠ 0) || [c].any fun m => (s.ctx m).st = .save) = false := by
    simp [ha, hst]
  have hgo : ¬ ([c].length + s.savedAway (s.ctx c).task.uid ≠ (s.ctx c).task.w * (s.ctx c).task.h ∨
      [c].any s.holdsRequest = true) := by simp [ha, hn, hr]
  simp only [State.preemptTask, hh, hm, Bool.not_true, Bool.false_eq_true, if_false, if_neg hgo, hagain]
  refine ⟨fun h => ?_, fun step ht hrel => ?_⟩
  · cases ht : (s.ctx c).task.tile with
    | none => rfl
    | some step => simp [ctx_modRegion, h.resolve_left (by simp [ht])]
  · simp [ht, ctx_modRegion, hrel]

theorem exec_preemptionRequest_pending (hp : (s.ctx c).preempt = true) :
    exec (.preemptionRequest c) s = .next (s.preemptTask c) := by
  change execPreemptionRequest c s = _
  rw [execPreemptionRequest, if_pos hp]

theorem exec_preemptionRequest_new (hp : (s.ctx c).preempt = false) (hf : s.fnAway 2 = false) :
    exec (.preemptionRequest c) s = .next (s.requestPreempt c) := by
  change execPreemptionRequest c s = _
  simp [execPreemptionRequest, hp, hf]

/-! ## A completed save (R271, R304, R332) -/

/-- A state but for memory and what the cores hold. -/
def State.sansCaches (s : State) : State := { s.sansMemory with cores := [] }

theorem sansCaches_of_sansMemory (h : t.sansMemory = s.sansMemory) : t.sansCaches = s.sansCaches :=
  congrArg (fun u : State => { u with cores := [] }) h

theorem ctxs_of_sansCaches (h : t.sansCaches = s.sansCaches) : t.ctxs = s.ctxs := (congrArg State.ctxs h :)
theorem saved_of_sansCaches (h : t.sansCaches = s.sansCaches) : t.saved = s.saved := (congrArg State.saved h :)
theorem nextSaved_of_sansCaches (h : t.sansCaches = s.sansCaches) : t.nextSaved = s.nextSaved :=
  (congrArg State.nextSaved h :)
theorem reductions_of_sansCaches (h : t.sansCaches = s.sansCaches) : t.reductions = s.reductions :=
  (congrArg State.reductions h :)

theorem ctx_of_sansCaches (h : t.sansCaches = s.sansCaches) (c : Nat) : t.ctx c = s.ctx c := by
  rw [State.ctx, ctxs_of_sansCaches h]
  rfl

theorem orderedLine_of_sansCaches (h : t.sansCaches = s.sansCaches) (line : Nat) : t.orderedLine line = s.orderedLine line := by
  rw [State.orderedLine, reductions_of_sansCaches h]
  rfl

theorem modCore_sansCaches (s : State) (k : Nat) (f : Core → Core) : (s.modCore k f).sansCaches = s.sansCaches := rfl

theorem core_of_sansMemory (h : t.sansMemory = s.sansMemory) (k : Nat) : t.core k = s.core k :=
  (congrArg (fun u : State => u.core k) h :)

/-- A write of a core that leaves a line in its L1 reads back, whatever the form of the table. -/
theorem core_modCore_of_l1 {f : Core → Core} (h : (f (s.core k)).l1 ≠ []) : (s.modCore k f).core k = f (s.core k) :=
  Tab.get_set_same_of_ne fun he => h (congrArg Core.l1 he)

theorem l1WriteBack_sansCaches (s : State) (k : Nat) (host : Bool) : (s.l1WriteBack k host).sansCaches = s.sansCaches := by
  unfold State.l1WriteBack
  generalize (s.core k).l1 = l
  induction l generalizing s with
  | nil => rfl
  | cons x l ih =>
    rw [List.foldl_cons]
    split
    · exact (ih _).trans ((modCore_sansCaches ..).trans (sansCaches_of_sansMemory (l1SendDirty_sansMemory s x)))
    · exact ih s

theorem l1_l1Put (h : (s.core k).l1 ≠ []) (l : L1Line) :
    ((s.l1Put k l).core k).l1 = (s.core k).l1.map fun y => if y.line = l.line then l else y := by
  rw [State.l1Put, core_modCore_of_l1 (by simpa using h)]

/-- Core `k` holds some line, and each update-only one that it holds is in `ls`. -/
structure State.HoldsUpdates (s : State) (k : Nat) (ls : List L1Line) : Prop where
  ne_nil : (s.core k).l1 ≠ []
  mem : ∀ l ∈ (s.core k).l1, l.isU = true → l ∈ ls

/-- A line that is written back is clean. -/
theorem State.HoldsUpdates.sendDirty {ls : List L1Line} (h : s.HoldsUpdates k ls) (x : L1Line) :
    ((s.l1SendDirty x).l1Put k { x with st := .c, dirty := 0 }).HoldsUpdates k ls := by
  have hs : (s.l1SendDirty x).core k = s.core k := core_of_sansMemory (l1SendDirty_sansMemory s x) k
  have hp := l1_l1Put (hs ▸ h.ne_nil) { x with st := .c, dirty := 0 }
  rw [hs] at hp
  refine ⟨by rw [hp]; simpa using h.ne_nil, fun l hl hU => ?_⟩
  rw [hp] at hl
  obtain ⟨y, hy, rfl⟩ := List.mem_map.mp hl
  split at hU
  · cases hU
  · next hline =>
    rw [if_neg hline]
    exact h.mem y hy hU

theorem State.HoldsUpdates.l1WriteBack {ls : List L1Line} (h : s.HoldsUpdates k ls) (host : Bool) :
    (s.l1WriteBack k host).HoldsUpdates k ls := by
  unfold State.l1WriteBack
  generalize (s.core k).l1 = l
  induction l generalizing s with
  | nil => exact h
  | cons x l ih =>
    rw [List.foldl_cons]
    split
    · exact ih (h.sendDirty x)
    · exact ih h

/-- A write-back leaves no update-only line that was not there. -/
theorem mem_l1_of_l1WriteBack {host : Bool} {l : L1Line} (hl : l ∈ ((s.l1WriteBack k host).core k).l1) (hU : l.isU = true) :
    l ∈ (s.core k).l1 := by
  by_cases hne : (s.core k).l1 = []
  · rwa [State.l1WriteBack, hne] at hl
  · exact (State.HoldsUpdates.l1WriteBack ⟨hne, fun _ h _ => h⟩ host).mem l hl hU

theorem l1Flush_sansCaches {l : L1Line} (h : l.st = .u .fadd → s.orderedLine l.line = false) :
    (s.l1Flush k l).sansCaches = s.sansCaches := by
  unfold State.l1Flush
  cases hst : l.st with
  | u op =>
    refine (modCore_sansCaches ..).trans (sansCaches_of_sansMemory (l1MergeU_sansMemory ?_))
    rintro ⟨rfl, ho⟩
    simp [h hst] at ho
  | d => exact (modCore_sansCaches ..).trans (sansCaches_of_sansMemory (l1SendDirty_sansMemory s l))
  | c => rfl

theorem l1MergeAll_sansCaches (h : ∀ l ∈ (s.core k).l1, l.st = .u .fadd → s.orderedLine l.line = false) :
    (s.l1MergeAll k).sansCaches = s.sansCaches := by
  have hl (l : List L1Line) : ∀ t : State, t.sansCaches = s.sansCaches → (∀ x ∈ l, x ∈ (s.core k).l1) →
      (l.foldl (fun s l => if l.isU then s.l1Flush k l else s) t).sansCaches = s.sansCaches := by
    induction l with
    | nil => exact fun _ ht _ => ht
    | cons x l ih =>
      intro t ht hin
      rw [List.foldl_cons]
      refine ih _ ?_ fun y hy => hin y (List.mem_cons_of_mem x hy)
      split
      · refine (l1Flush_sansCaches fun hst => ?_).trans ht
        exact (orderedLine_of_sansCaches ht x.line).trans (h x (hin x List.mem_cons_self) hst)
      · exact ht
  exact hl _ s rfl fun _ hx => hx

/-- The release at FABRIC scope that comes before a save leaves the machine outside memory and the cores as it is. -/
theorem writeBack_mergeAll_sansCaches (h : ∀ l ∈ (s.core k).l1, l.st = .u .fadd → s.orderedLine l.line = false) :
    ((s.l1WriteBack k true).l1MergeAll k).sansCaches = s.sansCaches := by
  have hw := l1WriteBack_sansCaches s k true
  refine (l1MergeAll_sansCaches fun l hl hst => ?_).trans hw
  rw [orderedLine_of_sansCaches hw]
  exact h l (mem_l1_of_l1WriteBack hl (by simp [L1Line.isU, hst])) hst

/-- The only member of a task makes its save. -/
theorem addSaved_alone {x : Ctx} (hs : s.savedOf x.task.uid = none) (hm : x.task.member = 0)
    (hn : x.task.w * x.task.h = 1) (hb : x.busy = true) : s.addSaved k x true = { s with
      saved := s.saved ++ [⟨s.nextSaved, [x], [none], [k], x.task.saveArea, true⟩], nextSaved := s.nextSaved + 1 } := by
  simp [State.addSaved, hs, hm, hn, hb]

/-- A save whose loads, replies and posts are in completes. -/
theorem exec_saveComplete_done (hst : (s.ctx c).st = .save) (hl : (s.ctx c).loadsDone = true)
    (hr : s.repliesDue (s.ctx c) = false) (hp : s.postsDue (s.ctx c) = false)
    (hk : (s.core (coreOf c)).stopped = false)
    (hU : ∀ l ∈ (s.core (coreOf c)).l1, l.st = .u .fadd → s.orderedLine l.line = false) :
    ∃ u : State, u.sansCaches = s.sansCaches ∧ exec (.saveComplete c) s = .next
      ((u.addSaved (coreOf c) (s.ctx c) true).modCtx c fun y => ({ st := .idle, bank := y.bank } : Ctx)).recount := by
  have hw := writeBack_mergeAll_sansCaches hU
  generalize hu : (s.l1WriteBack (coreOf c) true).l1MergeAll (coreOf c) = u at hw
  let v := if (s.ctx c).task.saveArea = 0 then u else u.freeBytes (s.ctx c).task.region (s.ctx c).task.saveVa 0x6_0000
  have hv : v.sansCaches = s.sansCaches :=
    (sansCaches_of_sansMemory (ite_sansMemory rfl (freeBytes_sansMemory ..))).trans hw
  have hc : v.ctx c = s.ctx c := ctx_of_sansCaches hv c
  refine ⟨v, hv, ?_⟩
  change Host.Outcome.next (s.completeSave c) = _
  rw [State.completeSave, if_neg (by simp [hst, hl, hr, hp, hk])]
  dsimp only
  rw [hu, hc]

/-! ## Parked windows (R271) -/

theorem freeBytes_ctxs (s : State) (region : Nat) (va n : Nat) : (s.freeBytes region va n).ctxs = s.ctxs :=
  ctxs_of_sansCaches (sansCaches_of_sansMemory (freeBytes_sansMemory ..))

theorem getD_map_range {α : Type} {f : Nat → α} {n m : Nat} (h : m < n) (d : α) : ((List.range n).map f).getD m d = f m := by
  simp [h]

theorem writeParked_ctxs (s : State) (core k : Nat) : (s.writeParked core k).ctxs = s.ctxs := by
  unfold State.writeParked
  split
  · rfl
  · exact foldl_ctxs (fun _ _ => ite_ctxs (freeBytes_ctxs ..) rfl) _ s

/-- The save of task `k` keeps its members, and each window that was parked on the core is written. -/
theorem mem_saved_writeParked {core : Nat} {v w : Saved} (hv : s.saved.find? (fun v => v.id = k) = some v)
    (hw : w ∈ (s.writeParked core k).saved) (hk : w.id = k) : w.members = v.members ∧ ∀ m, m < v.windows.length →
      v.homes.getD m 0 = core → (v.members.getD m {}).busy = true → (w.windows.getD m none).isSome = true := by
  unfold State.writeParked at hw
  rw [hv] at hw
  obtain ⟨y, -, rfl⟩ := List.mem_map.mp hw
  by_cases hy : y.id = k
  · rw [if_pos hy]
    refine ⟨rfl, fun m hm hh hb => ?_⟩
    refine (congrArg Option.isSome (getD_map_range hm none)).trans ?_
    split
    · rfl
    · next hmine =>
      by_contra hp
      rw [Bool.not_eq_true, Option.isSome_eq_false_iff] at hp
      exact hmine (by simp only [hb, hh, hp, decide_true, Bool.and_self])
  · rw [if_neg hy] at hk
    exact absurd hk hy

/-! ## Resumption (R254, R271, R273) -/

/-- Banks that are filled one context after another, no context twice: each holds what it was given. -/
theorem bank_foldl_modCtx (f : Nat → Nat) (g : Nat → Bank) (l : List Nat) : ∀ s : State, (l.map f).Nodup →
    let t := l.foldl (fun (s : State) m => s.modCtx (f m) fun x => { x with bank := some (g m) }) s
    (∀ m ∈ l, (t.ctx (f m)).bank = some (g m)) ∧ ∀ d, d ∉ l.map f → t.ctx d = s.ctx d := by
  induction l with
  | nil => exact fun s _ => ⟨fun m hm => absurd hm List.not_mem_nil, fun _ _ => rfl⟩
  | cons a l ih =>
    intro s hn
    obtain ⟨ha, hn⟩ := List.nodup_cons.mp hn
    have hne : ({ s.ctx (f a) with bank := some (g a) } : Ctx) ≠ {} := fun he => by cases congrArg Ctx.bank he
    obtain ⟨hin, hout⟩ := ih (s.modCtx (f a) fun x => { x with bank := some (g a) }) hn
    refine ⟨fun m hm => ?_, fun d hd => ?_⟩
    · rcases List.mem_cons.mp hm with rfl | hm
      · exact congrArg Ctx.bank ((hout _ ha).trans (setCtx_ctx_ne s _ hne))
      · exact hin m hm
    · rw [List.map_cons, List.mem_cons, not_or] at hd
      exact (hout d hd.2).trans (setCtx_ctx_ne_other s hd.1 hne)

/-- The contexts of distinct cores in one class are distinct. -/
theorem nodup_resumed {l : List (Nat × List Nat)} (h : (l.map (·.1)).Nodup) (b : Nat) :
    ((List.range l.length).map fun m => 2 * (l.getD m (0, [])).1 + b).Nodup := by
  have hl : ((List.range l.length).map fun m => 2 * (l.getD m (0, [])).1 + b) = (l.map (·.1)).map fun k => 2 * k + b := by
    refine List.ext_getElem (by simp) fun i hi _ => ?_
    have hi : i < l.length := by simpa using hi
    simp [hi]
  rw [hl]
  exact h.map fun i j hij => by simpa using hij

/-- A saved task that may be placed, and that fits: it is named in the banks, and is no more one that may resume. -/
theorem exec_resumption_fits {v : Saved} {l : List (Nat × List Nat)} (hv : s.saved.find? (fun v => v.id = k) = some v)
    (hu : let q := (v.members.getD 0 {}).task
      s.unmet q.region q.w q.h (decide (q.ew ≠ 0)) q.det q.win = none)
    (hl : s.resumeFits v c = some l) : ∃ u : State, (∀ w ∈ u.saved, w.id = k → w.live = false) ∧
      exec (.resumption k c) s = .next ((List.range l.length).foldl (fun (s : State) m =>
        s.modCtx (2 * (l.getD m (0, [])).1 + c % 2) fun x => { x with bank := some (.saved k m) }) u) := by
  dsimp only at hu
  change ∃ u : State, _ ∧ execResumption k c s = _
  unfold execResumption
  simp only [hv, hu, hl]
  refine ⟨_, fun w hw hk => ?_, rfl⟩
  obtain ⟨y, -, rfl⟩ := List.mem_map.mp hw
  by_cases hy : y.id = k
  · rw [if_pos hy]
  · rw [if_neg hy] at hk
    exact absurd hk hy

theorem foldl_modCtx_saved {α : Type} (f : α → Nat) (g : α → Ctx → Ctx) (l : List α) : ∀ s : State,
    (l.foldl (fun (s : State) m => s.modCtx (f m) (g m)) s).saved = s.saved := by
  induction l with
  | nil => exact fun _ => rfl
  | cons a l ih => exact fun s => (ih _).trans rfl

/-! ## Time slices (R268, R465) -/

/-- A request leaves the Nalvel functions, and what each context is busy with, as they are. -/
theorem requestPreempt_frame (s : State) (c : Nat) : (s.requestPreempt c).nalvel = s.nalvel ∧
    ∀ d, ((s.requestPreempt c).ctx d).st = (s.ctx d).st := by
  have hl (l : List Nat) : ∀ s : State,
      let t := l.foldl (fun (s : State) m => s.modCtx m fun x => { x with preempt := true }) s
      t.nalvel = s.nalvel ∧ ∀ d, (t.ctx d).st = (s.ctx d).st := by
    induction l with
    | nil => exact fun _ => ⟨rfl, fun _ => rfl⟩
    | cons m l ih =>
      intro s
      have hne : ({ s.ctx m with preempt := true } : Ctx) ≠ {} := fun he => by cases congrArg Ctx.preempt he
      obtain ⟨hnal, hst⟩ := ih (s.modCtx m fun x => { x with preempt := true })
      refine ⟨hnal, fun d => (hst d).trans ?_⟩
      by_cases hd : d = m
      · subst hd
        exact (congrArg Ctx.st (setCtx_ctx_ne s d hne) :)
      · exact congrArg Ctx.st (setCtx_ctx_ne_other s hd hne)
  unfold State.requestPreempt
  split
  · exact hl _ s
  · exact ⟨rfl, fun _ => rfl⟩

theorem requestPreempt_fnAway (s : State) (c n : Nat) : (s.requestPreempt c).fnAway n = s.fnAway n := by
  rw [State.fnAway, State.nal, (requestPreempt_frame s c).1]
  rfl

theorem requestPreempt_busy (s : State) (c d : Nat) : ((s.requestPreempt c).ctx d).busy = (s.ctx d).busy := by
  rw [Ctx.busy, (requestPreempt_frame s c).2]
  rfl

theorem exec_timeSliceExpiry_away {core : Nat} (h : s.fnAway 2 = true) : exec (.timeSliceExpiry core) s = .next s := by
  change execTimeSliceExpiry core s = _
  simp [execTimeSliceExpiry, h]

theorem exec_timeSliceExpiry {core : Nat} (h : s.fnAway 2 = false) : let c := 2 * core + 1
    exec (.timeSliceExpiry core) s =
      .next ((if (s.ctx c).busy && (s.ctx c).sliceReady && !(s.ctx c).sliceIssued then s.requestPreempt c else s).modCtx c
        fun x => { x with sliceIssued := false, sliceReady := (s.ctx c).busy }) := by
  change execTimeSliceExpiry core s = _
  dsimp only [execTimeSliceExpiry]
  rw [h, Bool.not_false, Bool.and_true]
  split
  · rw [requestPreempt_fnAway, h, if_neg Bool.false_ne_true]
    simp only [State.modCtx, requestPreempt_busy]
  · rw [h, if_neg Bool.false_ne_true]
    rfl

end

end Sys2Proof.Machine

namespace Sys2Proof

open Sys2Proof.Machine

/-- Settles O48, an event at a time. -/
theorem preemptionAndResumption : Obligations.PreemptionAndResumption := by
  refine ⟨fun s c hb hst he hx hh => ?_, fun s c hwf hst hl hr hp hk hU hs hm hn => ?_,
    fun s core k v hv _ => ⟨_, rfl, writeParked_ctxs s core k, fun w hw hk => mem_saved_writeParked hv hw hk⟩,
    fun s k c v l hv hu hl _ hn => ?_, fun s core => ?_⟩
  · have hmay := mayPreempt_alone hb hst he hx hh
    refine ⟨fun hp hf hfree => ?_, fun hp hn ha hr => ?_⟩
    · rw [exec_preemptionRequest_new hp hf, requestPreempt_alone hmay hp hfree hh]
      rfl
    · rw [exec_preemptionRequest_pending hp]
      obtain ⟨hsave, hdiscard⟩ := preemptTask_alone hmay hst hh hn ha hr
      exact ⟨fun h => congrArg _ (hsave h), fun step ht hrel => congrArg _ (hdiscard step ht hrel)⟩
  · obtain ⟨u, hu, hexec⟩ := exec_saveComplete_done hst hl hr hp hk hU
    have hus : u.savedOf (s.ctx c).task.uid = none := by
      rw [State.savedOf, saved_of_sansCaches hu]
      exact hs
    have huwf : Tab.wf {} u.ctxs = true := ctxs_of_sansCaches hu ▸ hwf
    rw [addSaved_alone hus hm hn (by simp [Ctx.busy, hst])] at hexec
    have hrec (v : State) : v.recount.sansCaches = v.sansCaches := sansCaches_of_sansMemory (recount_sansMemory v)
    refine ⟨_, hexec, (ctx_of_sansCaches (hrec _) c).trans ?_, fun d hd => (ctx_of_sansCaches (hrec _) d).trans ?_,
      (saved_of_sansCaches (hrec _)).trans ?_, (nextSaved_of_sansCaches (hrec _)).trans ?_⟩
    · refine (ctx_setCtx_same huwf c _).trans ?_
      exact congrArg (fun x : Ctx => ({ st := .idle, bank := x.bank } : Ctx)) (ctx_of_sansCaches hu c)
    · exact (ctx_setCtx_other huwf hd _).trans (ctx_of_sansCaches hu d)
    · change u.saved ++ [⟨u.nextSaved, _, _, _, _, _⟩] = _
      rw [saved_of_sansCaches hu, nextSaved_of_sansCaches hu]
    · exact congrArg (· + 1) (nextSaved_of_sansCaches hu)
  · obtain ⟨u, hu, hexec⟩ := exec_resumption_fits hv hu hl
    refine ⟨_, hexec, fun m hm => ?_, ?_⟩
    · exact (bank_foldl_modCtx _ _ _ u (nodup_resumed hn (c % 2))).1 m (List.mem_range.mpr hm)
    · rw [foldl_modCtx_saved]
      exact hu
  · exact ⟨exec_timeSliceExpiry_away, exec_timeSliceExpiry⟩

end Sys2Proof
end

section
/-! PROOF. Errors, reruns and retirement, O49: an error in a context that stands alone, a rerun's verdict, and what a core
that is retired holds. -/

namespace Sys2Proof.Machine

section
variable {s t : State} {c k n : Nat} {e : DetectedError} {r : Rerun}

/-! ## Data errors (R286, R332) -/

theorem exec_dataError_line {m : Nat} {l : L1Line} (hl : s.l1Find (coreOf c) m = some l) :
    exec (.dataError ⟨c, .l1Line m⟩) s = .next (if l.st = .c then s.l1Drop (coreOf c) m else s.dataError c) := by
  change execDataError ⟨c, .l1Line m⟩ s = _
  simp [execDataError, hl]

theorem exec_dataError_uncorrected
    (he : e = .operation ∨ ∃ m l, e = .l1Line m ∧ s.l1Find (coreOf c) m = some l ∧ l.st ≠ .c) :
    exec (.dataError ⟨c, e⟩) s = .next (s.dataError c) := by
  rcases he with rfl | ⟨m, l, rfl, hl, hst⟩
  · rfl
  · rw [exec_dataError_line hl, if_neg hst]

/-- A state with one more data error counted. -/
def State.countDataError (s : State) : State := { s with dataErrors := s.dataErrors + 1 }

theorem dataError_rerun (he : s.espCtxs c = [c]) (hk : (s.core (coreOf c)).stopped = false) (hr : (s.ctx c).rerun ≠ none) :
    s.dataError c = s.countDataError.reportRetire (coreOf c) := by
  have hesp : s.countDataError.espCtxs c = [c] := he
  have hcore : (s.countDataError.core (coreOf c)).stopped = false := hk
  unfold State.countDataError at *
  simp [State.dataError, hesp, hcore, Option.isSome_iff_ne_none.mpr hr]

theorem dataError_begins (he : s.espCtxs c = [c]) (hk : (s.core (coreOf c)).stopped = false) (hr : (s.ctx c).rerun = none)
    (hc : (s.ctx c).closed = false) (hst : (s.ctx c).st = .run ∨ (s.ctx c).st = .trap) :
    s.dataError c = (s.countDataError.modCtx c fun x => { x.rollback with rerun := some ⟨1, 0, 0⟩ }).modCtx (partner c)
      Ctx.hold := by
  have hesp : s.countDataError.espCtxs c = [c] := he
  have hcore : (s.countDataError.core (coreOf c)).stopped = false := hk
  have hclosed : (s.countDataError.ctx c).closed = false := hc
  have hrun : ¬ ((s.ctx c).st ≠ .run ∧ (s.ctx c).st ≠ .trap) := by rcases hst with h | h <;> simp [h]
  unfold State.countDataError at *
  simp [State.dataError, hesp, hcore, hr, hclosed, hrun]

/-! ## The verdict on a rerun (R287, R288) -/

theorem exec_rerunVerdict_agreed (hr : (s.ctx c).rerun = some r) (hp : r.phase = 3) :
    exec (.rerunVerdict c) s = .next s := by
  change execRerunVerdict c s = _
  simp [execRerunVerdict, hr, hp]

/-- At the closing checkpoint of a context that stands alone: the first rerun is kept, and the second is compared with it. -/
theorem exec_rerunVerdict_atClose (hr : (s.ctx c).rerun = some r) (he : s.espCtxs c = [c]) (hc : s.atClose c = true)
    (hk : (s.core (coreOf c)).stopped = false) (hp : r.phase ≠ 3) :
    exec (.rerunVerdict c) s = .next (
      if r.phase = 1 then s.modCtx c fun x =>
        { x.rollback with rerun := some ⟨2, x.regionCount, (s.closing c).signature⟩ }
      else if r.count = (s.ctx c).regionCount ∧ r.sig = (s.closing c).signature then
        ({ s with rerunsAgreed := s.rerunsAgreed + 1 } : State).modCtx c fun x =>
          { x with rerun := some { r with phase := 3 }, step := 0 }
      else s.reportRetire (coreOf c)) := by
  change execRerunVerdict c s = _
  by_cases h1 : r.phase = 1
  · simp [execRerunVerdict, hr, he, hc, hk, h1]
  · by_cases hsame : r.count = (s.ctx c).regionCount ∧ r.sig = (s.closing c).signature
    · have hr' : (({ s with rerunsAgreed := s.rerunsAgreed + 1 } : State).ctx c).rerun = some r := hr
      simp [execRerunVerdict, hr, he, hc, hk, hp, h1, hsame, State.modCtx, hr']
    · simp [execRerunVerdict, hr, he, hc, hk, hp, h1, hsame, not_and_or.mp hsame]

/-! ## Reports and retirement (R289, R290, R313, R441, R465) -/

theorem reportRetire_new (hs : (s.core k).stopped = false) (hd : (s.core k).dead = false) :
    s.reportRetire k = (s.modCore k fun x => { x with stopped := true }).modNal 4 fun n => n.send (.retire k) := by
  simp [State.reportRetire, hs, hd]

theorem exec_coreRetirement_away (hk : k < 96) (hd : (s.core k).dead = false) (ha : s.fnAway 4 = true) :
    exec (.coreRetirement k) s = .next (s.reportRetire k) := by
  change execCoreRetirement k s = _
  simp [execCoreRetirement, Config.cores, Nat.not_le.mpr hk, hd, ha]

theorem exec_coreRetirement_retires (hk : k < 96) (hd : (s.core k).dead = false) (ha : s.fnAway 4 = false)
    (hw : Letter.retire k ∉ (s.nal 4).waits) :
    exec (.coreRetirement k) s = .next (((s.modCore k fun x => { x with stopped := false }).retireCore k).modNal 4
      fun n => n.retire (.retire k)) := by
  change execCoreRetirement k s = _
  simp [execCoreRetirement, Config.cores, Nat.not_le.mpr hk, hd, ha, hw]

/-- The table of cores is in canonical form, `n` cores have been retired, and core `k` has `q`. -/
structure State.CoreHas (s : State) (k n : Nat) (q : Core → Prop) : Prop where
  wf : Tab.wf {} s.cores = true
  retirements : s.retirements = n
  core : q (s.core k)

variable {q : Core → Prop} {u : State}

/-- A state with the same cores. -/
theorem State.CoreHas.of_cores (h : s.CoreHas k n q) (hc : t.cores = s.cores) (hr : t.retirements = s.retirements) :
    t.CoreHas k n q := by
  refine ⟨hc ▸ h.wf, hr.trans h.retirements, ?_⟩
  rw [State.core, hc]
  exact h.core

theorem State.CoreHas.of_sansMemory (h : s.CoreHas k n q) (ht : t.sansMemory = s.sansMemory) : t.CoreHas k n q :=
  h.of_cores (congrArg State.cores ht :) (congrArg State.retirements ht :)

theorem State.CoreHas.ite {c : Prop} [Decidable c] (ht : t.CoreHas k n q) (hu : u.CoreHas k n q) :
    (if c then t else u).CoreHas k n q := by split <;> assumption

theorem State.CoreHas.foldl {α : Type} {f : State → α → State} (hf : ∀ s a, s.CoreHas k n q → (f s a).CoreHas k n q)
    (l : List α) : ∀ {s : State}, s.CoreHas k n q → (l.foldl f s).CoreHas k n q := by
  induction l with
  | nil => exact id
  | cons a l ih => exact fun h => ih (hf _ a h)

theorem core_modCore_same (h : Tab.wf {} s.cores = true) (k : Nat) (f : Core → Core) :
    (s.modCore k f).core k = f (s.core k) := Tab.get_set_same h

theorem core_modCore_other (h : Tab.wf {} s.cores = true) {j : Nat} (hj : j ≠ k) (f : Core → Core) :
    (s.modCore k f).core j = s.core j := Tab.get_set_other h hj

/-- A change of core `k`, which establishes `p` of it. -/
theorem State.CoreHas.modCore_core (h : s.CoreHas k n q) {p : Core → Prop} {f : Core → Core} (hf : p (f (s.core k))) :
    (s.modCore k f).CoreHas k n p :=
  ⟨Tab.wf_set h.wf, h.retirements, (core_modCore_same h.wf k f).symm ▸ hf⟩

/-- A change of any core that keeps `q`. -/
theorem State.CoreHas.modCore (h : s.CoreHas k n q) {j : Nat} {f : Core → Core} (hf : ∀ x, q x → q (f x)) :
    (s.modCore j f).CoreHas k n q := by
  by_cases hj : j = k
  · subst hj
    exact h.modCore_core (hf _ h.core)
  · exact ⟨Tab.wf_set h.wf, h.retirements, (core_modCore_other h.wf (Ne.symm hj) f).symm ▸ h.core⟩

theorem State.CoreHas.modCore_any (h : s.CoreHas k n fun _ => True) {j : Nat} {f : Core → Core} :
    (s.modCore j f).CoreHas k n fun _ => True := h.modCore fun _ _ => trivial

theorem State.CoreHas.modCtx (h : s.CoreHas k n q) {d : Nat} {f : Ctx → Ctx} : (s.modCtx d f).CoreHas k n q :=
  h.of_cores rfl rfl

theorem State.CoreHas.modRegion (h : s.CoreHas k n q) {r : Nat} {f : Region → Region} : (s.modRegion r f).CoreHas k n q :=
  h.of_sansMemory (modRegion_sansMemory ..)

theorem State.CoreHas.recount (h : s.CoreHas k n q) : s.recount.CoreHas k n q := h.of_sansMemory (recount_sansMemory s)

theorem State.CoreHas.post (h : s.CoreHas k n q) {r kind detail ticket extra : Nat} :
    (s.post r kind detail ticket extra).CoreHas k n q := h.of_sansMemory (post_sansMemory ..)

theorem State.CoreHas.postAll (h : s.CoreHas k n q) {rs : List Nat} {kind detail ticket : Nat} :
    (s.postAll rs kind detail ticket).CoreHas k n q := h.of_sansMemory (postAll_sansMemory ..)

theorem State.CoreHas.domainEvent (h : s.CoreHas k n q) {r : Nat} : (s.domainEvent r).CoreHas k n q := by
  unfold State.domainEvent
  extract_lets peers s1 all s2
  have h1 : s1.CoreHas k n q := h.postAll
  exact .ite (State.CoreHas.postAll (.foldl (fun _ _ h => h.modRegion) _ h1)) h1

/-! ### A context goes back, or is saved -/

theorem State.CoreHas.toSave (h : s.CoreHas k n q) {d : Nat} : (s.toSave d).CoreHas k n q := by
  unfold State.toSave
  refine State.CoreHas.modCtx ?_
  split
  · split
    · exact h.of_sansMemory (homeUpdate_sansMemory ..)
    · exact h
  · exact h

theorem State.CoreHas.giveBack (h : s.CoreHas k n q) {d : Nat} : (s.giveBack d).CoreHas k n q := (h.ite h.toSave).modCtx

theorem State.CoreHas.unhold (h : s.CoreHas k n q) {d : Nat} : (s.unhold d).CoreHas k n q := h.modCtx

theorem State.CoreHas.restoreWindows (h : s.CoreHas k n fun _ => True) {d : Nat} :
    (s.restoreWindows d).CoreHas k n fun _ => True := by
  unfold State.restoreWindows State.clearWindows
  exact h.modCore_any.modCore_any

theorem State.CoreHas.restart (h : s.CoreHas k n fun _ => True) {d : Nat} : (s.restart d).CoreHas k n fun _ => True :=
  .foldl (fun s m h => by
    unfold State.restartOne
    extract_lets x s1 s2
    have h2 : s2.CoreHas k n fun _ => True := (State.CoreHas.ite h.unhold h).modCtx
    exact .ite h2 h2.restoreWindows) _ h

/-! ### The L1 of a core that is retired is written back and merged -/

theorem State.CoreHas.ordcMerge (h : s.CoreHas k n q) {j : Nat} {l : L1Line} : (s.ordcMerge j l).CoreHas k n q := by
  refine .ite h.modCtx (.ite h.modCtx ?_)
  unfold State.postLate
  extract_lets s1
  have h1 : s1.CoreHas k n q := h.modRegion.post
  refine .ite (State.CoreHas.domainEvent ?_) h1
  exact h1.of_cores rfl rfl

theorem State.CoreHas.l1Drop (h : s.CoreHas k n fun _ => True) {j line : Nat} :
    (s.l1Drop j line).CoreHas k n fun _ => True := h.modCore_any

theorem State.CoreHas.l1Flush (h : s.CoreHas k n fun _ => True) {j : Nat} {l : L1Line} :
    (s.l1Flush j l).CoreHas k n fun _ => True := by
  unfold State.l1Flush
  refine State.CoreHas.l1Drop ?_
  split
  · next op _ =>
    by_cases ho : op = .fadd ∧ s.orderedLine l.line = true
    · rw [State.l1MergeU, if_pos ho]
      exact h.ordcMerge
    · exact h.of_sansMemory (l1MergeU_sansMemory ho)
  · exact h.of_sansMemory (l1SendDirty_sansMemory s l)
  · exact h

theorem State.CoreHas.l1MergeAll (h : s.CoreHas k n fun _ => True) {j : Nat} : (s.l1MergeAll j).CoreHas k n fun _ => True :=
  .foldl (fun _ _ h => .ite h.l1Flush h) _ h

theorem State.CoreHas.l1WriteBack (h : s.CoreHas k n fun _ => True) {j : Nat} {host : Bool} :
    (s.l1WriteBack j host).CoreHas k n fun _ => True :=
  .foldl (fun s l h => .ite (h.of_sansMemory (l1SendDirty_sansMemory s l)).modCore_any h) _ h

/-! ### What comes after -/

theorem State.CoreHas.spillOut (h : s.CoreHas k n q) {d : Nat} : (s.spillOut d).CoreHas k n q :=
  .foldl (f := State.pushOverflow) (fun _ _ h => h.of_cores rfl rfl) _ h.modCtx

theorem State.CoreHas.addSaved (h : s.CoreHas k n q) {j : Nat} {x : Ctx} {parked : Bool} :
    (s.addSaved j x parked).CoreHas k n q := .ite (h.of_cores rfl rfl) (h.of_cores rfl rfl)

theorem State.CoreHas.emptyBank (h : s.CoreHas k n q) {d : Nat} : (s.emptyBank d).CoreHas k n q := by
  unfold State.emptyBank
  split
  · exact h
  · exact h.addSaved.modCtx
  · exact h.of_cores rfl rfl

theorem State.CoreHas.emptyBanks (h : s.CoreHas k n q) {uid : Nat} : (s.emptyBanks uid).CoreHas k n q := by
  refine .foldl (fun _ _ h => h.modCtx) _ (.foldl (fun s d h => ?_) _ h)
  split
  · exact .ite h.emptyBank h
  · exact h

/-- A position whose core has no spare stays on it, dead. -/
theorem State.CoreHas.killCore (h : s.CoreHas k n q) (hq : ∀ x, q x → q { x with dead := true }) {l : List Nat} :
    (s.killCore k l).CoreHas k n q := by
  unfold State.killCore
  extract_lets s1 uids s2 s3 save s4 s5
  have h2 : s2.CoreHas k n q := .foldl (fun _ _ h => h.emptyBank) _ (h.modCore hq)
  have h3 : s3.CoreHas k n q := .foldl (fun _ _ h => h.emptyBanks) _ (.foldl (fun _ _ h => h.emptyBanks) _ h2)
  have h4 : s4.CoreHas k n q := .foldl (fun _ _ h => .ite h (.foldl (fun _ _ h => h.toSave) _ h.modRegion)) _ h3
  exact h4.modRegion.postAll

theorem State.CoreHas.countRetirement (h : s.CoreHas k n q) :
    ({ s with retirements := s.retirements + 1 } : State).CoreHas k (n + 1) q :=
  ⟨h.wf, congrArg (· + 1) h.retirements, h.core⟩

/-- The core that takes the position holds no line and no translation. -/
theorem retireCore_coreHas (h : Tab.wf {} s.cores = true) (k : Nat) :
    (s.retireCore k).CoreHas k (s.retirements + 1) fun x => x.l1 = [] ∧ x.tlb = [] := by
  have h0 : s.CoreHas k s.retirements fun _ => True := ⟨h, rfl, trivial⟩
  unfold State.retireCore
  extract_lets all regions back s1 l s2 s3 s4 s5 s6 s7 d
  have h1 : s1.CoreHas k s.retirements fun _ => True := .foldl (fun _ _ h => h.giveBack) _ h0
  have h2 : s2.CoreHas k s.retirements fun _ => True := .foldl (fun _ _ h => h.restart) _ h1.unhold.unhold
  have h3 : s3.CoreHas k s.retirements fun _ => True := h2.l1WriteBack.l1MergeAll
  have h4 : s4.CoreHas k s.retirements fun x => x.l1 = [] ∧ x.tlb = [] := h3.modCore_core ⟨rfl, rfl⟩
  have h5 : s5.CoreHas k s.retirements fun x => x.l1 = [] ∧ x.tlb = [] := h4.spillOut.spillOut
  have h6 : s6.CoreHas k (s.retirements + 1) fun x => x.l1 = [] ∧ x.tlb = [] := h5.countRetirement
  have h7 : s7.CoreHas k (s.retirements + 1) fun x => x.l1 = [] ∧ x.tlb = [] :=
    .foldl (fun _ _ h => h.postAll.post) _ h6
  refine State.CoreHas.recount ?_
  split
  · exact (h7.of_sansMemory (modDie_sansMemory ..)).modCore fun _ hx => hx
  · exact h7.killCore fun _ hx => hx

end

end Sys2Proof.Machine

namespace Sys2Proof

open Sys2Proof.Machine

/-- Settles O49, an event at a time. -/
theorem errorsAndReruns : Obligations.ErrorsAndReruns := by
  refine ⟨fun _ _ => rfl, fun s c m l hl hst => ?_, fun s c e he hesp hk => ⟨fun hr hc hst => ?_, fun hr => ?_⟩,
    fun s c r hr hp => exec_rerunVerdict_agreed hr hp, fun s c r hr hesp hc hk => ⟨fun hp => ?_, fun hp hn hs => ?_,
      fun hp hne => ?_⟩, fun s k hs hd => reportRetire_new hs hd, fun s k hwf hk hd => ⟨exec_coreRetirement_away hk hd,
      fun ha hw => ⟨_, exec_coreRetirement_retires hk hd ha hw, ?_⟩⟩⟩
  · rw [exec_dataError_line hl, if_pos hst]
  · rw [exec_dataError_uncorrected he, dataError_begins hesp hk hr hc hst]
    rfl
  · rw [exec_dataError_uncorrected he, dataError_rerun hesp hk hr]
    rfl
  · rw [exec_rerunVerdict_atClose hr hesp hc hk (by omega), if_pos hp]
    rfl
  · rw [exec_rerunVerdict_atClose hr hesp hc hk (by omega), if_neg (by omega), if_pos ⟨hn, hs⟩]
  · rw [exec_rerunVerdict_atClose hr hesp hc hk (by omega), if_neg (by omega), if_neg (not_and_or.mpr hne)]
  · have h := retireCore_coreHas (s := s.modCore k fun x => { x with stopped := false }) (Tab.wf_set hwf) k
    generalize State.retireCore _ k = t at h ⊢
    exact ⟨h.retirements, h.core⟩

end Sys2Proof
end

section
/-! PROOF. Clusters, O50: a state whose table of cores is not in canonical form. -/

namespace Sys2Proof.Machine

/-- Core 0 stands twice in the table of cores: first as at reset, then with a latch committed to ticket 1. A reservation of
ticket 7 wants it. -/
def coreListedTwice : State :=
  { State.reset with
    cores := [(0, {}), (0, { rlatch := .committed 1 })]
    reservations := [⟨0, 7, .fg, false, [0], [], [], 0, false⟩] }

/-- That RESERVE is no longer waited for takes the first entry out of the table, so that the request waits for the latch of
the second. -/
theorem coreListedTwice_waits : ∃ t, exec (.reserve 0 7 .fg false) coreListedTwice = .next t ∧
    t.reservations.map (·.granted) = [[]] :=
  ⟨_, rfl, by decide⟩

end Sys2Proof.Machine

namespace Sys2Proof

open Sys2Proof.Machine

/-- Refutes O50, on a state that no run reaches: its first clause takes a latch to be empty that reads as empty before RESERVE
is taken out of the requests that wait at the core. In a table of cores in canonical form it reads so afterwards too, but the
clause does not ask for that form. In `coreListedTwice` the write leaves nothing but defaults in the entry, which goes, and
uncovers an entry whose latch is committed to another ticket, where R262 has the request wait. -/
theorem not_clustersAndWork : ¬ Obligations.ClustersAndWork := by
  rintro ⟨hreserve, -⟩
  obtain ⟨hgrants, -⟩ := hreserve coreListedTwice 0 7 .fg false ⟨0, 7, .fg, false, [0], [], [], 0, false⟩ (by decide) rfl
    (by decide) (by decide) (by decide) (by decide) (by decide)
  obtain ⟨t, ht, hwaits⟩ := coreListedTwice_waits
  obtain rfl := Host.Outcome.next.inj (ht.symm.trans hgrants)
  exact absurd hwaits (by decide)

end Sys2Proof
end

section
/-! PROOF. Requests of a checkpoint bundle, O29 and O32: what a slot's request does, and what each instruction asks for. -/

namespace Sys2Proof.Machine

section
variable {s r u : State} {i : Instr} {d : Dst} {q : Request} {rel acq : Option (Scope × BitVec 4)} {v : Word}

/-! ## A slot's request (R283, R301, R365) -/

/-- A slot whose request waits changes nothing. -/
theorem slotRequest_ok {t : Option State} (h : s.Acts i) : s.slotRequest i (.ok t) = .next (t.getD s) := by
  cases t with
  | none => rfl
  | some t => exact slot_ok h

/-- Outside a rerun a request waits for its espalier's regions, for what its checkpoint released, and for its own release. -/
theorem request_eq (hr : s.here.replay = false) : s.request d q rel acq =
    if s.here.task.inEsp ∧ (s.here.past ≠ [] ∨ s.here.rel ≠ []) then some (s.park d q rel acq)
    else if s.here.rel ≠ [] then none
    else if (s.releaseFor s.cur.ctx (s.requestRelease rel)).2 = true then
      some ((s.releaseFor s.cur.ctx (s.requestRelease rel)).1.ask d q acq)
    else none := by
  unfold State.request
  simp only [hr]
  obtain ⟨t, done⟩ := s.releaseFor s.cur.ctx (s.requestRelease rel)
  cases done <;> rfl

theorem request_waits (hr : s.here.replay = false) (he : s.here.task.inEsp = false) (hrel : s.here.rel ≠ []) :
    s.request d q rel acq = none := by
  rw [request_eq hr, if_neg (by simp [he]), if_pos hrel]

theorem request_parks (hr : s.here.replay = false) (he : s.here.task.inEsp = true)
    (hopen : s.here.past ≠ [] ∨ s.here.rel ≠ []) : s.request d q rel acq = some (s.park d q rel acq) := by
  rw [request_eq hr, if_pos ⟨he, hopen⟩]

/-- With nothing open a request waits for its own release alone. -/
theorem request_clear (hr : s.here.replay = false) (hc : Claim.clear s) : s.request d q rel acq =
    if (s.releaseFor s.cur.ctx (s.requestRelease rel)).2 = true then
      some ((s.releaseFor s.cur.ctx (s.requestRelease rel)).1.ask d q acq)
    else none := by
  obtain ⟨hrel, hesp | hpast⟩ := hc
  · rw [request_eq hr, if_neg (by simp [hesp]), if_neg (not_not_intro hrel)]
  · rw [request_eq hr, if_neg (by simp [hpast, hrel]), if_neg (not_not_intro hrel)]

theorem request_releasing (hr : s.here.replay = false) (hc : Claim.clear s)
    (hrel : (s.releaseFor s.cur.ctx (s.requestRelease rel)).2 = false) : s.request d q rel acq = none := by
  rw [request_clear hr hc, if_neg (by simp [hrel])]

/-- A change of the context in issue that leaves its registers leaves its PC. -/
theorem pc_modCtx {f : Ctx → Ctx} (hne : f u.here ≠ {}) (ha : (f u.here).a = u.here.a) :
    (u.modCtx u.cur.ctx f).pc = u.pc := by
  have hread : (u.modCtx u.cur.ctx f).here = f u.here := setCtx_ctx_ne u u.cur.ctx hne
  unfold State.pc
  rw [hread, ha]

theorem ask_ok (hq : r.makeRequest q = (u, .ok v)) :
    r.ask d q acq = (Claim.answered u d q.span.1 q.span.2 v).acquireBy acq := by
  have hpc : (u.modCtx u.cur.ctx fun z => { z with reply := some ⟨v, none⟩, task := { z.task with released := true } }).pc =
      u.pc := pc_modCtx (fun h => nomatch congrArg Ctx.reply h) rfl
  unfold State.ask
  simp only [hq, Reply.of, State.deliver, hpc]
  rfl

theorem request_answered (hr : s.here.replay = false) (hc : Claim.clear s)
    (hrel : s.releaseFor s.cur.ctx (s.requestRelease rel) = (r, true)) (hq : r.makeRequest q = (u, .ok v)) :
    s.request d q rel acq = some ((Claim.answered u d q.span.1 q.span.2 v).acquireBy acq) := by
  rw [request_clear hr hc, hrel, if_pos rfl, ask_ok hq]

/-- A request's release is that of its instruction's annotation. -/
theorem releaseFor_requestRelease (s : State) (o : XaOps) :
    s.releaseFor s.cur.ctx (s.requestRelease (s.relOf o)) = Claim.afterRelease s o := by
  unfold Claim.afterRelease
  cases s.relOf o <;> rfl

/-! ## What each instruction asks for -/

variable {a b : Src} {o : XaOps} {x y : Word}

theorem exec_returning {f : (Dst → Src → Src → XaOps → Instr) × AtOp} (hf : f ∈ Claim.atomics) (s : State) (d : Dst)
    (a b : Src) (o : XaOps) : exec (f.1 d a b o) s = s.atomic (f.1 d a b o) f.2 d a b o := by
  simp only [Claim.atomics, List.mem_cons, List.not_mem_nil, or_false] at hf
  rcases hf with rfl | rfl | rfl | rfl | rfl | rfl | rfl | rfl | rfl | rfl | rfl <;> rfl

theorem atomic_requests {op : AtOp} (h : s.Acts i) (hk : s.cur.ckpt = true) (hdet : op = .fadd → s.here.task.det = false)
    (hx : s.srcS a = .ok x) (hy : s.srcS b op.one = .ok y) (hal : x.toNat % op.bytes = 0)
    (hl : s.here.task.leased x.toNat op.bytes .both = true) (hm : s.mtype x.toNat = 0) :
    s.atomic i op d a b o = .next
      ((s.request d (.atomic op x.toNat y (s.reg (Dst.num d))) (s.relOf o) (s.acqOf o)).getD s) := by
  have hword : s.checkWord x op.bytes = .ok () := checkMem_ok hal hl (fun _ => by simp [hm]) (fun _ => by simp [hm])
  have hd : s.checkDet op = .ok () := require_ok (by by_cases hop : op = .fadd <;> simp [hop, hdet])
  unfold State.atomic
  simp only [hx, hy, bind, Except.bind, require_ok hk, hd, hword]
  exact slotRequest_ok h

theorem exec_oopen (h : s.Acts (.oopen d a o)) (hk : s.cur.ckpt = true) (hx : s.srcS a = .ok x) (hal : x.toNat % 64 = 0)
    (hl : s.here.task.leased x.toNat 64 .read = true) (hm : s.mtype x.toNat ≠ 1) :
    exec (.oopen d a o) s = .next ((s.request d (.oopen x.toNat) (s.relOf o) none).getD s) := by
  have hc : s.checkMem x.toNat 64 64 .read true false = .ok () := checkMem_ok hal hl (fun _ => hm) nofun
  change s.slotRequest _ _ = _
  simp only [hx, bind, Except.bind, require_ok hk, hc]
  exact slotRequest_ok h

theorem exec_oclose (h : s.Acts (.oclose d a b o)) (hk : s.cur.ckpt = true) (hx : s.srcS a = .ok x) (hy : s.srcS b = .ok y)
    (hal : x.toNat % 64 = 0) (hl : s.here.task.leased x.toNat 64 .read = true) (hm : s.mtype x.toNat ≠ 1) :
    exec (.oclose d a b o) s = .next ((s.request d (.oclose x.toNat y) none (s.acqOf o)).getD s) := by
  have hc : s.checkMem x.toNat 64 64 .read true false = .ok () := checkMem_ok hal hl (fun _ => hm) nofun
  change s.slotRequest _ _ = _
  simp only [hx, both_ok hy hc, bind, Except.bind, require_ok hk]
  exact slotRequest_ok h

theorem exec_tkt (h : s.Acts (.tkt d a b)) (hk : s.cur.ckpt = true) (hx : s.srcS a = .ok x) (hy : s.srcS b = .ok y)
    (hal : x.toNat % 32 = 0) (hl : s.here.task.leased x.toNat 32 .read = true) (hm : s.mtype x.toNat ≠ 1) :
    exec (.tkt d a b) s = .next ((s.request d (.tkt x.toNat y) none none).getD s) := by
  have hc : s.checkMem x.toNat 32 32 .read true false = .ok () := checkMem_ok hal hl (fun _ => hm) nofun
  change s.slotRequest _ _ = _
  simp only [hx, both_ok hy hc, bind, Except.bind, require_ok hk]
  exact slotRequest_ok h

theorem makeRequest_tkt {va : Nat} {n : Word} {t : State} {bytes : List Byte} (hl : s.loadRange va 32 = (u, .ok bytes))
    (ht : u.takeTickets (BitVec.ofNat 256 (ofBytes bytes)) (n.toNat % 2 ^ 16) = (t, v)) :
    s.makeRequest (.tkt va n) = (t, .ok v) := by
  simp only [State.makeRequest, hl, ht]

/-! ## Reductions at the hub (R370, R371) -/

theorem openReduction_refuses {w : BitVec 512} (h : Rdesc.ok w = false) (s : State) (pa : Nat) :
    s.openReduction pa w = (s, 2) := by
  unfold State.openReduction
  rw [if_pos (by simp [h])]

theorem closeReduction_refuses (h : 1 < v.toNat) (s : State) (pa : Nat) : s.closeReduction pa v = (s, 2) := by
  unfold State.closeReduction
  rw [if_pos h]

/-- A close of 1 ends the reduction as it stands, one of 0 once each of its words has had every contribution. -/
theorem closeReduction_of_find {pa : Nat} {x : Reduction} (hv : v.toNat ≤ 1)
    (hx : (s.reductions.find? fun x => x.desc = pa) = some x) : s.closeReduction pa v =
      if v = 0 ∧ ∃ t ∈ x.next, t ≠ (x.tfirst + x.tcount) % 2 ^ 16 then (s, 1)
      else ({ s with reductions := s.reductions.filter fun x => x.desc ≠ pa }, 0) := by
  unfold State.closeReduction
  rw [if_neg (Nat.not_lt.mpr hv), hx]
  simp

end

end Sys2Proof.Machine

namespace Sys2Proof

open Sys2Proof.Machine

/-- Settles O29: each returning atomic makes its request by `State.request`, by the cases in which that waits or answers. -/
theorem returningAtomics : Obligations.ReturningAtomics := by
  intro f hf s d a b o x y hacts hk hdet hx hy hal hl hm hr
  have hexec := (exec_returning hf s d a b o).trans (atomic_requests (o := o) hacts hk hdet hx hy hal hl hm)
  refine ⟨fun he hrel => ?_, fun he hopen => ?_, fun hc hw => ?_, fun r u old hc hrel hq => ?_⟩
  · rw [hexec, request_waits hr he hrel]
    rfl
  · rw [hexec, request_parks hr he hopen]
    rfl
  · rw [hexec, request_releasing hr hc (by rw [releaseFor_requestRelease, hw])]
    rfl
  · have hmade : r.makeRequest (.atomic f.2 x.toNat y (s.reg (Dst.num d))) = (u, .ok old) := hq
    rw [hexec, request_answered hr hc ((releaseFor_requestRelease s o).trans hrel) hmade]
    rfl

/-- Settles O32, an instruction at a time; then the answers of an open and of a close. -/
theorem checkpointRequests : Obligations.CheckpointRequests := by
  refine ⟨fun s d a b o x y hk hx hy hr hc => ⟨fun hacts hal hl hm r u v hrel hq => ?_, fun hacts hal hl hm u v hq => ?_,
    fun hacts hal hl hm u bytes w v hload ht => ?_⟩, fun s pa w hw => openReduction_refuses hw s pa,
    fun s pa v r hfind => ⟨fun h => ?_, fun hv hn => ?_, fun hv => closeReduction_refuses hv s pa⟩⟩
  · have hmade : r.makeRequest (.oopen x.toNat) = (u, .ok v) := hq
    rw [exec_oopen hacts hk hx hal hl hm, request_answered hr hc ((releaseFor_requestRelease s o).trans hrel) hmade]
    rfl
  · have hmade : s.makeRequest (.oclose x.toNat y) = (u, .ok v) := hq
    rw [exec_oclose hacts hk hx hy hal hl hm, request_answered hr hc rfl hmade]
    rfl
  · rw [exec_tkt hacts hk hx hy hal hl hm, request_answered hr hc rfl (makeRequest_tkt hload ht)]
    rfl
  · rcases h with rfl | ⟨rfl, hall⟩
    · rw [closeReduction_of_find (by decide) hfind, if_neg (by simp)]
    · rw [closeReduction_of_find (by decide) hfind, if_neg fun ⟨_, t, ht, hne⟩ => hne (hall t ht)]
  · subst hv
    rw [closeReduction_of_find (by decide) hfind, if_pos ⟨rfl, hn⟩]

end Sys2Proof
end

section
/-! PROOF. Tasks, O33: a spawner whose table of control registers is not in canonical form. -/

namespace Sys2Proof.Machine

/-- The spawn counter, at its last value, stands before the frame's register in the table of control registers, and hides
it: FRAME reads as 0. The task has room in its deque, and the address of a frame in s1. -/
def frameHidden : State :=
  { State.reset with
    cur := { slot := 8 }
    ctxs := [(0, { task := placedTask, a := { s := [(1, 0x8000)], cr := [(0x22, 0xFFFF), (0x20, 0x4000)] } })] }

/-- The spawn counter wraps to 0 and leaves the table, so that the spawn is held with the frame that it hid. -/
theorem frameHidden_spawns : ∃ t, exec (.spawn false .drop (.reg 1)) frameHidden = .next t ∧
    (t.ctx 0).cbuf = [.spawn 0x8000 0xFFFF 0x4000 0] :=
  ⟨_, rfl, by decide⟩

end Sys2Proof.Machine

namespace Sys2Proof

open Sys2Proof.Machine

/-- Refutes O33, on a state whose table of control registers is not in canonical form: its first clause holds a spawn with the
frame that the spawner's control register 0x20 reads before the spawn counter is advanced. In a table in canonical form it
reads the same afterwards, but the statement asks for that form of the table of contexts alone. In `frameHidden` the counter
wraps to 0, its entry goes, and the frame's register, which it hid, reads otherwise. -/
theorem not_taskForms : ¬ Obligations.TaskForms := by
  intro h
  obtain ⟨hheld, -⟩ := h frameHidden rfl
  have hspawn := hheld false .drop (.reg 1) 0x8000 (by decide) (by decide) rfl rfl (by decide) (by decide) (by decide)
    (by decide) (by decide) (by decide)
  obtain ⟨t, ht, hcbuf⟩ := frameHidden_spawns
  obtain rfl := Host.Outcome.next.inj (ht.symm.trans hspawn)
  exact absurd hcbuf (by decide)

end Sys2Proof
end

section
/-! PROOF. Operator records, O51: what the record that a queue has next does, by its kind. -/

namespace Sys2Proof.Machine

section
variable {s u v w : State} {q d t : Nat} {r : BitVec 512} {view : FrameView}

/-! ## The record that a queue has next (R299, R465) -/

theorem onRecord_of_kind {is : Nat → Bool} {f : State → BitVec 512 → State} (h : s.nextRecord q = (u, some r))
    (hk : is (Rec.kind r) = true) : s.onRecord q is f = .next (f u r) := by
  unfold State.onRecord
  rw [h]
  simp only [hk, if_true]

theorem throughF1_away {f : State → Nat → BitVec 512 → State} (h : u.fnAway 1 = true) :
    State.throughF1 f u q r = u.holdQueue q := if_pos h

theorem throughF1_here {f : State → Nat → BitVec 512 → State} (h : u.fnAway 1 = false) :
    State.throughF1 f u q r = f u q r := if_neg (by simp [h])

/-! ## Records that name a frame (R295, R323, R388, R454) -/

theorem exec_walk_step {x : Walk} (hx : s.walks.find? (fun w => w.q = q) = some x) (hnext : x.next < Walk.steps x.topb)
    (hg : ∀ g ∈ s.grantsF3, g.launch.q ≠ some q) (hl : ∀ l ∈ s.launches, l.q ≠ some q) :
    exec (.walk q) s = .next (s.walkStep x) := by
  change execWalk q s = _
  unfold execWalk
  rw [hx]
  have hidle : ¬ ((s.grantsF3.any (fun g => g.launch.q = some q) || s.launches.any (fun l => l.q = some q) ||
      decide (Walk.steps x.topb ≤ x.next)) = true) := by
    simp only [Bool.or_eq_true, List.any_eq_true, decide_eq_true_iff, not_or, not_exists, not_and]
    exact ⟨⟨hg, hl⟩, Nat.not_le.mpr hnext⟩
  exact congrArg _ (if_neg hidle)

theorem exec_walk_begins (hnone : s.walks.find? (fun w => w.q = q) = none) (h : s.nextRecord q = (u, some r))
    (hk : Rec.kind r = 2) : exec (.walk q) s = .next (u.walkRecord q r) := by
  change execWalk q s = _
  unfold execWalk
  rw [hnone]
  exact onRecord_of_kind h (by simp [hk])

/-- The die is chosen by the frame's cluster where the frame is mapped, and otherwise as for a task of one member (R295). -/
theorem taskRecord_launches (hmap : u.frameUnmapped q (Rec.addr r) = false)
    (hd : d = ((u.queuePa q (Rec.addr r)).map (u.dieFor (u.queue q).owner)).getD (u.chooseDie (u.queue q).owner 1 1))
    (ht : u.takeTicket d = (v, t)) (hf : v.readFrame false d (u.queue q).owner (Rec.addr r) = (w, .view view))
    (hok : w.frameDetail (w.asidOf (u.queue q).owner) none view = none)
    (hmet : w.unmetBy (u.queue q).owner view.bits = none) :
    u.taskRecord q r = (w.launchLease (view.launch (some q) d t (u.queue q).owner)).holdQueue q := by
  subst hd
  unfold State.taskRecord
  simp only [hmap, Bool.false_eq_true, if_false, ht, hf, hok, hmet]

theorem leaseRecord_asks (hbit : r.getLsbD 128 = false) (hnone : u.heldLease (u.queue q).owner (Rec.addr r) = none)
    (hmap : u.frameUnmapped q (Rec.addr r) = false)
    (hd : d = ((u.queuePa q (Rec.addr r)).map (u.dieFor (u.queue q).owner)).getD (u.chooseDie (u.queue q).owner 1 1))
    (hf : u.readFrame false d (u.queue q).owner (Rec.addr r) = (w, .view view))
    (hok : w.frameDetail (w.asidOf (u.queue q).owner) none view = none) :
    u.leaseRecord q r =
      (w.askGrant (view.launch (some q) d (u.queue q).dispt.toNat (u.queue q).owner) true false).holdQueue q := by
  subst hd
  unfold State.leaseRecord
  simp only [hbit, hnone, hmap, Bool.false_eq_true, if_false, hf, hok]

theorem leaseRecord_drops {g : Lease} (hbit : r.getLsbD 128 = true)
    (hg : u.heldLease (u.queue q).owner (Rec.addr r) = some g) : u.leaseRecord q r =
      ((u.modLease g.id fun x => { x with record := none }).dropLease g.id).finishRecord q := by
  unfold State.leaseRecord
  simp only [hbit, State.dropHeld, hg]

/-! ## Records that name memory (R333, R459, Table 15.7) -/

theorem recordWord_eq {pa : Nat} (hal : Rec.addr r % 8 = 0) (hpa : u.queuePa q (Rec.addr r) = some pa) :
    u.recordWord q r = some pa := (if_neg (not_not_intro hal)).trans hpa

theorem waitRecord_eq {pa : Nat} (hpa : u.recordWord q r = some pa) : u.waitRecord q r =
    if Rec.word2 r ≤ u.homeNat pa 8 then (u.readHome (u.queue q).owner .normal pa 8).1.finishRecord q
    else (u.readHome (u.queue q).owner .normal pa 8).1.holdQueue q := by
  unfold State.waitRecord
  rw [hpa]
  rfl

theorem signalRecord_eq {pa : Nat} (hpa : u.recordWord q r = some pa)
    (hv : v = if r.getLsbD 192
      then (u.readHome (u.queue q).owner .normal pa 8).1.writeHome (u.queue q).owner .normal pa
        (bytesOf 8 ((u.homeNat pa 8 + Rec.word2 r) % 2 ^ 64))
      else u.writeHome (u.queue q).owner .normal pa (bytesOf 8 (Rec.word2 r))) :
    u.signalRecord q r =
      (if r.getLsbD 193 then v.msix (u.queue q).owner (Rec.vec r) else v).finishRecord q := by
  subst hv
  unfold State.signalRecord
  rw [hpa]
  rfl

theorem bindRecord_empty (hlen : Rec.len r = 0) : u.bindRecord q r = u.finishRecord q := by
  unfold State.bindRecord
  simp only [hlen, if_true]
  rfl

theorem bindRecord_eq {pas : List Nat} (hlen : Rec.len r ≠ 0)
    (hpas : ((List.range ((Rec.addr r % 128 + Rec.len r + 127) / 128)).map fun i =>
      Rec.addr r / 128 * 128 + 128 * i).mapM (u.queuePa q) = some pas) :
    u.bindRecord q r = (pas.foldl (fun (v : State) pa =>
      if paKind pa = .hbm && bitN (Rec.dies r) (homeDie pa) then v.bindLine (v.queue q).owner (pa / 128) else v)
        u).finishRecord q := by
  unfold State.bindRecord
  simp only [hlen, if_false, hpas]

theorem summaryRecord_eq {x : State} (hctrl : (u.queue q).ctrl = true) (hal : Rec.addr r % 4096 = 0)
    (hx : ({ u with snapseq := u.snapseq + 1 } : State).writeVa (u.queue q).owner (Rec.addr r)
      ((u.summaryHeader (u.queue q).owner (u.snapseq + 1) (Rec.len r) (u.sections (u.queue q).owner) ++
        (u.sections (u.queue q).owner).flatMap (·.2.2)).take (Rec.len r)) = some x) :
    u.summaryRecord q r = (x.complete (u.queue q).owner (Rec.node r)).finishRecord q := by
  unfold State.summaryRecord
  rw [if_neg (by simp [hctrl, hal])]
  simp only [hx]

/-! ## Each kind's instruction (R299, R454, R465) -/

theorem exec_emptyRecord_empty (h : s.nextRecord q = (u, some r)) (hk : Rec.kind r = 0) :
    exec (.emptyRecord q) s = .next (u.finishRecord q) :=
  (onRecord_of_kind (is := fun k => k = 0 || 7 < k) h (by simp [hk])).trans (congrArg _ (if_pos hk))

theorem exec_emptyRecord_unknown (h : s.nextRecord q = (u, some r)) (hk : 7 < Rec.kind r) :
    exec (.emptyRecord q) s = .next (u.badRecord q r) :=
  (onRecord_of_kind (is := fun k => k = 0 || 7 < k) h (by simp [hk])).trans (congrArg _ (if_neg (by omega)))

theorem exec_task (h : s.nextRecord q = (u, some r)) (hk : Rec.kind r = 1) :
    exec (.task q) s = .next (u.taskRecord q r) := onRecord_of_kind (is := fun k => k = 1) h (by simp [hk])

theorem exec_wait (h : s.nextRecord q = (u, some r)) (hk : Rec.kind r = 3) :
    exec (.wait q) s = .next (u.waitRecord q r) := onRecord_of_kind (is := fun k => k = 3) h (by simp [hk])

theorem exec_signal (h : s.nextRecord q = (u, some r)) (hk : Rec.kind r = 4) :
    exec (.signal q) s = .next (u.signalRecord q r) := onRecord_of_kind (is := fun k => k = 4) h (by simp [hk])

theorem exec_bind (h : s.nextRecord q = (u, some r)) (hk : Rec.kind r = 5) :
    exec (.bind q) s = .next (State.throughF1 State.bindRecord u q r) :=
  onRecord_of_kind (is := fun k => k = 5) h (by simp [hk])

theorem exec_lease (h : s.nextRecord q = (u, some r)) (hk : Rec.kind r = 6) :
    exec (.lease q) s = .next (State.throughF1 State.leaseRecord u q r) :=
  onRecord_of_kind (is := fun k => k = 6) h (by simp [hk])

theorem exec_summary (h : s.nextRecord q = (u, some r)) (hk : Rec.kind r = 7) :
    exec (.summary q) s = .next (State.throughF1 State.summaryRecord u q r) :=
  onRecord_of_kind (is := fun k => k = 7) h (by simp [hk])

/-- A record that F1 performs waits while F1 is being replaced (R465). -/
theorem exec_f1Record_away {i : Nat × Instr} (hi : i ∈ [(5, Instr.bind q), (6, .lease q), (7, .summary q)])
    (h : s.nextRecord q = (u, some r)) (hk : Rec.kind r = i.1) (ha : u.fnAway 1 = true) :
    exec i.2 s = .next (u.holdQueue q) := by
  simp only [List.mem_cons, List.not_mem_nil, or_false] at hi
  rcases hi with rfl | rfl | rfl
  · rw [exec_bind h hk, throughF1_away ha]
  · rw [exec_lease h hk, throughF1_away ha]
  · rw [exec_summary h hk, throughF1_away ha]

end

end Sys2Proof.Machine

namespace Sys2Proof

open Sys2Proof.Machine

/-- Settles O51, a kind at a time. -/
theorem recordsActByKind : Obligations.RecordsActByKind := by
  refine ⟨fun _ _ _ => exec_walk_step, fun s u q r h => ⟨exec_emptyRecord_empty h, exec_emptyRecord_unknown h,
    fun hk hmap d v w t view hd ht hf hok hmet => ?task, fun hk hnone => exec_walk_begins hnone h hk,
    fun pa hk hal hpa => ?wait, fun pa v hk hal hpa hv => ?signal, fun _ hi hk ha => exec_f1Record_away hi h hk ha,
    fun hk ha hlen => ?bindEmpty, fun pas hk ha hlen hpas => ?bind,
    fun hk ha hbit hnone hmap d w view hd hf hok => ?leaseAsks, fun hk ha hbit g hg => ?leaseDrops,
    fun hk ha hctrl hal t ht => ?summary⟩⟩
  case task => rw [exec_task h hk, taskRecord_launches hmap hd ht hf hok hmet]
  case wait => rw [exec_wait h hk, waitRecord_eq (recordWord_eq hal hpa)]
  case signal => rw [exec_signal h hk, signalRecord_eq (recordWord_eq hal hpa) hv]
  case bindEmpty => rw [exec_bind h hk, throughF1_here ha, bindRecord_empty hlen]
  case bind => rw [exec_bind h hk, throughF1_here ha, bindRecord_eq hlen hpas]
  case leaseAsks => rw [exec_lease h hk, throughF1_here ha, leaseRecord_asks hbit hnone hmap hd hf hok]
  case leaseDrops => rw [exec_lease h hk, throughF1_here ha, leaseRecord_drops hbit hg]
  case summary => rw [exec_summary h hk, throughF1_here ha, summaryRecord_eq hctrl hal ht]

end Sys2Proof
end

section
/-! PROOF. The HBM controllers, O53: a request admitted, an activation with and without an alert, a back-off's end, refresh,
idle rows and uncorrectable lines. -/

namespace Sys2Proof.Machine

section
variable {s : State} {k j t c b row pa : Nat} {q : HbmReq} {h : Hbm}

/-! ## Changes of one controller -/

theorem hbmAt_modHbm_same (hwf : Tab.wf {} s.hbm = true) (k : Nat) (f : Hbm → Hbm) :
    (s.modHbm k f).hbmAt k = f (s.hbmAt k) := Tab.get_set_same hwf

/-- Two changes of one controller in turn are one. -/
theorem modHbm_modHbm (hwf : Tab.wf {} s.hbm = true) (k : Nat) (f g : Hbm → Hbm) :
    (s.modHbm k f).modHbm k g = s.modHbm k fun h => g (f h) := by
  rw [modHbm_eq (s := s.modHbm k f), hbmAt_modHbm_same hwf]
  simp only [State.modHbm, State.setHbm]
  rw [Tab.set_set hwf]

/-! ## Admission (R339) -/

/-- What is taken of an admitted request's class, if anything, is the only part that depends on the class's share. -/
theorem exec_hbmRequestAdmit (ht : s.now ≤ t) (hm : s.mayAdmit k j t = true) (hq : (s.hbmAt k).waiting[j]? = some q)
    (hh : (if s.classShare k q.cos = 256 ∨ s.classShare k q.cos = 0 then s.hbmAt k else
      { s.hbmAt k with
        credit := Tab.set 0 (s.hbmAt k).credit q.cos (s.lacks k q t + 256 * q.bytes)
        creditAt := Tab.set 0 (s.hbmAt k).creditAt q.cos t }) = h) :
    exec (.hbmRequestAdmit k j t) s = .next ((({ s with now := t } : State).setHbm k
      { h with waiting := h.waiting.eraseIdx j, admitted := h.admitted ++ [{ q with arrived := t }] }).modRegion
      q.region fun r => { r with hbmbytes := r.hbmbytes + BitVec.ofNat 64 q.bytes }) := by
  subst hh
  change Host.Outcome.next (s.hbmAdmit k j t) = _
  have hmax : Nat.max s.now t = t := Nat.max_eq_right ht
  unfold State.hbmAdmit
  simp only [hmax, hm, hq, Bool.not_true, Bool.false_eq_true, if_false, decide_eq_true_eq]
  rfl

/-! ## The request that is served (R344) -/

theorem rowAt_closed {x : HbmBank} (hx : x.openRow = none) : x.rowAt t = none := by
  unfold HbmBank.rowAt
  rw [hx, ite_self]

/-- A bank that was never used holds no row open. -/
theorem hits_unused (hb : Tab.get {} h.banks q.bankKey = {}) : h.hits t q = false := by
  unfold Hbm.hits
  rw [hb, rowAt_closed rfl]
  rfl

theorem mayActivate_unused (hb : Tab.get {} h.banks q.bankKey = {}) : h.mayActivate t q = true := by
  unfold Hbm.mayActivate
  rw [hb]
  rfl

/-- The one admitted request is served next, whether it has waited 2 µs or not, once its bank may activate its row. -/
theorem nextServed_single (hq : h.admitted = [q]) (hm : h.mayActivate t q = true) : h.nextServed t = some 0 := by
  unfold Hbm.nextServed
  by_cases hlate : q.arrived + 2000 ≤ t <;> cases hhit : h.hits t q <;> simp [hq, hm, hlate, hhit]

/-! ## Back-off (R346) -/

theorem settle_resting (hb : (Tab.get {} h.banks b).backoff = none) : h.settle b t = h := by
  unfold Hbm.settle
  simp only [hb]

/-- A back-off that is over leaves its bank closed; where no request is admitted, none has waited on it. -/
theorem settle_over {e : Nat} (hb : (Tab.get {} h.banks b).backoff = some e) (he : e ≤ t) (ha : h.admitted = []) :
    h.settle b t =
      { h with banks := Tab.set {} h.banks b { Tab.get {} h.banks b with backoff := none, openRow := none } } := by
  unfold Hbm.settle
  simp only [hb, if_neg (Nat.not_lt.mpr he), ha]
  rfl

/-! ## Activation (R345 to R347) -/

/-- The count of a request's row once it is activated once more. -/
def Hbm.counted (h : Hbm) (q : HbmReq) : Nat :=
  Nat.min 0xFFFF ((Tab.get 0 h.cnt (q.bankKey * 65536 + homeRow q.pa)).toNat + 1)

/-- A bank with a request's row open since time `t`. -/
def Hbm.opened (h : Hbm) (q : HbmReq) (t : Nat) (back : Option Nat) : Tab HbmBank :=
  Tab.set {} h.banks q.bankKey { openRow := some (homeRow q.pa), lastUse := t, lastAct := some t, backoff := back }

theorem activateRow_below (hn : (s.hbmAt k).counted q < s.rowThreshold q.region) :
    s.activateRow k t q = s.modHbm k fun h => { h with
      actcnt := h.actcnt + 1
      cnt := Tab.set 0 h.cnt (q.bankKey * 65536 + homeRow q.pa) (BitVec.ofNat 16 ((s.hbmAt k).counted q))
      banks := h.opened q t none } := by
  have halert : decide (s.rowThreshold q.region ≤ (s.hbmAt k).counted q) = false :=
    decide_eq_false (Nat.not_le.mpr hn)
  unfold Hbm.counted at halert
  unfold State.activateRow
  simp only [halert, Bool.false_eq_true, if_false]
  rfl

theorem activateRow_alerts (hn : s.rowThreshold q.region ≤ (s.hbmAt k).counted q) :
    s.activateRow k t q = (s.modHbm k fun h => { h with
      actcnt := h.actcnt + 1
      cnt := Tab.set 0 h.cnt (q.bankKey * 65536 + homeRow q.pa) 0
      alerts := h.alerts + 1
      rfmcnt := h.rfmcnt + BitVec.ofNat 64 (neighbours (homeRow q.pa))
      banks := h.opened q t (some (t + 48 + 240)) }).post q.region ev.rowalert
        (k + homeChn q.pa * 2 ^ 3 + homeBank q.pa * 2 ^ 9 + homeRow q.pa * 2 ^ 13) (q.pa / 128 * 128) := by
  have halert : decide (s.rowThreshold q.region ≤ (s.hbmAt k).counted q) = true := decide_eq_true hn
  unfold Hbm.counted at halert
  unfold State.activateRow
  simp only [halert, if_true]
  rfl

/-- The one admitted request leaves the queue of its controller, and activates its row in a bank that was never used. -/
theorem exec_activation_single (ht : s.now ≤ t) (hq : (s.hbmAt k).admitted = [q])
    (hb : Tab.get {} (s.hbmAt k).banks q.bankKey = {}) : exec (.activation k 0 t) s =
      .next ((({ s with now := t } : State).modHbm k fun h => { h with admitted := [] }).activateRow k t q) := by
  have hmax : Nat.max s.now t = t := Nat.max_eq_right ht
  have hrest : (s.hbmAt k).settle q.bankKey t = s.hbmAt k := settle_resting (by rw [hb])
  have hnow : ({ s with now := t } : State).hbmAt k = s.hbmAt k := rfl
  change Host.Outcome.next (s.hbmServe k 0 t) = _
  unfold State.hbmServe
  simp only [hmax, nextServed_single hq (mayActivate_unused hb), hits_unused hb, hq, List.getElem?_cons_zero, ne_eq,
    not_true_eq_false, if_false, Bool.false_eq_true, State.modHbm, hnow, hrest]
  rfl

/-! ## Back-off's end, refresh and idle rows (R344 to R346) -/

theorem exec_backoffEnd {e : Nat} (ht : s.now ≤ t) (hb : (Tab.get {} (s.hbmAt k).banks (c * 16 + b)).backoff = some e)
    (he : e ≤ t) (ha : (s.hbmAt k).admitted = []) : exec (.backoffEnd k c b t) s =
      .next (({ s with now := t } : State).modHbm k fun h => { h with
        banks := Tab.set {} h.banks (c * 16 + b)
          { Tab.get {} h.banks (c * 16 + b) with backoff := none, openRow := none } }) := by
  have hmax : Nat.max s.now t = t := Nat.max_eq_right ht
  have hnow : ({ s with now := t } : State).hbmAt k = s.hbmAt k := rfl
  change execBackoffEnd k c b t s = _
  unfold execBackoffEnd
  simp only [hmax, State.modHbm, hnow, settle_over hb he ha]

theorem exec_rowIdleClose (ht : s.now ≤ t) (hidle : (Tab.get {} (s.hbmAt k).banks (c * 16 + b)).lastUse + 100 ≤ t) :
    exec (.rowIdleClose k c b t) s = .next (({ s with now := t } : State).modHbm k fun h => { h with
      banks := Tab.set {} h.banks (c * 16 + b) { Tab.get {} h.banks (c * 16 + b) with openRow := none } }) := by
  have hmax : Nat.max s.now t = t := Nat.max_eq_right ht
  have hnow : ({ s with now := t } : State).hbmAt k = s.hbmAt k := rfl
  change execRowIdleClose k c b t s = _
  unfold execRowIdleClose
  simp only [hmax, State.modHbm, hnow, if_pos hidle]

/-! ## Uncorrectable lines (R335, R495) -/

theorem paKind_eq_hbm_iff : paKind pa = .hbm ↔ pa < 0x80_0000_0000 := by
  unfold paKind
  split_ifs <;> simp_all

theorem exec_hbmLineUncorrectable_new (hpa : pa < 0x80_0000_0000) (hnew : pa / 128 ∉ s.badLines) :
    exec (.hbmLineUncorrectable pa) s = .next { s with badLines := s.badLines ++ [pa / 128] } := by
  change execHbmLineUncorrectable pa s = _
  unfold execHbmLineUncorrectable
  rw [if_neg (not_not_intro (paKind_eq_hbm_iff.mpr hpa)), if_neg (by simpa using hnew)]

theorem exec_hbmLineUncorrectable_stops (hpa : 0x80_0000_0000 ≤ pa) :
    exec (.hbmLineUncorrectable pa) s = .fault (.unmappedPhysical pa) :=
  if_pos fun h => absurd (paKind_eq_hbm_iff.mp h) (Nat.not_lt.mpr hpa)

end

end Sys2Proof.Machine

namespace Sys2Proof

open Sys2Proof.Machine

/-- Settles O53, an event at a time; the activation takes two changes of its controller, which its table, in canonical form,
makes one. -/
theorem hbmControllerEvents : Obligations.HbmControllerEvents := by
  refine ⟨fun s k j t q ht hm hq => ⟨fun hfree => ?free, fun hcharged => ?charged⟩,
    fun s k t q ht hq hwf hb => ?activation,
    fun s k c b t e ht hb he ha x hx => ?backoff, fun s k c b row => rfl, fun s k c b t ht hidle x hx => ?idle,
    fun s pa => ⟨exec_hbmLineUncorrectable_new, exec_hbmLineUncorrectable_stops⟩⟩
  case free => exact exec_hbmRequestAdmit ht hm hq (if_pos hfree)
  case charged => exact exec_hbmRequestAdmit ht hm hq (if_neg hcharged)
  case activation =>
    have hat := hbmAt_modHbm_same (s := { s with now := t }) hwf k fun h => { h with admitted := [] }
    have hone := modHbm_modHbm (s := { s with now := t }) hwf k fun h => { h with admitted := [] }
    rw [exec_activation_single ht hq hb]
    refine ⟨fun hn => ?_, fun hn => ?_⟩
    · rw [activateRow_below (by rw [hat]; exact hn), hone, hat]
      rfl
    · rw [activateRow_alerts (by rw [hat]; exact hn), hone]
      rfl
  case backoff =>
    rw [exec_backoffEnd ht hb he ha, hx]
    rfl
  case idle =>
    rw [exec_rowIdleClose ht hidle, hx]
    rfl

end Sys2Proof
end

section
/-! PROOF. An atomic at its word, O30: slice traffic leaves what HBM holds as it stands, and the bytes of a number written
there read back as that number. -/

namespace Sys2Proof.Machine

theorem ofBytes_bytesOf (n x : Nat) : ofBytes (bytesOf n x) = x % 2 ^ (8 * n) := by
  induction n generalizing x with
  | zero => simp [bytesOf, ofBytes, Nat.mod_one]
  | succ n ih =>
    rw [bytesOf, ofBytes, ih, BitVec.toNat_ofNat, Nat.mul_succ, Nat.add_comm (8 * n), pow_add, Nat.mod_mul]
    rfl

theorem length_bytesOf (n x : Nat) : (bytesOf n x).length = n := by
  induction n generalizing x with
  | zero => rfl
  | succ n ih => rw [bytesOf, List.length_cons, ih]

/-- What HBM holds, and which of its words hold an UNDER of a completion node. -/
def State.stored (s : State) : Tab Byte × List Nat := (s.mem, s.under)

section
variable {s t : State}

theorem holdsUnder_of_stored (h : t.stored = s.stored) (pa : Nat) : t.holdsUnder pa = s.holdsUnder pa := by
  rw [State.holdsUnder, State.holdsUnder, show t.under = s.under from congrArg Prod.snd h]

theorem homeByte_of_stored (h : t.stored = s.stored) {pa : Nat} (hp : paKind pa = .hbm) : t.homeByte pa = s.homeByte pa := by
  simp only [State.homeByte, hp, show t.mem = s.mem from congrArg Prod.fst h]

/-! ## Slice traffic leaves what HBM holds (R337) -/

theorem ite_stored {u : State} {c : Prop} [Decidable c] (ht : t.stored = s.stored) (hu : u.stored = s.stored) :
    (if c then t else u).stored = s.stored := by split <;> assumption

theorem l2Evict_stored (s : State) (d : Nat) (l : L2Line) : (s.l2Evict d l).stored = s.stored :=
  ite_stored rfl (ite_stored rfl rfl)

theorem l2Alloc_stored {region line : Nat} {hint : Hint} {valid dirty : BitVec 128}
    (h : s.l2Alloc region hint line valid dirty = some t) : t.stored = s.stored := by
  unfold State.l2Alloc at h
  extract_lets d cos mates free own ways ok keep w s1 s2 at h
  have hevicted : s1.stored = s.stored := by
    unfold s1
    split
    · exact l2Evict_stored ..
    · rfl
  split at h
  · cases h
  · cases h
    exact hevicted

theorem sliceRead_stored (s : State) (region : Nat) (hint : Hint) (line : Nat) (mask : BitVec 128) :
    (s.sliceRead region hint line mask).stored = s.stored := by
  unfold State.sliceRead
  extract_lets pa d
  refine ite_stored rfl ?_
  split
  · exact ite_stored rfl (ite_stored rfl rfl)
  · refine ite_stored rfl ?_
    cases ha : State.l2Alloc _ region hint line (BitVec.allOnes 128) 0 with
    | none => rfl
    | some t => exact (l2Alloc_stored ha).trans rfl

theorem sliceWrite_stored (s : State) (region : Nat) (hint : Hint) (line : Nat) (mask : BitVec 128) :
    (s.sliceWrite region hint line mask).stored = s.stored := by
  unfold State.sliceWrite
  extract_lets pa d direct
  have hdirect : (direct s).stored = s.stored := ite_stored rfl rfl
  refine ite_stored rfl ?_
  split
  · rfl
  · refine ite_stored hdirect ?_
    split
    · next ha => exact l2Alloc_stored ha
    · exact hdirect

theorem readHome_stored (s : State) (region : Nat) (hint : Hint) (pa n : Nat) :
    (s.readHome region hint pa n).1.stored = s.stored :=
  List.foldlRecOn (motive := fun t : State => t.stored = s.stored) _ _ rfl
    fun _ h _ _ => (sliceRead_stored ..).trans h

/-! ## A word written and read back -/

theorem setHomeByte_stored (h : t.stored = s.stored) (pa : Nat) (b : Byte) :
    (t.setHomeByte pa b).stored = (s.setHomeByte pa b).stored := by
  obtain ⟨hmem, hunder⟩ := Prod.mk.inj h
  unfold State.setHomeByte
  cases paKind pa with
  | hbm => simp only [State.stored, holdsUnder_of_stored h, hmem, hunder]
  | host | device | unmapped => exact h

theorem homeWrite_stored (l : List Byte) : ∀ {s t : State} (pa : Nat), t.stored = s.stored →
    (t.homeWrite pa l).stored = (s.homeWrite pa l).stored := by
  induction l with
  | nil => exact fun _ h => h
  | cons b l ih => exact fun pa h => ih (pa + 1) (setHomeByte_stored h pa b)

/-- Bytes of HBM that hold no UNDER read back as they were written, whatever form the table of host memory has. -/
theorem homeRead_homeWrite {pa : Nat} {l : List Byte} (hwf : Memory.wf s.mem)
    (hp : ∀ i, i < l.length → paKind (pa + i) = .hbm) (hu : ∀ i, i < l.length → s.holdsUnder (pa + i) = false) :
    (s.homeWrite pa l).homeRead pa l.length = l := by
  have hbyte : ∀ i, i < l.length → (s.homeWrite pa l).homeByte (pa + i) = l.getD i 0 := fun i hi => by
    obtain ⟨t, hst, htwf⟩ : ∃ t : State, s.stored = t.stored ∧ t.MemWf := ⟨{ s with hostMem := [] }, rfl, hwf, rfl⟩
    rw [homeByte_of_stored (homeWrite_stored l pa hst) (hp i hi), homeByte_homeWrite_hbm l htwf i hi (hp i hi),
      ← holdsUnder_of_stored hst, hu i hi]
    rfl
  refine List.ext_getElem (by simp [State.homeRead]) fun i _ hi => ?_
  rw [← List.getD_eq_getElem l 0 hi, ← hbyte i hi]
  simp [State.homeRead]

theorem homeNat_writeHome {region : Nat} {hint : Hint} {pa n v : Nat} (hwf : Memory.wf s.mem)
    (hp : ∀ i, i < n → paKind (pa + i) = .hbm) (hu : ∀ i, i < n → s.holdsUnder (pa + i) = false) :
    (s.writeHome region hint pa (bytesOf n v)).homeNat pa n = v % 2 ^ (8 * n) := by
  have hslices := List.foldlRecOn (motive := fun t : State => t.stored = s.stored)
    (lineParts pa (bytesOf n v).length) (fun s p => s.sliceWrite region hint p.1 (lineMask p.2.1 p.2.2)) rfl
    fun _ h _ _ => (sliceWrite_stored ..).trans h
  have hread := homeRead_homeWrite (s := s) (pa := pa) (l := bytesOf n v) hwf (by rwa [length_bytesOf])
    (by rwa [length_bytesOf])
  rw [length_bytesOf] at hread
  have hsame : (s.writeHome region hint pa (bytesOf n v)).homeRead pa n = (s.homeWrite pa (bytesOf n v)).homeRead pa n :=
    List.map_congr_left fun i hi => homeByte_of_stored (homeWrite_stored _ pa hslices) (hp i (List.mem_range.mp hi))
  rw [State.homeNat, hsame, hread, ofBytes_bytesOf]

/-! ## The atomic (R364) -/

theorem AtOp.bytes_le (op : AtOp) : op.bytes ≤ 8 := by cases op <;> decide

theorem paKind_hbm {pa : Nat} (h : pa < 0x80_0000_0000) : paKind pa = .hbm := if_pos h

/-- A word that has a physical address, holds good data and is no ordered word of an FP add is read and written at its home,
once the core's own copy has gone there. -/
theorem homeAtomic_ok {u w : State} {op : AtOp} {va pa : Nat} {v e : Word} (hpa : s.resolve va .both = (u, some pa))
    (hw : u.l1Yield (coreOf u.cur.ctx) (pa / 128) = w) (hbad : w.badAt pa op.bytes = none)
    (hord : op = .fadd → w.orderedLine (pa / 128) = false) :
    let r := (w.readHome w.here.task.region .normal pa op.bytes).1
    let old := BitVec.ofNat 64 (w.homeNat pa op.bytes)
    s.homeAtomic op va v e =
      (r.writeHome r.here.task.region .normal pa (bytesOf op.bytes (op.apply old v e).toNat), .ok old) := by
  have hplain : ¬ (op = .fadd ∧ w.orderedLine (pa / 128) = true) := fun ⟨hop, hline⟩ => by simp [hord hop] at hline
  simp only [State.homeAtomic, hpa, hw, hbad, if_neg hplain]

end

end Sys2Proof.Machine

namespace Sys2Proof

open Sys2Proof.Machine

/-- Settles O30: the word is read, and its slice's traffic leaves the bytes for the write that follows. -/
theorem atomicsUpdateTheirWord : Obligations.AtomicsUpdateTheirWord := by
  intro s op va pa v e u hpa htop w hwf hbad hord hu
  have hread := readHome_stored w w.here.task.region .normal pa op.bytes
  have hmem : _ = w.mem := congrArg Prod.fst hread
  refine ⟨_, homeAtomic_ok hpa rfl hbad hord, homeNat_writeHome ?wf (fun i hi => ?hbm) fun i hi => ?under⟩
  case wf => exact (congrArg Memory.wf hmem).mpr hwf
  case hbm => exact paKind_hbm (by have := op.bytes_le; omega)
  case under => exact (holdsUnder_of_stored hread _).trans (hu i hi)

end Sys2Proof
end

section
/-! PROOF. Atomics that are held, O31: each update form and each ordered atomic, once for all of them. -/

namespace Sys2Proof.Machine

section
variable {s : State} {i : Instr} {op : AtOp} {tk a b : Src} {o : XaOps} {x y z : Word}

theorem checkWord_ok {n : Nat} (hal : x.toNat % n = 0) (hl : s.here.task.leased x.toNat n .both = true)
    (hm : s.mtype x.toNat = 0) : s.checkWord x n = .ok () :=
  checkMem_ok hal hl (fun _ => by simp [hm]) (fun _ => by simp [hm])

theorem checkDet_ok (hdet : op = .fadd → s.here.task.det = false) : s.checkDet op = .ok () :=
  require_ok (by by_cases hop : op = .fadd <;> simp [hop, hdet])

theorem exec_updating {f : (Src → Src → Instr) × AtOp} (hf : f ∈ Claim.updates) (s : State) (a b : Src) :
    exec (f.1 a b) s = s.update (f.1 a b) f.2 a b := by
  simp only [Claim.updates, List.mem_cons, List.not_mem_nil, or_false] at hf
  rcases hf with rfl | rfl | rfl | rfl | rfl | rfl | rfl | rfl | rfl <;> rfl

theorem update_held (h : s.Acts i) (hdet : op = .fadd → s.here.task.det = false) (hx : s.srcS a = .ok x)
    (hy : s.srcS b op.one = .ok y) (hword : s.checkWord x op.bytes = .ok ()) :
    s.update i op a b = .next (s.withHeld (.upd op x y s.pc)) := by
  unfold State.update
  simp only [hx, hy, checkDet_ok hdet, hword, bind, Except.bind]
  exact slot_ok h

theorem orderedAtomic_held {fp : Bool} (h : s.Acts i) (hz : s.srcS tk = .ok z) (hx : s.srcS a = .ok x)
    (hy : s.srcS b (if fp then oneF32 else 1) = .ok y) (hword : s.checkWord x (ordBytes fp) = .ok ()) :
    s.orderedAtomic i fp tk a b o =
      .next (s.withHeld (.ordered fp x y (z.toNat % 2 ^ 16) (s.release (s.relOf o)) s.pc)) := by
  unfold State.orderedAtomic
  simp only [hx, hy, hz, hword, bind, Except.bind]
  exact slot_ok h

/-- The release that an annotation asks of a held atomic (R363). -/
theorem release_relOf (s : State) (o : XaOps) : s.release (s.relOf o) =
    if o.ord = .release ∨ o.ord = .acqRel then some ⟨o.scope, s.atPaths o.psel, s.here.seq⟩ else none := by
  unfold State.relOf
  split <;> rfl

end

end Sys2Proof.Machine

namespace Sys2Proof

open Sys2Proof.Machine

/-- Settles O31: an update form, and then each of the two ordered atomics. -/
theorem heldAtomics : Obligations.HeldAtomics := by
  refine ⟨fun f hf s a b x y hacts hdet hx hy hal hl hm => ?update,
    fun f hf s tk a b o x y z hacts hz hx hy hal hl hm => ?ordered⟩
  case update => exact (exec_updating hf s a b).trans (update_held hacts hdet hx hy (checkWord_ok hal hl hm))
  case ordered =>
    rw [← release_relOf]
    simp only [List.mem_cons, List.not_mem_nil, or_false] at hf
    rcases hf with rfl | rfl <;> exact orderedAtomic_held hacts hz hx hy (checkWord_ok hal hl hm)

end Sys2Proof
end

section
/-! PROOF. MWAIT, INVL and PROBE, O34: an MWAIT by what the read of its word gives, an INVL held, a PROBE as a load. -/

namespace Sys2Proof.Machine

section
variable {s u : State} {i : Instr} {d : Dst} {a b : Src}

@[simp] theorem srcS_zero (s : State) (one : Word) : s.srcS (.special .zero) one = .ok 0 := rfl

/-- The load of a word at an address held in a register. -/
theorem loaded_word (s : State) (va : Word) (w : Wr) : Claim.loaded s va.toNat 8 w =
    { wr := w, pc := s.pc, va := va, size := 8, ext := false, bad := none } := by
  simp [Claim.loaded]

/-! ## MWAIT (R438) -/

section
variable {va v : Word} {met : Word → Word → Bool}

theorem mwait_of_read {x : Word} (h : s.Acts i) (hw : s.mwaitWord a b = .ok (u, .ok x, va, v)) :
    s.mwait i d a b met =
      .next (if s.here.replay || met x v then (u.acquire s.cur.ctx .fabric 15).putQuiet d 1 x else s) := by
  simp only [State.mwait, hw]
  rw [if_neg (by simp [h]), apply_ite Host.Outcome.next]

theorem mwait_of_unread {f : FaultRec} (h : s.Acts i) (hw : s.mwaitWord a b = .ok (u, .error f, va, v)) :
    s.mwait i d a b met =
      .next (u.addLoad { Claim.loaded s va.toNat 8 (.s (Dst.num d) 0) with bad := some f }) := by
  simp only [State.mwait, hw, loaded_word]
  exact if_neg (by simp [h])

end

/-! ## INVL and PROBE (R398 to R400) -/

/-- The leaf that a walk answers, where it answers one: the page that a PROBE reports (R400). -/
def WalkRes.found : WalkRes → Option Word
  | .leaf x => some x
  | _ => none

theorem slot_invl {asid : Src} {all : Bool} {x y z : Word} (h : s.Acts i) (hr : s.here.task.region = 0)
    (hx : s.srcS asid = .ok x) (hy : s.srcS a = .ok y) (hz : s.srcS b = .ok z) :
    s.slot i (s.invl asid all a b) = .next (s.withHeld (.invl (x.toNat % 2 ^ 16) all y z s.here.seq)) := by
  unfold State.invl
  simp only [hx, hy, hz, require_ok (decide_eq_true hr), bind, Except.bind]
  exact slot_ok h

theorem exec_probe {va : Word} {r : WalkRes} (h : s.Acts (.probe d a)) (ha : s.srcS a = .ok va) (hva : va.toNat < 2 ^ 57)
    (ht : s.translate (dieOf s.cur.ctx) (some (coreOf s.cur.ctx)) s.here.task.region (s.asidAt s.cur.ctx) va.toNat
      (fun _ => false) = (u, r)) :
    exec (.probe d a) s = .next (u.addLoad (Claim.loaded s va.toNat 8 (.s (Dst.num d)
      (u.probeWord va.toNat r.found)))) := by
  change s.slot _ _ = _
  simp only [ha, if_neg (Nat.not_le.mpr hva), ht, bind, Except.bind, loaded_word]
  exact slot_ok h

end

end Sys2Proof.Machine

namespace Sys2Proof

open Sys2Proof.Machine

/-- Settles O34: the two MWAITs differ in their condition alone; INVL.ALL is INVL with the operands 0; then PROBE. -/
theorem waitsAndInvalidations : Obligations.WaitsAndInvalidations := by
  refine ⟨fun s u d a b r va v hw => ⟨?read, ?unread⟩, fun s i a b x y z hr hx => ⟨?invl, ?invlAll⟩, ?probe⟩
  case read =>
    rintro x rfl
    exact ⟨fun h => (mwait_of_read h hw).trans (by simp), fun h => (mwait_of_read h hw).trans (by simp)⟩
  case unread => rintro f rfl i (rfl | rfl) h <;> exact mwait_of_unread h hw
  case invl => exact fun h hy hz => slot_invl h hr hx hy hz
  case invlAll => exact fun h => slot_invl h hr hx (srcS_zero s 1) (srcS_zero s 1)
  case probe => exact fun s u d a va r h ha hva ht => exec_probe h ha hva ht

end Sys2Proof
end

section
/-! PROOF. Decode of encode, O43: what the reader of each field makes of its code, the fields of each form of a slot, and
then each slot's table, constructor by constructor. -/

namespace Sys2Proof

/-! ## Field codes -/
section
variable {a : Src} {d : Dst}

theorem Src.ofCode_code_of_wfV (h : a.wfV = []) : Src.ofCode a.code = a := by
  cases a with
  | reg n => revert n; decide
  | latch u k => revert u k; decide
  | special p => cases p <;> rfl
  | bad => cases h

theorem Src.ofCode_code_of_wfS (h : a.wfS = []) : Src.ofCode a.code = a := by
  cases a with
  | bad => cases h
  | _ => exact ofCode_code_of_wfV rfl

theorem Src.ofCode_code_of_wfVs (h : a.wfVs = []) : Src.ofCode a.code = a := by
  cases a with
  | bad => cases h
  | _ => exact ofCode_code_of_wfV rfl

theorem Src.ofCode_code_of_wfDld (h : a.wfDld = []) : Src.ofCode a.code = a := by
  cases a with
  | bad => cases h
  | _ => exact ofCode_code_of_wfV rfl

theorem Dst.ofCode_code_of_wfLatch (h : d.wfLatch = []) : Dst.ofCode d.code = d := by
  cases d with
  | reg n => revert n; decide
  | drop => rfl
  | bad => cases h

theorem Dst.ofCode_code_of_wfReg (h : d.wfReg = []) : Dst.ofCode d.code = d := by
  cases d with
  | reg => exact ofCode_code_of_wfLatch rfl
  | drop => rfl
  | bad => cases h

@[simp] theorem Ord.ofCode_code (o : Ord) : Ord.ofCode o.code = o := by cases o <;> rfl

@[simp] theorem Scope.ofCode_code (c : Scope) : Scope.ofCode c.code = c := by cases c <;> rfl

theorem Hint.ofCode_code {t : Hint} (h : t.reserved = false) : Hint.ofCode t.code = t := by
  cases t with
  | res => cases h
  | _ => rfl

theorem Size.ofCode_code {z : Size} (h : z.reserved = false) : Size.ofCode z.code = z := by
  cases z with
  | res => cases h
  | _ => rfl

@[simp] theorem MFmt.ofCode_code (f : MFmt) : MFmt.ofCode f.code = f := by cases f <;> rfl

@[simp] theorem Wf.when_eq_nil {b : Bool} {n : Nat} : Wf.when b n = [] ↔ b = false := by
  cases b <;> simp [Wf.when]

theorem Mod.ofCode_code {m : Mod} (hh : m.hint.reserved = false) (hz : m.size.reserved = false) :
    Mod.ofCode m.code = m := by
  cases m
  simp (disch := decide) only [Mod.ofCode, Mod.code, BitVec.extractLsb'_append_eq_of_le,
    BitVec.extractLsb'_append_eq_of_add_le, Nat.reduceSub, BitVec.extractLsb'_eq_self]
  simp [Hint.ofCode_code, Size.ofCode_code, *]

theorem XaOps.ofCode_code (o : XaOps) : XaOps.ofCode o.code = o := by
  cases o
  simp (disch := decide) only [XaOps.ofCode, XaOps.code, BitVec.extractLsb'_append_eq_of_le,
    BitVec.extractLsb'_append_eq_of_add_le, Nat.reduceSub, BitVec.extractLsb'_eq_self,
    Ord.ofCode_code, Scope.ofCode_code]
end

/-- An annotation that the decoder accepts is not what marks the update form (R363). -/
theorem XaOps.code_ne_update {o : XaOps} (h : o.wf [.plain, .acquire, .release, .acqRel] = []) : o.code ≠ 4#7 := by
  obtain ⟨ord, scope, psel⟩ := o
  revert psel
  cases ord <;> cases scope <;> decide

/-! ## Fields of a form (Tables 2.3, 2.5, 2.6) -/

/-- The two flags beside TRN's flag number, in its destination field (Table 2.11). -/
theorem Enc.trn_flags (f : BitVec 3) (neg alw : Bool) :
    let d : BitVec 6 := 0#1 ++ BitVec.ofBool alw ++ BitVec.ofBool neg ++ f
    d.getLsbD 3 = neg ∧ d.getLsbD 4 = alw := by
  simp only [BitVec.getLsbD_append]
  simp

section
variable (op : BitVec 7) (op4 f an bn : BitVec 4) (op5 : BitVec 5) (af bf : BitVec 3) (bank : Bool) (d a b c : BitVec 6)
  (m : BitVec 15) (v : BitVec 21) (k : BitVec 4) (o : COps) (sub : BitVec 7) (imm : BitVec 13) (n8 : BitVec 8)

theorem Enc.sr_fields : (Enc.sr op d a b m).extractLsb' 33 7 = op ∧ (Enc.sr op d a b m).extractLsb' 27 6 = d ∧
    (Enc.sr op d a b m).extractLsb' 21 6 = a ∧ (Enc.sr op d a b m).extractLsb' 15 6 = b ∧
    (Enc.sr op d a b m).extractLsb' 0 15 = m := by
  simp (disch := decide) only [Enc.sr, BitVec.extractLsb'_append_eq_of_le,
    BitVec.extractLsb'_append_eq_of_add_le, Nat.reduceSub, BitVec.extractLsb'_eq_self, and_self]

theorem Enc.si_fields : (Enc.si op d a v).extractLsb' 33 7 = op ∧ (Enc.si op d a v).extractLsb' 27 6 = d ∧
    (Enc.si op d a v).extractLsb' 21 6 = a ∧ (Enc.si op d a v).extractLsb' 0 21 = v := by
  simp (disch := decide) only [Enc.si, BitVec.extractLsb'_append_eq_of_le,
    BitVec.extractLsb'_append_eq_of_add_le, Nat.reduceSub, BitVec.extractLsb'_eq_self, and_self]

theorem Enc.v_op : (Enc.v op d a b c k).extractLsb' 29 7 = op := by
  simp (disch := decide) only [Enc.v, BitVec.extractLsb'_append_eq_of_le, Nat.reduceSub, BitVec.extractLsb'_eq_self]

theorem Enc.v_c : (Enc.v op d a b c k).extractLsb' 5 6 = c := by
  simp (disch := decide) only [Enc.v, BitVec.extractLsb'_append_eq_of_le,
    BitVec.extractLsb'_append_eq_of_add_le, Nat.reduceSub, BitVec.extractLsb'_eq_self]

theorem Enc.v_fields : (Enc.v op d a b c k).extractLsb' 23 6 = d ∧ (Enc.v op d a b c k).extractLsb' 17 6 = a ∧
    (Enc.v op d a b c k).extractLsb' 11 6 = b ∧ (Enc.v op d a b c k).extractLsb' 1 4 = k := by
  simp (disch := decide) only [Enc.v, BitVec.extractLsb'_append_eq_of_le,
    BitVec.extractLsb'_append_eq_of_add_le, Nat.reduceSub, BitVec.extractLsb'_eq_self, and_self]

theorem Enc.m_fields : (Enc.m op4 af bf bank an bn).extractLsb' 20 4 = op4 ∧
    (Enc.m op4 af bf bank an bn).extractLsb' 17 3 = af ∧ (Enc.m op4 af bf bank an bn).extractLsb' 14 3 = bf ∧
    (Enc.m op4 af bf bank an bn).getLsbD 13 = bank ∧ (Enc.m op4 af bf bank an bn).extractLsb' 9 4 = an ∧
    (Enc.m op4 af bf bank an bn).extractLsb' 5 4 = bn := by
  simp (disch := decide) only [Enc.m, BitVec.getLsbD_append, BitVec.extractLsb'_append_eq_of_le,
    BitVec.extractLsb'_append_eq_of_add_le, Nat.reduceSub, BitVec.extractLsb'_eq_self, and_self, true_and]
  simp

theorem Enc.c_fields : (Enc.c op5 o).extractLsb' 15 5 = op5 ∧ (Enc.c op5 o).extractLsb' 12 3 = o.nest ∧
    (Enc.c op5 o).extractLsb' 8 4 = o.sbase ∧ (Enc.c op5 o).extractLsb' 4 4 = o.flag ∧
    (Enc.c op5 o).getLsbD 3 = o.pri ∧ (Enc.c op5 o).getLsbD 2 = o.xord := by
  simp (disch := decide) only [Enc.c, BitVec.getLsbD_append, BitVec.extractLsb'_append_eq_of_le,
    BitVec.extractLsb'_append_eq_of_add_le, Nat.reduceSub, BitVec.extractLsb'_eq_self, true_and]
  simp

theorem Enc.y_fields : (Enc.y op4 f n8).extractLsb' 12 4 = op4 ∧ (Enc.y op4 f n8).extractLsb' 8 4 = f ∧
    (Enc.y op4 f n8).getLsbD 7 = n8.getLsbD 7 ∧ (Enc.y op4 f n8).extractLsb' 0 8 = n8 ∧
    (Enc.y op4 f n8).extractLsb' 0 7 = n8.extractLsb' 0 7 ∧ (Enc.y op4 f n8).extractLsb' 0 5 = n8.extractLsb' 0 5 ∧
    (Enc.y op4 f n8).extractLsb' 0 3 = n8.extractLsb' 0 3 ∧ (Enc.y op4 f n8).extractLsb' 3 3 = n8.extractLsb' 3 3 := by
  simp (disch := decide) only [Enc.y, BitVec.getLsbD_append, BitVec.extractLsb'_append_eq_of_le,
    BitVec.extractLsb'_append_eq_of_add_le, Nat.reduceSub, BitVec.extractLsb'_eq_self, and_self, true_and]
  simp

theorem Enc.xr_fields : (Enc.xr op d a b sub).extractLsb' 25 7 = op ∧ (Enc.xr op d a b sub).extractLsb' 19 6 = d ∧
    (Enc.xr op d a b sub).extractLsb' 13 6 = a ∧ (Enc.xr op d a b sub).extractLsb' 7 6 = b ∧
    (Enc.xr op d a b sub).extractLsb' 0 7 = sub := by
  simp (disch := decide) only [Enc.xr, BitVec.extractLsb'_append_eq_of_le,
    BitVec.extractLsb'_append_eq_of_add_le, Nat.reduceSub, BitVec.extractLsb'_eq_self, and_self]

theorem Enc.xi_fields : (Enc.xi op d a imm).extractLsb' 25 7 = op ∧ (Enc.xi op d a imm).extractLsb' 19 6 = d ∧
    (Enc.xi op d a imm).extractLsb' 13 6 = a ∧ (Enc.xi op d a imm).extractLsb' 0 13 = imm := by
  simp (disch := decide) only [Enc.xi, BitVec.extractLsb'_append_eq_of_le,
    BitVec.extractLsb'_append_eq_of_add_le, Nat.reduceSub, BitVec.extractLsb'_eq_self, and_self]
end

/-! ## Each slot's table -/

section
variable {i : Instr}

theorem parsePlog_encPlog {w : BitVec 16} (h : encPlog i = some w) : parsePlog w = .ok (some i) := by
  cases i with
  | pand m d a b | por m d a b | pxor m d a b | pandn m d a b | pnot m d a =>
    cases h
    simp (disch := decide) only [parsePlog, BitVec.getLsbD_append, BitVec.extractLsb'_append_eq_of_le,
      BitVec.extractLsb'_append_eq_of_add_le, Nat.reduceSub, BitVec.extractLsb'_eq_self]
    simp
  | _ => cases h

theorem parseS_encS {w : BitVec 40} (hi : WellFormed i) (h : encS i = some w) : parseS w = .ok i := by
  simp only [WellFormed] at hi
  cases i with
  | snop => cases h; rfl
  | add d a b | sub d a b | and d a b | or d a b | xor d a b | shl d a b | shr d a b | asr d a b | mul d a b
  | mulh d a b | mulhN64 d a b | min d a b | max d a b | cmpeq d a b | cmpne d a b | cmplt d a b | cmple d a b
  | cmpltn d a b | sel d a b | fadd d a b | fsub d a b | fmul d a b | fma d a b | fdiv d a b | fsqrt d a
  | fcmpeq d a b | fcmplt d a b | fcmple d a b | fcvt d a c | ld d a b m | st x a b m | spld d a b z
  | spst x a b z | movg d a | pkc d | upc a =>
    cases h
    simp only [Instr.wfDetails, Mod.wf, List.append_eq_nil_iff, Wf.when_eq_nil] at hi
    simp [-Nat.reduceAdd, parseS, Enc.sr_fields, BitVec.extractLsb'_append_eq_right, Src.ofCode_code_of_wfS,
      Dst.ofCode_code_of_wfLatch, Dst.ofCode_code_of_wfReg, Mod.ofCode_code, Size.ofCode_code, hi]
  | trn f neg alw a =>
    cases h
    simp [-Nat.reduceAdd, -BitVec.getLsbD_eq_getElem, parseS, Enc.si_fields, BitVec.extractLsb'_append_eq_right,
      Enc.trn_flags]
  | addi d a v | andi d a v | ori d a v | shli d a k | shri d a k | asri d a k | movi d v | movhi d a t k
  | cmpeqi d a v | cmplti d a v | ldi d a v | sti x a v | spldi d a v | spsti x a v | crd d n | cwr a n | pbr d a v
  | call a v | loop k a v | lend =>
    cases h
    simp only [Instr.wfDetails, List.append_eq_nil_iff, Wf.when_eq_nil] at hi
    simp [-Nat.reduceAdd, -BitVec.getLsbD_eq_getElem, parseS, Enc.si_fields, Src.ofCode_code_of_wfS,
        Dst.ofCode_code_of_wfLatch,
      Dst.ofCode_code_of_wfReg, BitVec.extractLsb'_append_eq_of_le, BitVec.extractLsb'_append_eq_of_add_le, hi]
  | _ => cases h

theorem parseV_encV {w : BitVec 36} (hi : WellFormed i) (h : encV i = some w) : parseV w = .ok i := by
  simp only [WellFormed] at hi
  cases i with
  | vnop => cases h; rfl
  | vadd t d a b k | vsub t d a b k | vadds t d a b k | vsubs t d a b k | vmul t d a b k | vmulh t d a b k
  | vmin t d a b k | vmax t d a b k | vminn t d a b k | vmaxn t d a b k | vshl t d a b k | vshr t d a b k
  | vasr t d a b k | vcmpeq t d a b k | vcmplt t d a b k | vcmpltn t d a b k | vfadd t d a b k | vfsub t d a b k
  | vfmul t d a b k | vfma t d a b c k | vfmin t d a b k | vfmax t d a b k | vfcmpeq t d a b k | vfcmplt t d a b k
  | vfcmple t d a b k | vrdsum t d a k | vrdmax t d a k | vrdmin t d a k | vscan t d a k | vqnt t d a e ty sr k0 k
  | vdq t d a e ty k0 k =>
    cases h
    simp only [Instr.wfDetails, List.append_eq_nil_iff] at hi
    cases t <;>
    · unfold parseV
      rw [Enc.v_op]
      change Except.ok _ = _
      simp [-Nat.reduceAdd, -BitVec.getLsbD_eq_getElem, Enc.v_fields, Enc.v_c, Src.ofCode_code_of_wfV,
        Dst.ofCode_code_of_wfLatch, BitVec.extractLsb'_append_eq_of_le, BitVec.extractLsb'_append_eq_of_add_le,
        BitVec.getLsbD_append, hi]
  | vand d a b k | vor d a b k | vxor d a b k | vnot d a k | vsel d a b c k | vfrcp d a k | vfrsq d a k | vfexp2 d a k
  | vflog2 d a k | vftanh d a k | vfsigm d a k | vperm d a b z k | vshuf d a b p z k | vrot d a b z k | vbcast d a z k
  | vcvt d a p c k | vspld d a b o k | vspst x a b o k | vld d a b o k | vst x a b o k | vins d a b z | vext d a b z sg
  | vany d a k | vall d a k | vmov d a k | vmovExpand d a k | vmovPack d a k | viota d a z k =>
    cases h
    simp only [Instr.wfDetails, List.append_eq_nil_iff] at hi
    unfold parseV
    rw [Enc.v_op, Enc.v_c]
    change Except.ok _ = _
    simp [-Nat.reduceAdd, -BitVec.getLsbD_eq_getElem, Enc.v_fields, Src.ofCode_code_of_wfV, Src.ofCode_code_of_wfVs,
      Dst.ofCode_code_of_wfLatch, Dst.ofCode_code_of_wfReg, BitVec.extractLsb'_append_eq_of_le,
      BitVec.extractLsb'_append_eq_of_add_le, BitVec.getLsbD_append, hi]
  | _ => cases h

theorem parseM_encM {w : BitVec 24} (h : encM i = some w) : parseM w = .ok i := by
  cases i with
  | mnop => cases h; rfl
  | macc af bf k an bn | mset af bf k an bn | mpush an bn | mshift af bf k s bn | mdrain c clr k n i | mzero k
  | mload k n i | mswap | mdrainq af clr k n i =>
    cases h
    simp [-Nat.reduceAdd, -BitVec.getLsbD_eq_getElem, parseM, Enc.m_fields, BitVec.getLsbD_append]
  | _ => cases h

theorem parseC_encC {w : BitVec 20} (h : encC i = some w) : parseC w = .ok i := by
  cases i with
  | cnop => cases h; rfl
  | cpy o | cpyt o | cmcast o | cgath o | cfill o | cpref o | put o | get o | radd o =>
    cases h
    simp [-BitVec.getLsbD_eq_getElem, parseC, Enc.c_fields]
  | _ => cases h

theorem parseY_encY {w : BitVec 16} (h : encY i = some w) : parseY w = .ok i := by
  cases i with
  | ynop => cases h; rfl
  | fwait f n | fwaitAcq f n | fpost f m | fpostRel f dy dx | fclr f | finc f n | fbar f n =>
    cases h
    simp [-Nat.reduceAdd, -BitVec.getLsbD_eq_getElem, parseY, Enc.y_fields, BitVec.getLsbD_append,
        BitVec.extractLsb'_append_eq_of_le,
      BitVec.extractLsb'_append_eq_of_add_le]
  | _ => cases h

theorem parseX_encX {w : BitVec 32} (hi : WellFormed i) (h : encX i = some w) : parseX w = .ok i := by
  simp only [WellFormed] at hi
  cases i with
  | xnop => cases h; rfl
  | aadd d a b o | amin d a b o | amax d a b o | aminn d a b o | amaxn d a b o | aand d a b o | aor d a b o
  | axor d a b o | axchg d a b o | acas d a b o | afadd d a b o =>
    cases h
    simp only [Instr.wfDetails, List.append_eq_nil_iff] at hi
    simp [parseX, Enc.xr_fields, Src.ofCode_code_of_wfS, Dst.ofCode_code_of_wfReg, XaOps.ofCode_code,
      XaOps.code_ne_update, hi]
  | aaddU a b | aminU a b | amaxU a b | aminnU a b | amaxnU a b | aandU a b | aorU a b | axorU a b | afaddU a b =>
    cases h
    simp only [Instr.wfDetails, List.append_eq_nil_iff] at hi
    simp [parseX, Enc.upd, Enc.xr_fields, Src.ofCode_code_of_wfS, hi]
  | spawn wt d a =>
    cases h
    simp only [Instr.wfDetails, List.append_eq_nil_iff] at hi
    have hd : Dst.ofCode d.code = d := by
      cases wt with
      | false =>
        have h0 : d = .reg 0 := by simpa using hi.1
        rw [h0]
        rfl
      | true => exact Dst.ofCode_code_of_wfReg hi.1
    simp [-Nat.reduceAdd, -BitVec.getLsbD_eq_getElem, parseX, Enc.xr_fields, Src.ofCode_code_of_wfS,
      BitVec.getLsbD_append, hd, hi]
  | lea d a b sh | rbpop d | oadd t a b o | ofadd t a b o | oopen d a o | oclose d a b o | join | exit | tkt d a b
  | qpush a b | qpushT t a b | mwait d a b | mwaitNe d a b | invl t a b | invlAll t | probe d a | eret =>
    cases h
    simp only [Instr.wfDetails, List.append_eq_nil_iff] at hi
    simp [-Nat.reduceAdd, -BitVec.getLsbD_eq_getElem, parseX, Enc.xr_fields, Src.ofCode_code_of_wfS, Dst.ofCode_code_of_wfReg,
      Dst.ofCode_code_of_wfLatch, XaOps.ofCode_code, BitVec.extractLsb'_append_eq_right, hi]
  | leai d a v | agen d a v | esld t a v | nld d a v | nst d a v | trap v =>
    cases h
    simp only [Instr.wfDetails, List.append_eq_nil_iff] at hi
    simp [parseX, Enc.xi_fields, Src.ofCode_code_of_wfS, Dst.ofCode_code_of_wfLatch, hi]
  | dld a e n =>
    cases h
    simp only [Instr.wfDetails, List.append_eq_nil_iff] at hi
    simp [-Nat.reduceAdd, -BitVec.getLsbD_eq_getElem, parseX, BitVec.extractLsb'_append_eq_of_le,
        BitVec.extractLsb'_append_eq_of_add_le,
      Src.ofCode_code_of_wfDld, hi]
  | _ => cases h

/-- The place of an instruction is that of the one table that lists it; its bits there are those that the table gives. -/
theorem decodeAt_encode (hi : WellFormed i) : (encode i).1 ≠ .event → decodeAt (encode i).1 (encode i).2 = some i := by
  unfold encode
  intro he
  split at he
  next => rfl
  next ix dl =>
    simp (disch := decide) only [decodeAt, BitVec.ofNat_toNat, BitVec.setWidth_eq,
      BitVec.extractLsb'_append_eq_of_le, BitVec.extractLsb'_append_eq_of_add_le, Nat.reduceSub, BitVec.extractLsb'_eq_self]
  split at he
  next w h => simp [decodeAt, parsePlog_encPlog h]
  split at he
  next w h => simp [decodeAt, parseS_encS hi h, Except.toOption, *]
  split at he
  next w h => simp [decodeAt, parseV_encV hi h, Except.toOption, *]
  split at he
  next w h => simp [decodeAt, parseM_encM h, Except.toOption, *]
  split at he
  next w h => simp [decodeAt, parseC_encC h, Except.toOption, *]
  split at he
  next w h => simp [decodeAt, parseY_encY h, Except.toOption, *]
  split at he
  next w h => simp [decodeAt, parseX_encX hi h, Except.toOption, *]
  next => exact absurd rfl he
end

/-- Settles O43: each place has the table that reads what its own table writes. -/
theorem decodeOfEncode : Obligations.DecodeOfEncode := fun _ hi => decodeAt_encode hi

end Sys2Proof
end

section
/-! PROOF. The state after module reset, O39 and O40. -/

namespace Sys2Proof.Machine

theorem region_reset (r : Nat) : State.reset.region r = if r = 0 then some Region.root else none := by
  change Tab.get none [(0, some Region.root)] r = _
  simp [Tab.get]

theorem meas_reset {k : Nat} (hlo : 11 ≤ k) (hhi : k < 16) : State.reset.meas[k]? = some [] := by
  interval_cases k <;> rfl

end Sys2Proof.Machine

namespace Sys2Proof

open Sys2Proof.Machine

/-- Settles O39: nothing is listed in memory, in the contexts, in the ports or in the controllers. -/
theorem resetState : Obligations.ResetState := by
  refine ⟨fun pa hpa => ?hbm, fun r => ?region, fun _ => rfl, fun _ => rfl, fun _ _ => rfl, fun k => meas_reset, rfl⟩
  case hbm =>
    simp only [State.homeByte, paKind_hbm hpa]
    exact Tab.get_nil
  case region =>
    rw [region_reset]
    split <;> simp [*]

/-- Settles O40: memory and the table of contexts are empty. -/
theorem resetIsCanonical : Obligations.ResetIsCanonical := reset_canonical

end Sys2Proof
end

section
/-! PROOF. Matrix instructions, O25: operands that are read leave a state, from which what is under way is launched. -/

namespace Sys2Proof.Machine

section
variable {s t : State} {i : Instr} {n : BitVec 4} {o : Nat}

/-- A slot that computes a state from operands that could be read delivers it. -/
theorem slot_bind {α : Type} {r : Res α} {a : α} {f : α → Res State} (h : s.Acts i) (hr : r = .ok a) (hf : f a = .ok t) :
    s.slot i (r >>= f) = .next t := by
  subst hr
  exact (congrArg (s.slot i) hf).trans (slot_ok h)

theorem checkDrain_ok {size align : Nat} (hal : o % align = 0) (hw : s.here.task.inWindow o size = true) :
    s.checkDrain o size align = .ok () := by
  simp [State.checkDrain, hal, hw]

variable {bank clr : Bool} {k : BitVec 4} {code : BitVec 3}

theorem exec_mdrain (h : s.Acts (.mdrain code clr bank n k)) (hoff : ∀ o, s.piece (s.nreg n.toNat) = some o →
    o % (256 * drainBytes code.toNat) = 0 ∧ s.here.task.inWindow o (256 * drainBytes code.toNat) = true) :
    exec (.mdrain code clr bank n k) s = .next (s.launchM (.drain (s.bank bank) (s.mRow k) code.toNat clr
      (s.piece (s.nreg n.toNat)))) := by
  change s.slot _ _ = _
  cases hp : s.piece (s.nreg n.toNat) with
  | none => exact slot_ok h
  | some o =>
    obtain ⟨hal, hw⟩ := hoff o hp
    exact slot_bind h (checkDrain_ok hal hw) rfl

theorem exec_mdrainq (h : s.Acts (.mdrainq code clr bank n k)) (hoff : ∀ o, s.piece (s.nreg n.toNat) = some o →
    o % 32 = 0 ∧ s.here.task.inWindow o (drainqBytes code.toNat) = true) :
    exec (.mdrainq code clr bank n k) s = .next (s.launchM (.drainq (s.bank bank) (s.mRow k) code.toNat clr
      (s.piece (s.nreg n.toNat)))) := by
  change s.slot _ _ = _
  cases hp : s.piece (s.nreg n.toNat) with
  | none => exact slot_ok h
  | some o =>
    obtain ⟨hal, hw⟩ := hoff o hp
    exact slot_bind h (checkDrain_ok hal hw) rfl

theorem exec_mload_clipped (h : s.Acts (.mload bank n k)) (hp : s.piece (s.nreg n.toNat) = none) :
    exec (.mload bank n k) s = .next (s.launchM (.load (s.bank bank) (s.mRow k) 0)) := by
  change s.slot _ _ = _
  rw [hp]
  exact slot_ok h

theorem exec_mload (h : s.Acts (.mload bank n k)) (hp : s.piece (s.nreg n.toNat) = some o)
    (hc : s.checkSpad o 1024 1024 = .ok ()) {bytes : List Byte} (hr : s.spadRead s.cur.ctx o 1024 = (t, bytes)) :
    exec (.mload bank n k) s =
      .next (t.launchM (.load (s.bank bank) (s.mRow k) (BitVec.ofNat 8192 (ofBytes bytes)))) := by
  change s.slot _ _ = _
  rw [hp]
  exact slot_bind h hc (by rw [hr]; rfl)

end

end Sys2Proof.Machine

namespace Sys2Proof

open Sys2Proof.Machine

/-- Settles O25: each instruction by what its operands' reads leave. -/
theorem matrixForms : Obligations.MatrixForms := by
  refine fun s af bf bank clr an bn n i dist code => ⟨fun f hf h t ht => ?beat, fun h t ht => ?mpush,
    fun h t y hy => slot_bind h hy rfl, exec_mdrain, exec_mdrainq, exec_mload_clipped,
    fun h o hp hc t bytes hr => exec_mload h hp hc hr, slot_ok, slot_ok⟩
  case beat =>
    simp only [List.mem_cons, List.not_mem_nil, or_false] at hf
    rcases hf with rfl | rfl <;> exact slot_bind h ht rfl
  case mpush => exact (congrArg (s.slot _) ht).trans (slot_ok h)

end Sys2Proof
end

section
/-! PROOF. Fabric packets, O54: a request at its target by what its window's checks find, a fragment at the issuing hub by
what has returned of it. -/

namespace Sys2Proof.Machine

section
variable {s u : State} {p : Packet} {g : Frag}

/-! ## At the target (R431, R437) -/

theorem hubRequest_passed (h : s.windowReason p = none) (act : State → State) : s.hubRequest p act = act s := by
  simp [State.hubRequest, h]

theorem hubRequest_rejected {r : Nat} (h : s.windowReason p = some r) (act : State → State) :
    s.hubRequest p act = (s.modWindow (Handle.wslot p.handle) fun w =>
      { w with rejects := w.rejects + 1 }).inject (nackOf s.modid p r) := by
  simp [State.hubRequest, h]

theorem exec_getreq (h : s.windowReason p = none) {r : Option (List Byte)}
    (hr : s.hubRead (Handle.region p.handle) (Handle.base p.handle + p.roff) (Pk.span p) = (u, r)) :
    exec (.getreq p) s = .next (match r with
      | some b => (u.inject (Packet.answer p u.modid 2 0 b)).counted p
      | none => u.inject (nackOf u.modid p 5)) := by
  refine congrArg Host.Outcome.next ((hubRequest_passed h _).trans ?_)
  simp only [hr]
  cases r <;> rfl

/-! ## At the issuing hub (R434, R435) -/

theorem exec_getdata {c : Nat} {m : Cmd} (hg : s.frags.find? (fun g => g.xid = p.xid) = some g)
    (hm : s.fragCmd g = some (c, m)) (hr : s.replyData c m g p.data = (u, none)) :
    exec (.getdata p) s = .next ((u.modFrag p.xid fun g => { g with got := true }).settle p.xid) := by
  change Host.Outcome.next _ = _
  simp only [hg, hm, hr]

/-- DONE of the one fragment outstanding, its data there and its command gone, ends the command (R434). -/
theorem done_last (hf : s.frags = [g]) (hx : g.xid = p.xid) (hgot : g.got = true) (hcmd : s.hasCmd g = false) :
    (s.modFrag p.xid fun g => { g with fin := true }).settle p.xid = match g.ack with
      | some f => { s with frags := [], posts := s.posts ++ [⟨g.core, g.uid, g.member, f⟩] }
      | none => { s with frags := [] } := by
  cases hack : g.ack with
  | none => simp [State.settle, State.modFrag, hf, hx, hgot, hack]
  | some f =>
    simp only [State.settle, State.modFrag, hf, hx, hgot, hack, List.map_cons, List.map_nil, if_true,
      List.find?_cons_of_pos, decide_true, Bool.and_self, ne_eq, not_true_eq_false, decide_false, Bool.false_eq_true,
      not_false_eq_true, List.filter_cons_of_neg, List.filter_nil, List.any_nil, Bool.false_or]
    exact if_neg (ne_true_of_eq_false hcmd)

variable {c : Nat}

theorem modTask_found {uid m : Nat} {f : Ctx → Ctx}
    (h : s.ctxs.find? (fun q => q.2.live && q.2.task.uid = uid && q.2.task.member = m) = some (c, s.ctx c)) :
    s.modTask uid m f = s.modCtx c f := by
  simp only [State.modTask, h]

theorem stopAt_dequeue {x : Ctx} (h : x.busy = true) (seq : Nat) (f : FaultRec) : (x.dequeue seq).stopAt seq f =
    { x with
      q0 := x.q0.filter (fun m => m.seq ≠ seq), q1 := x.q1.filter (fun m => m.seq ≠ seq)
      deferred := x.deferred ++ [(seq + 1, f)] } :=
  if_pos h

theorem stopFrag_found {xid : Nat} (reason : Nat) (hg : s.frags.find? (fun g => g.xid = xid) = some g)
    (hc : s.ctxs.find? (fun q => q.2.live && q.2.task.uid = g.uid && q.2.task.member = g.member) = some (c, s.ctx c))
    (hb : (s.ctx c).busy = true) :
    s.stopFrag xid reason = { s with
      frags := s.frags.filter fun x => !x.same g
      ctxs := Tab.set {} s.ctxs c { s.ctx c with
        q0 := (s.ctx c).q0.filter (fun m => m.seq ≠ g.seq), q1 := (s.ctx c).q1.filter (fun m => m.seq ≠ g.seq)
        deferred := (s.ctx c).deferred ++ [(g.seq + 1, ⟨0x08, g.slot, 0, g.pc, BitVec.ofNat 64 g.roff,
          BitVec.ofNat 64 (g.eng + g.slot * 2 ^ 8 + reason * 2 ^ 12)⟩)] } } := by
  unfold State.stopFrag
  simp only [hg]
  refine (modTask_found (c := c) ?_).trans (congrArg (State.setCtx _ c) ?_)
  · exact hc
  · exact stopAt_dequeue hb _ _

end

end Sys2Proof.Machine

namespace Sys2Proof

open Sys2Proof.Machine

/-- Settles O54: the target's checks, then the fragment that has returned what it returns, then the one that stops. -/
theorem fabricPackets : Obligations.FabricPackets := by
  refine ⟨fun s p h => ⟨?put, fun u b hr => exec_getreq h hr, fun u hr => exec_getreq h hr, ?radd⟩,
    fun s p r h i hi => ?rejected, fun s u p g c m hg hm hr => exec_getdata hg hm hr,
    fun s p g hf hx hgot hcmd => congrArg Host.Outcome.next (done_last hf hx hgot hcmd),
    fun s g c xid reason p hg hc hb => ⟨?nack, ?timeout⟩⟩
  case put | radd => exact congrArg Host.Outcome.next (hubRequest_passed h _)
  case rejected =>
    simp only [List.mem_cons, List.not_mem_nil, or_false] at hi
    rcases hi with rfl | rfl | rfl <;> exact congrArg Host.Outcome.next (hubRequest_rejected h _)
  case nack =>
    rintro rfl hh rfl
    have hany : (s.frags.any fun g => g.xid = p.xid && g.handle = p.handle) = true :=
      List.any_eq_true.mpr ⟨g, List.mem_of_find?_eq_some hg, by
        simpa [hh] using List.find?_some hg⟩
    exact congrArg Host.Outcome.next ((if_pos hany).trans (stopFrag_found _ hg hc hb))
  case timeout =>
    rintro rfl
    exact congrArg Host.Outcome.next (stopFrag_found _ hg hc hb)

end Sys2Proof
end

section
/-! PROOF. Flits at a port that is UP, O55: a flit is heard, bad or good, and then each type's own effect. -/

namespace Sys2Proof.Machine

/-! ## Ports -/

section
variable {s : State} {k : Nat} {g : Port → Port}

/-- A port that holds something reads back in every table. -/
theorem port_modPort_of_ne (h : g (s.port k) ≠ {}) : (s.modPort k g).port k = g (s.port k) :=
  Tab.get_set_same_of_ne h

theorem port_modPort_other_of_ne (h : g (s.port k) ≠ {}) {j : Nat} (hj : j ≠ k) : (s.modPort k g).port j = s.port j :=
  Tab.get_set_other_of_ne h hj

end

section
variable {s : State} {k e : Nat} {f : Flit} {act : State → State}

theorem lanesLost_none (h : f.lost = 0) : s.lanesLost k f = s := by
  have hl : lanesIn (0 : BitVec 8) = [] := by decide
  simp only [State.lanesLost, h, hl, List.foldl_nil]

/-! ## A flit is heard (R414, R417, R482) -/

theorem hear_bad (hk : k < 48) (hup : ((s.lanesLost k f).port k).st = .up) (hg : FlitF.good f = false) (type : Nat) :
    s.hear k type f act = (Claim.counted (s.lanesLost k f) k false).badFlit k := by
  simp [State.hear, Claim.counted, hk, hup, hg, Nat.not_le.mpr hk]

theorem hear_good (hk : k < 48) (hup : ((s.lanesLost k f).port k).st = .up) (hg : FlitF.good f = true) :
    s.hear k (FlitF.type f) f act = (act (Claim.heard (s.lanesLost k f) k f)).pumpAll k := by
  simp [State.hear, Claim.heard, Claim.counted, hk, hup, hg, Nat.not_le.mpr hk]

/-! ## A PKT flit (Table 14.5) -/

theorem pktFlit_next (hv : FlitF.vc f < 12) (hq : FlitF.seq f = (s.port k).rx.expect) : s.pktFlit k f = s.accept k f := by
  simp [State.pktFlit, Nat.not_le.mpr hv, hq]

theorem pktFlit_other (hv : FlitF.vc f < 12) (hq : FlitF.seq f ≠ (s.port k).rx.expect) : s.pktFlit k f =
    if inWindow 1 511 (((s.port k).rx.expect + 4096 - FlitF.seq f) % 4096) then s.sendAck k else s.badFlit k := by
  simp only [State.pktFlit, ge_iff_le, if_neg (Nat.not_le.mpr hv), if_neg hq]

/-! ## A NAK (R413, R483) -/

theorem port_countNak : (s.countNak k e).port k = if (s.port k).tx.naked = some e then s.port k
    else { s.port k with retries := (s.port k).retries + 1, tx := { (s.port k).tx with naked := some e } } := by
  refine port_modPort_of_ne ?_
  split
  next h =>
    intro h0
    rw [h0] at h
    cases h
  next => exact fun h => Option.some_ne_none e (congrArg (fun p => p.tx.naked) h)

/-- What counting a NAK leaves of the sender: all but the sequence of the NAK itself. -/
theorem tx_countNak : ∃ n, ((s.countNak k e).port k).tx = { (s.port k).tx with naked := n } := by
  rw [port_countNak]
  split
  next => exact ⟨(s.port k).tx.naked, rfl⟩
  next => exact ⟨some e, rfl⟩

theorem Tx.oldest_eq (t : Tx) : t.oldest = (t.replay.head?.map (·.1)).getD t.seq := by
  unfold Tx.oldest
  cases t.replay <;> rfl

/-- What a NAK leaves before the flits go again: an LMAP that is outstanding has gone (Table 14.4). -/
def State.nakHeard (s : State) (k e : Nat) : State :=
  let u := s.countNak k e
  if (s.port k).tx.mapSeq.isSome then u.sendLmap k (s.port k).tx.oldest else u

theorem nakFlit_unheld (h : (s.port k).tx.holds (FlitF.seq f) = false) :
    s.nakFlit k f = (s.nakHeard k (FlitF.seq f)).resyncFail k := by
  obtain ⟨n, hn⟩ := tx_countNak (s := s) (k := k) (e := FlitF.seq f)
  have hh : ((s.countNak k (FlitF.seq f)).port k).tx.holds (FlitF.seq f) = false := by rw [hn]; exact h
  simp only [State.nakFlit, hh, Bool.false_and, Bool.false_eq_true, if_false]
  rw [hn]
  rfl

theorem nakFlit_oldest {x : Nat × Nat × OutFlit} {l : List (Nat × Nat × OutFlit)} (hr : (s.port k).tx.replay = x :: l)
    (hx : x.1 = FlitF.seq f) : s.nakFlit k f = (s.nakHeard k (FlitF.seq f)).resend k := by
  obtain ⟨n, hn⟩ := tx_countNak (s := s) (k := k) (e := FlitF.seq f)
  have hh : ((s.countNak k (FlitF.seq f)).port k).tx.holds (FlitF.seq f) = true := by
    simp [hn, Tx.holds, hr, hx]
  have ho : ((s.countNak k (FlitF.seq f)).port k).tx.oldest = FlitF.seq f := by
    simp [hn, Tx.oldest, hr, hx]
  simp only [State.nakFlit, hh, ho, ne_eq, not_true_eq_false, decide_false, Bool.and_false, Bool.false_eq_true, if_false,
    if_true]
  have ho' : (s.port k).tx.oldest = FlitF.seq f := by simp [Tx.oldest, hr, hx]
  rw [hn, ← ho']
  rfl

end

end Sys2Proof.Machine

namespace Sys2Proof

open Sys2Proof.Machine

/-- Settles O55: a good flit of each type is heard, acts as its type says, and the port sends what it may. -/
theorem linkFlits : Obligations.LinkFlits := by
  refine ⟨fun s k f => lanesLost_none, fun s k e => port_countNak, fun s0 s k f hk hs hup => ⟨?bad, fun hg => ?good⟩⟩ <;>
    subst hs
  case bad =>
    intro hg i hi
    simp only [List.mem_cons, List.not_mem_nil, or_false] at hi
    rcases hi with rfl | rfl | rfl | rfl | rfl | rfl | rfl <;> exact congrArg Host.Outcome.next (hear_bad hk hup hg _)
  case good =>
    intro h p m acts
    have hear {n : Nat} {act : State → State} {u : State} (ht : FlitF.type f = n) (hu : act h = u) :
        Host.Outcome.next (φ := Machine.Fault) (ρ := Refusal) (s0.hear k n f act) = .next (u.pumpAll k) := by
      subst ht hu
      exact congrArg Host.Outcome.next (hear_good hk hup hg)
    refine ⟨fun ht => hear ht rfl, fun ht hv hq => hear ht (pktFlit_next hv hq),
      fun ht hv hq => hear ht (pktFlit_other hv hq), fun ht => hear ht rfl,
      fun ht => ⟨fun hh => hear ht ?unheld, fun ⟨x, l, hr, hx⟩ => hear ht ?oldest⟩, fun ht => hear ht rfl,
      fun ht => hear ht ?lmreq, fun ht => ⟨fun hw => hear ht (if_pos hw), fun hw => hear ht (if_neg (ne_true_of_eq_false hw))⟩⟩
    case unheld => exact (nakFlit_unheld hh).trans (by rw [State.nakHeard, Tx.oldest_eq])
    case oldest => exact (nakFlit_oldest hr hx).trans (by rw [State.nakHeard, Tx.oldest_eq])
    case lmreq => simp only [State.lmreqFlit, Bool.and_eq_true, decide_eq_true_eq]; rfl

end Sys2Proof
end

section
/-! PROOF. A port's own events, O56: what a port that is not DOWN holds reads back after every change that keeps its state,
whatever the form of the table of ports. -/

namespace Sys2Proof.Machine

section
variable {s : State} {k : Nat}

/-- A port that is not DOWN holds something. -/
theorem port_ne_of_st {p : Port} (h : p.st ≠ .down) : p ≠ {} := fun h0 => h (congrArg Port.st h0)

theorem port_modPort {g : Port → Port} (h : (g (s.port k)).st ≠ .down) : (s.modPort k g).port k = g (s.port k) :=
  port_modPort_of_ne (port_ne_of_st h)

/-! ## Lanes (R409, R411, R482) -/

theorem dropLane_eq {lane : Nat} (hup : (s.port k).st = .up) (hp : (s.port k).rx.pend = none) (hl : lane < 8)
    (hm : (s.port k).rx.map.getLsbD lane = true) :
    let m := (s.port k).rx.map &&& ~~~(BitVec.ofNat 8 (2 ^ lane))
    let u := (s.modPort k fun p => { p with drops := p.drops + 1 }).modNal 5 fun n => n.send (.lane k lane)
    s.dropLane k lane = if lanesOf m < 4 then u.enterRetrain k
      else (u.modPort k fun p => { p with rx := { p.rx with pend := some m } }).sendLmreq k m := by
  intro m u
  unfold State.dropLane
  simp only [hp, Option.getD_none]
  exact if_neg (by simp [hup, hl, hm])

theorem laneBad_of {p : Port} {errors : Option Nat}
    (h : errors = none ∨ ∃ n, errors = some n ∧ 2 ^ 24 < n * 2 ^ p.thrLog) : p.laneBad errors = true := by
  rcases h with rfl | ⟨n, rfl, hn⟩
  · rfl
  · exact decide_eq_true hn

/-! ## A RESYNC that is sent (R416) -/

theorem FlitF.type_make (type seq : Nat) (kg : Bool) (vc rvc sret : Nat) (b : BitVec 512) :
    FlitF.type (FlitF.make type seq kg vc rvc sret b) = type % 8 := by
  have hkg : kg.toNat ≤ 1 := Bool.toNat_le kg
  unfold FlitF.type FlitF.make
  rw [BitVec.extractLsb'_append_eq_of_add_le (by decide), BitVec.extractLsb'_toNat, BitVec.toNat_ofNat,
    Nat.shiftRight_eq_div_pow]
  simp only [Nat.reducePow]
  omega

theorem wireResync_sends (hup : (s.port k).st = .up) :
    ((s.wireResync k).port k).tx.sinceResync = 0 ∧ ((s.wireResync k).port k).rx.told = (s.port k).rx.returns ∧
      ∃ f l, (s.wireResync k).outbox = s.outbox ++ [.flit k f l] ∧ FlitF.type f = 6 ∧
        f.payload = (s.port k).resyncBits := by
  have hw : ((s.wireControl k 6 0 (s.port k).resyncBits).port k).st = .up ∧
      ((s.wireControl k 6 0 (s.port k).resyncBits).port k).rx.returns = (s.port k).rx.returns := by
    have h := port_modPort (s := s) (k := k) (g := fun p => { p with
      rx := { p.rx with
               told := Tab.set 0 p.rx.told p.rx.tells (Tab.get 0 p.rx.returns p.rx.tells)
               rvc := (p.rx.tells + 1) % 12 }
      tx := { p.tx with sinceResync := p.tx.sinceResync + 1, sinceLmreq := p.tx.sinceLmreq + 1 } })
      (by simp [hup])
    exact ⟨(congrArg Port.st h).trans hup, congrArg (fun p => p.rx.returns) h⟩
  obtain ⟨hst, hret⟩ := hw
  have hp : (s.wireResync k).port k = _ := port_modPort (g := fun p => { p with
    tx := { p.tx with sinceResync := 0 }, rx := { p.rx with told := p.rx.returns } }) (by simp [hst])
  rw [hp]
  exact ⟨rfl, hret, _, _, rfl, FlitF.type_make .., rfl⟩

/-! ## Failures in a row (R417, R418) -/

theorem resyncFail_eq (hup : (s.port k).st = .up) :
    let u := s.modPort k fun p => { p with rsfail := p.rsfail + 1, rsRow := p.rsRow + 1 }
    s.resyncFail k = if 3 ≤ (s.port k).rsRow + 1 then (u.modPort k fun p => { p with rsRow := 0 }).enterRetrain k
      else u := by
  intro u
  have hu : u.port k = _ := port_modPort (by simp [hup])
  unfold State.resyncFail
  simp only [ge_iff_le]
  rw [show (u.port k).rsRow = (s.port k).rsRow + 1 by rw [hu]]

theorem resyncMissing_eq (hup : (s.port k).st = .up) (h : 1088 ≤ (s.port k).rx.sinceResync) :
    let u := (s.modPort k fun p => { p with rx := { p.rx with sinceResync := 0 } }).modPort k fun p =>
      { p with rsfail := p.rsfail + 1, rsRow := p.rsRow + 1 }
    s.resyncMissing k = if 3 ≤ (s.port k).rsRow + 1 then (u.modPort k fun p => { p with rsRow := 0 }).enterRetrain k
      else u := by
  intro u
  have hv : (s.modPort k fun p => { p with rx := { p.rx with sinceResync := 0 } }).port k = _ :=
    port_modPort (by simp [hup])
  refine (if_pos ⟨hup, h⟩).trans ((resyncFail_eq (by rw [hv]; exact hup)).trans ?_)
  rw [hv]

theorem enterRetrain_idle (hup : (s.port k).st = .up) (hq : (s.port k).tx.queue = []) :
    s.enterRetrain k = (s.modPort k fun p => { p with st := .retrain }).modPort k fun p =>
      { p with tx := { p.tx with queue := [] } } := by
  have hu := port_modPort (s := s) (k := k) (g := fun p => { p with st := .retrain }) (by simp)
  unfold State.enterRetrain State.reroute
  rw [if_pos hup]
  simp only [hu, hq, List.foldl_nil]

theorem exec_retrain_idle (hup : (s.port k).st = .up) (hq : (s.port k).tx.queue = []) :
    ∃ t, exec (.retrain k) s = .next t ∧ t.port k = { s.port k with st := .retrain } ∧
      (∀ j, j ≠ k → t.port j = s.port j) ∧ t = { s with ports := t.ports } := by
  have h1 := port_modPort (s := s) (k := k) (g := fun p => { p with st := .retrain }) (by simp)
  refine ⟨_, congrArg Host.Outcome.next (enterRetrain_idle hup hq), ?_, fun j hj => ?_, rfl⟩
  · rw [port_modPort (by simp [h1]), h1, ← hq]
  · rw [port_modPort_other_of_ne (port_ne_of_st (by simp [h1])) hj, port_modPort_other_of_ne (port_ne_of_st (by simp)) hj]

section
variable {lanes : LanePair} (hr : (s.port k).st = .retrain) (h5 : s.fnAway 5 = false)
include hr h5

theorem exec_retrainDone_failed (hl : lanesOf lanes.tx < 4 ∨ lanesOf lanes.rx < 4) :
    let u := s.modPort k fun p => { p with retrainRow := p.retrainRow + 1 }
    exec (.retrainDone k lanes) s = .next (if 3 ≤ (s.port k).retrainRow + 1 then
      (u.modPort k fun p => { p with retrainRow := 0 }).portDown k else u) := by
  intro u
  have hu : u.port k = _ := port_modPort (by simp [hr])
  refine (if_neg (by simp [hr, h5])).trans ((if_pos hl).trans ?_)
  change Host.Outcome.next (if (u.port k).retrainRow ≥ 3 then _ else u) = _
  rw [hu]

theorem exec_retrainDone_passed (htx : 4 ≤ lanesOf lanes.tx) (hrx : 4 ≤ lanesOf lanes.rx) :
    exec (.retrainDone k lanes) s = .next ((((({ s with treeStale := true } : State).modPort k fun p => { p with
      st := .up, drops := 0, retrainRow := 0, rsRow := 0
      tx := { p.tx with map := lanes.tx, resends := 0 }, rx := { p.rx with map := lanes.rx, pend := none } }).sendLmap k
        (s.port k).tx.oldest).replayAll k).pumpAll k) :=
  (if_neg (by simp [hr, h5])).trans (if_neg (by omega))

end

/-! ## Training and the spare (R403, R404, R427) -/

section
variable (h5 : s.fnAway 5 = false)
include h5

theorem linkTrained_mayTrain {peer : Nat} {policy : Bool} (hk : k < 48)
    (hst : (s.port k).st = .training ∨ (s.port k).st = .down) (hsp : s.spareFor ≠ some k) (hpeer : peer < 16416)
    (h7 : ((s.port k).prot || policy) = false ∨ s.fnAway 7 = false) :
    ¬ (k ≥ 48 ∨ (s.port k).st = .up ∨ (s.port k).st = .retrain ∨ s.spareFor = some k ∨ peer ≥ moduleIds ∨
      s.fnAway 5 = true ∨ (((s.port k).prot = true ∨ policy = true) ∧ s.fnAway 7 = true)) := by
  have hup : (s.port k).st ≠ .up := by rcases hst with h | h <;> rw [h] <;> decide
  have hre : (s.port k).st ≠ .retrain := by rcases hst with h | h <;> rw [h] <;> decide
  have h7' : ¬ (((s.port k).prot = true ∨ policy = true) ∧ s.fnAway 7 = true) := by
    rintro ⟨hp, ha⟩
    rw [← Bool.or_eq_true] at hp
    rcases h7 with h | h <;> simp_all
  simp [hk, hup, hre, hsp, hpeer, h5, h7', moduleIds]

theorem exec_sparePortAssign (hk : k < 47) (hd : (s.port k).st = .down) (hsp : s.spareFor ≠ some k) :
    let u := if s.spareFor.isSome then s.portDown 47 else s
    exec (.sparePortAssign k) s = .next { u with
      ports := Tab.set {} u.ports 47 { u.port 47 with peer := (u.port k).peer, peerport := (u.port k).peerport }
      spareFor := some k } :=
  if_neg (by simp [hk, hd, hsp, h5])

end

/-! ## Keys (R428) -/

section
variable (hp : (s.port k).prot = true) (h7 : s.fnAway 7 = false)
include hp h7

theorem exec_rekey_out (hr : (s.port k).tx.rekeying = false) (hi : (s.port k).tx.keys.idleFree = true) :
    exec (.rekey ⟨k, false⟩) s = .next (s.modPort k fun p =>
      { p with tx := { p.tx with keys := p.tx.keys.install (dirId s.modid k), rekeying := true } }) := by
  have hk : (s.port k).tx.rekey (dirId s.modid k) =
      { (s.port k).tx with keys := (s.port k).tx.keys.install (dirId s.modid k), rekeying := true } :=
    if_neg (by simp [hr, hi])
  refine congrArg Host.Outcome.next ((if_neg (by simp [hp, h7])).trans ?_)
  exact congrArg (fun t => s.setPort k { s.port k with tx := t }) hk

theorem exec_rekey_in (hi : (s.port k).rx.keys.idleFree = true) :
    exec (.rekey ⟨k, true⟩) s = .next (s.modPort k fun p =>
      { p with rx := { p.rx with keys := p.rx.keys.install (dirId p.peer p.peerport) } }) := by
  have hk : (s.port k).rx.rekey (s.port k).inward =
      { (s.port k).rx with keys := (s.port k).rx.keys.install (s.port k).inward } := if_pos hi
  refine congrArg Host.Outcome.next ((if_neg (by simp [hp, h7])).trans ?_)
  exact congrArg (fun r => s.setPort k { s.port k with rx := r }) hk

end

/-! ## The escape tree (R423 to R425) -/

theorem exec_escapeWaitTimeout {j : Nat} {q : Packet} (hq : (s.port k).tx.queue[j]? = some q) (he : q.esc = false) :
    exec (.escapeWaitTimeout k j) s = .next ((s.modPort k fun p =>
      { p with tx := { p.tx with queue := p.tx.queue.eraseIdx j } }).relay { q with esc := true, epoch := s.epoch }) := by
  change execEscapeWaitTimeout k j s = _
  unfold execEscapeWaitTimeout
  simp only [hq]
  exact if_neg (by simp [he])

/-- A pass over ports that finds nothing to do at each. -/
theorem foldl_unchanged {α β : Type} {f : β → α → β} {l : List α} {b : β} (h : ∀ a ∈ l, f b a = b) : l.foldl f b = b :=
  List.foldlRecOn (motive := fun c => c = b) l f rfl fun c hc a ha => by rw [hc, h a ha]

theorem reroute_none {t : State} (hp : t.ports = s.ports) (hup : ∀ j, j < 48 → (s.port j).st = .up) :
    (List.range 48).foldl (fun s k => if (s.port k).st = .up then s else s.reroute k) t = t := by
  refine foldl_unchanged fun j hj => if_pos ?_
  rw [State.port, hp]
  exact hup j (List.mem_range.mp hj)

theorem installTree_up {links : List FabLink} {e : Bool} (he : s.epoch = !e) (hn : s.epochHere e = false)
    (h5 : s.fnAway 5 = false) (hup : ∀ j, j < 48 → (s.port j).st = .up) :
    let u : State := { s with fabric := links, treeStale := false, epoch := e }
    let table := escapeTableOf (spanningTree u.knownLinks u.modid) u.modid
    s.installTree links e = if e then { u with escape1 := table } else { u with escape0 := table } := by
  intro u table
  refine (if_neg (by simp [he, hn, h5])).trans ((reroute_none ?_ hup))
  cases e <;> rfl

end

end Sys2Proof.Machine

namespace Sys2Proof

open Sys2Proof.Machine

/-- Settles O56: each event by what it finds at its port. -/
theorem portEvents : Obligations.PortEvents := by
  intro s k p
  refine ⟨fun lane errors hup hp hl hm he => ?lane, fun lane n hn => ?noLane,
    fun hup ha => congrArg Host.Outcome.next (if_pos ⟨hup, ha⟩), fun hup hw => congrArg Host.Outcome.next (if_pos ⟨hup, hw⟩),
    fun hup hr => ?replay, fun hup h => ⟨_, congrArg Host.Outcome.next (if_neg (by simp [hup, h, p])), wireResync_sends hup⟩,
    fun hup h => ?missing, exec_retrain_idle, fun haway lanes peer pp t => ?away, fun lanes hr h5 hl => ?retrainFew,
    fun lanes hr h5 htx hrx => ?retrained, fun peer pp t hk hst hsp hpeer h5 h7 => ?trained,
    fun hk hd h5 => ?spare, fun hprot h7 => ⟨exec_rekey_out hprot h7, exec_rekey_in hprot h7⟩,
    fun j q hq he => exec_escapeWaitTimeout hq he, fun links e he hn h5 hup =>
      congrArg Host.Outcome.next (installTree_up he hn h5 hup)⟩
  case lane =>
    have h : s.dropLane k lane = _ := dropLane_eq hup hp hl hm
    have hexec : exec (.laneFail k ⟨lane, errors⟩) s = _ := congrArg Host.Outcome.next ((if_pos (laneBad_of he)).trans h)
    exact ⟨fun h4 => hexec.trans (congrArg _ (if_neg (Nat.not_lt.mpr h4))),
      fun h4 => hexec.trans (congrArg _ (if_pos h4))⟩
  case noLane => exact congrArg Host.Outcome.next (if_neg (by simpa [Port.laneBad] using hn))
  case replay =>
    have hexec : exec (.replayTimeout k) s = .next (s.resend k) := congrArg Host.Outcome.next (if_pos ⟨hup, hr⟩)
    exact ⟨fun h => hexec.trans (congrArg _ (if_neg (Nat.not_le.mpr h))), fun h => hexec.trans (congrArg _ (if_pos h))⟩
  case missing =>
    have hexec : exec (.resyncMissing k) s = _ := congrArg Host.Outcome.next (resyncMissing_eq hup h)
    exact ⟨fun h => hexec.trans (congrArg _ (if_neg (Nat.not_le.mpr h))), fun h => hexec.trans (congrArg _ (if_pos h))⟩
  case away => exact ⟨if_pos (.inr haway), if_pos (by simp [haway]), if_pos (by simp [haway])⟩
  case retrainFew =>
    have hexec : exec (.retrainDone k lanes) s = _ := exec_retrainDone_failed hr h5 hl
    exact ⟨fun h => hexec.trans (congrArg _ (if_neg (Nat.not_le.mpr h))), fun h => hexec.trans (congrArg _ (if_pos h))⟩
  case retrained =>
    rw [← Tx.oldest_eq]
    exact exec_retrainDone_passed hr h5 htx hrx
  case trained =>
    have hgo := linkTrained_mayTrain h5 hk hst hsp hpeer h7
    exact ⟨fun h => (if_neg hgo).trans (if_pos h), fun h => (if_neg hgo).trans (if_neg (Nat.not_lt.mpr h))⟩
  case spare =>
    refine ⟨fun h => (exec_sparePortAssign h5 hk hd (by simp [h])).trans (by simp only [h]; rfl), ?_⟩
    rintro j u h hj rfl
    exact (exec_sparePortAssign h5 hk hd (by simp [h, hj])).trans (by simp only [h]; rfl)

end Sys2Proof
end

section
/-! PROOF. Replacement of firmware and attestation, O59: slice traffic and events leave the functions, the measurements and
the outbox alone; each step of a replacement from the state of its graft; each answer of F7. -/

namespace Sys2Proof.Machine

/-! ## What homes, slices and events leave -/

section
variable {s t : State}

/-- The firmware functions, the measurement registers and the contexts are no part of the memory. -/
theorem nalvel_of_sansMemory (h : t.sansMemory = s.sansMemory) : t.nalvel = s.nalvel := (congrArg State.nalvel h :)
theorem meas_of_sansMemory (h : t.sansMemory = s.sansMemory) : t.meas = s.meas := (congrArg State.meas h :)
theorem ctxs_of_sansMemory (h : t.sansMemory = s.sansMemory) : t.ctxs = s.ctxs := (congrArg State.ctxs h :)
theorem nal_of_sansMemory (h : t.sansMemory = s.sansMemory) (fn : Nat) : t.nal fn = s.nal fn := by
  rw [State.nal, nalvel_of_sansMemory h]
  rfl

end

/-! ## Bytes written at their home read back -/

theorem homeRead_writeHome {s : State} {region : Nat} {hint : Hint} {pa : Nat} {l : List Byte} (hwf : Memory.wf s.mem)
    (hp : ∀ i, i < l.length → paKind (pa + i) = .hbm) (hu : ∀ i, i < l.length → s.holdsUnder (pa + i) = false) :
    (s.writeHome region hint pa l).homeRead pa l.length = l := by
  have hslices := List.foldlRecOn (motive := fun t : State => t.stored = s.stored) (lineParts pa l.length)
    (fun s p => s.sliceWrite region hint p.1 (lineMask p.2.1 p.2.2)) rfl fun _ h _ _ => (sliceWrite_stored ..).trans h
  have hsame : (s.writeHome region hint pa l).homeRead pa l.length = (s.homeWrite pa l).homeRead pa l.length :=
    List.map_congr_left fun i hi => homeByte_of_stored (homeWrite_stored _ pa hslices) (hp i (List.mem_range.mp hi))
  rw [hsame, homeRead_homeWrite hwf hp hu]

/-- What a read of HBM gives once other bytes have been read. -/
theorem homeRead_readHome {s : State} {region : Nat} {hint : Hint} {pa n pb m : Nat}
    (hp : pb + m ≤ 0x80_0000_0000) : (s.readHome region hint pa n).1.homeRead pb m = s.homeRead pb m :=
  List.map_congr_left fun i hi => homeByte_of_stored (readHome_stored ..)
    (paKind_hbm (by have := List.mem_range.mp hi; omega))

theorem areaOf_le (fn : Nat) : areaOf fn + 0x10000 ≤ 0x80_0000_0000 := by
  have : Config.nalvelArea fn % 2 ^ 23 < 2 ^ 23 := Nat.mod_lt _ (by decide)
  unfold areaOf
  omega

/-! ## The functions' records -/

section
variable {s t : State} {fn k : Nat} {f : Nalvel → Nalvel} {q : Req}

theorem nal_modNal_same (hwf : Tab.wf {} s.nalvel = true) : (s.modNal fn f).nal fn = f (s.nal fn) := Tab.get_set_same hwf

theorem nal_modNal_other (hwf : Tab.wf {} s.nalvel = true) (hk : k ≠ fn) : (s.modNal fn f).nal k = s.nal k :=
  Tab.get_set_other hwf hk

theorem nal_modNal_of_ne (h : f (s.nal fn) ≠ {}) : (s.modNal fn f).nal fn = f (s.nal fn) := Tab.get_set_same_of_ne h

theorem nalvel_ne_default {n : Nalvel} (h : n.graft ≠ .stock) : n ≠ {} := fun he => h (congrArg Nalvel.graft he)

theorem fnAway_of_graft (h : (s.nal fn).graft = (t.nal fn).graft) : s.fnAway fn = t.fnAway fn := by
  simp only [State.fnAway, h]

/-- A change of a function's record that does not begin or end its replacement leaves every function where it was. -/
theorem fnAway_modNal (hwf : Tab.wf {} s.nalvel = true) (hk : s.fnAway k = false)
    (hf : (f (s.nal fn)).graft = (s.nal fn).graft ∨ (f (s.nal fn)).graft = .loaded) : (s.modNal fn f).fnAway k = false := by
  by_cases h : k = fn
  · subst h
    rcases hf with hf | hf
    · exact (fnAway_of_graft ((congrArg Nalvel.graft (nal_modNal_same hwf)).trans hf)).trans hk
    · simp [State.fnAway, nal_modNal_same hwf, hf]
  · exact (fnAway_of_graft (congrArg Nalvel.graft (nal_modNal_other hwf h))).trans hk

/-! ## Serving a message (R441, R446, R465) -/

variable {g : State → State × Option Answer} {a : Answer}

theorem serve_answered (h : s.fnAway fn = false) (hg : g s = (t, some a)) : s.serve fn q g = Claim.replied t fn q a := by
  simp only [State.serve, h, hg]
  rfl

end

/-! ## The verdict on a graft's image (R462) -/

section
variable {s : State} {fn v : Nat} {d : BitVec 256} {ok : Bool} {q : Req} (hq : (s.nal fn).graftReq = some q)
  (h7 : s.fnAway 7 = false) (hwf : Tab.wf {} s.nalvel = true)
include hq h7 hwf

theorem exec_graftVerified_good (hd : d = s.imageAt q) : exec (.graftVerified fn true v d) s =
    .next (Claim.replied ((s.modNal fn fun n => { n with graftReq := none }).modNal fn fun n =>
      { n with graft := .loaded, graftVersion := v, graftDigest := d }) 7 q .ok) := by
  have hu := fnAway_modNal (fn := fn) (f := fun n => { n with graftReq := none }) hwf h7 (.inl rfl)
  have ht := fnAway_modNal (fn := fn) (f := fun n => { n with graft := .loaded, graftVersion := v, graftDigest := d })
    (Tab.wf_set (k := fn) hwf) hu (.inr rfl)
  change execGraftVerified fn true v d s = _
  simp only [execGraftVerified, hq, h7, hd, Bool.true_and, decide_true, if_true]
  subst hd
  exact congrArg _ (serve_answered ht rfl)

theorem exec_graftVerified_bad (hd : ok = false ∨ d ≠ s.imageAt q) : exec (.graftVerified fn ok v d) s =
    .next (Claim.replied (s.modNal fn fun n => { n with graftReq := none }) 7 q .refused) := by
  have hu := fnAway_modNal (fn := fn) (f := fun n => { n with graftReq := none }) hwf h7 (.inl rfl)
  have hbad : (ok && decide (d = s.imageAt q)) = false := by
    rcases hd with hd | hd <;> simp [hd]
  change execGraftVerified fn ok v d s = _
  simp only [execGraftVerified, hq, h7, hbad]
  exact congrArg _ (serve_answered hu rfl)

end

/-! ## The hand-over record (R462) -/

section
variable {s : State} {fn schema : Nat} {body : List Byte}

theorem length_handoffRecord (schema fn seq version : Nat) (body : List Byte) :
    (handoffRecord schema fn seq version body).length = 64 + body.length := by
  rw [handoffRecord, List.length_append, length_bytesOf]

theorem exec_handover (hg : (s.nal fn).graft = .loaded) (hb : body.length ≤ 65472) :
    exec (.handover fn schema body.length body) s =
      .next ((s.modNal fn fun n => { n.giveBack with graft := .handover, seq := n.seq + 1 }).writeHome 0 .normal (areaOf fn)
        (handoffRecord schema fn ((s.nal fn).seq + 1) (s.stockOf fn).1 body)) :=
  congrArg Host.Outcome.next (if_neg (by simp [hg, hb]))

/-- A record fits in the function's area, so what was written there is what a read gives. -/
theorem homeRead_record {n : Nat} {l : List Byte} (hl : l.length ≤ 0x10000) (hn : n = l.length) (hwf : Memory.wf s.mem)
    (hu : s.under = []) : (s.writeHome 0 .normal (areaOf fn) l).homeRead (areaOf fn) n = l := by
  subst hn
  have harea := areaOf_le fn
  have hp (i : Nat) (hi : i < l.length) : paKind (areaOf fn + i) = .hbm :=
    paKind_hbm (Nat.lt_of_lt_of_le (Nat.add_lt_add_left (Nat.lt_of_lt_of_le hi hl) _) harea)
  have hunder (i : Nat) (_ : i < l.length) : s.holdsUnder (areaOf fn + i) = false := by
    rw [State.holdsUnder, hu, List.contains_nil, Bool.and_false]
  exact homeRead_writeHome hwf hp hunder

end

/-! ## The graft's trial (R462 to R464) -/

section
variable {s : State} {fn : Nat}

theorem revert_nal (h : (s.nal fn).graft = .trial) (cause : Nat) :
    (s.revert fn cause).nal fn = { (s.nal fn).giveBack with graft := .reverted } := by
  refine (congrArg (State.nal · fn) (if_neg (by simp [h]))).trans ?_
  refine (nal_of_sansMemory (postAll_sansMemory ..) fn).trans ?_
  exact nal_modNal_of_ne (f := fun n => { n.giveBack with graft := .reverted }) (nalvel_ne_default (by simp))

theorem revert_ctxs (s : State) (fn cause : Nat) : (s.revert fn cause).ctxs = s.ctxs := by
  unfold State.revert
  generalize s.stockOf fn = stock
  split
  · rfl
  · simp only [postAll_ctxs, State.extend, modNal_ctxs]

theorem exec_commitRegisterWrite (h : (s.nal fn).graft = .trial) : exec (.commitRegisterWrite fn) s =
    .next ((s.modNal fn fun n => { n with graft := .committed, stock := some (n.graftVersion, n.graftDigest) }).extend 15
      (.log fn 0 (s.nal fn).graftVersion)) := congrArg Host.Outcome.next (if_neg (by simp [h]))

theorem exec_trialExpiry (h : (s.nal fn).graft = .trial) : exec (.trialExpiry fn) s =
    .next { s with now := Nat.max s.now ((s.nal fn).trialStart + 500000000) } :=
  congrArg Host.Outcome.next (if_pos h)

theorem exec_heartbeat (h : (s.nal fn).graft = .trial) {t : Nat} (ht : s.now ≤ t) : exec (.heartbeat fn t) s = .next { s with
    now := t, nalvel := Tab.set {} s.nalvel fn { s.nal fn with beat := (t - (s.nal fn).trialStart) / 1000000 + 1 } } := by
  have hmax : Nat.max s.now t = t := Nat.max_eq_right ht
  change execHeartbeat fn t s = _
  unfold execHeartbeat
  rw [hmax]
  exact congrArg (fun n => Host.Outcome.next { s with now := t, nalvel := Tab.set {} s.nalvel fn n }) (if_pos h)

/-- The watchdog looks at a trial, by whether its heartbeats have stopped and whether its time is over. -/
theorem watch_trial (h : (s.nal fn).graft = .trial) : s.watch fn =
    if (s.nal fn).beat + 3 ≤ Nat.min ((s.nal fn).trialMs s.now) 500 then s.revert fn 2
    else if 500 ≤ (s.nal fn).trialMs s.now then s.revert fn 1 else s := if_neg (by simp [h])

theorem exec_heartbeatMissed {t : Nat} (ht : s.now ≤ t) :
    exec (.heartbeatMissed fn t) s = .next (({ s with now := t } : State).watch fn) := by
  have hmax : Nat.max s.now t = t := Nat.max_eq_right ht
  change execHeartbeatMissed fn t s = _
  rw [execHeartbeatMissed, hmax]

end

/-! ## The graft starts (R462, R463) -/

/-- The state when a graft has been measured and announced, before it reads the record. -/
def State.startMeasured (s : State) (fn : Nat) : State :=
  let n := s.nal fn
  (((s.modNal fn fun n => { n with graft := .trial, trialStart := s.now, beat := 0 }).extend (1 + fn)
    (.digest n.graftDigest)).extend 15 (.log fn 0 n.graftVersion)).postAll s.liveRegions ev.remeasure
    (fn + (1 + fn) * 16) n.graftVersion

/-- The bytes of the record's body, as many as its head says and as fit in the area. -/
def State.recordBody (s : State) (fn : Nat) : List Byte :=
  s.homeRead (areaOf fn + 64) (Nat.min 65472 (ofBytes (((s.homeRead (areaOf fn) 64).drop 4).take 4)))

/-- The state when the graft has read the record. -/
def State.recordRead (s : State) (fn : Nat) : State :=
  ((s.readHome 0 .normal (areaOf fn) 64).1.readHome 0 .normal (areaOf fn + 64)
    (Nat.min 65472 (ofBytes (((s.homeRead (areaOf fn) 64).drop 4).take 4)))).1

/-- The graft reads the record, and refuses one that it does not accept. -/
def State.readRecord (s : State) (schema fn : Nat) : State :=
  let (s, head) := s.readHome 0 .normal (areaOf fn) 64
  let (s, body) := s.readHome 0 .normal (areaOf fn + 64) (Nat.min 65472 (ofBytes ((head.drop 4).take 4)))
  if acceptsRecord schema head body then s else s.revert fn 3

section
variable {s : State} {fn : Nat}

theorem recordRead_sansMemory (s : State) (fn : Nat) : (s.recordRead fn).sansMemory = s.sansMemory :=
  (readHome_sansMemory ..).trans (readHome_sansMemory ..)

theorem startMeasured_nal (s : State) (fn : Nat) :
    (s.startMeasured fn).nal fn = { s.nal fn with graft := .trial, trialStart := s.now, beat := 0 } :=
  (nal_of_sansMemory (postAll_sansMemory ..) fn).trans
    (nal_modNal_of_ne (f := fun n => { n with graft := .trial, trialStart := s.now, beat := 0 }) (nalvel_ne_default (by simp)))

theorem recordRead_nal (s : State) (fn : Nat) :
    ((s.startMeasured fn).recordRead fn).nal fn = { s.nal fn with graft := .trial, trialStart := s.now, beat := 0 } :=
  (nal_of_sansMemory (recordRead_sansMemory ..) fn).trans (startMeasured_nal s fn)

theorem startGraft_reads (s : State) (fn : Nat) :
    s.startGraft fn = (s.startMeasured fn).readRecord (Config.graftSchema (s.nal fn).graftDigest) fn := rfl

/-- The body is read after the head's slice traffic, which leaves it as it stands. -/
theorem readRecord_eq (u : State) (schema fn : Nat) : u.readRecord schema fn =
    if acceptsRecord schema (u.homeRead (areaOf fn) 64) (u.recordBody fn) then u.recordRead fn
    else (u.recordRead fn).revert fn 3 := by
  have hbody : (u.readHome 0 .normal (areaOf fn) 64).1.homeRead (areaOf fn + 64)
      (Nat.min 65472 (ofBytes (((u.homeRead (areaOf fn) 64).drop 4).take 4))) = u.recordBody fn := by
    have harea := areaOf_le fn
    have hmin : Nat.min 65472 (ofBytes (((u.homeRead (areaOf fn) 64).drop 4).take 4)) ≤ 65472 := Nat.min_le_left ..
    exact homeRead_readHome (by omega)
  rw [← hbody]
  rfl

theorem replacement_handover (h : (s.nal fn).graft = .handover) : s.replacement fn = s.startGraft fn := by
  rw [State.replacement, h]

theorem replacement_ended (h : (s.nal fn).graft = .committed ∨ (s.nal fn).graft = .reverted) :
    s.replacement fn = s.modNal fn fun n => { n with graft := .stock } := by
  rw [State.replacement]
  rcases h with h | h <;> rw [h]

theorem replacement_none (h : (s.nal fn).graft = .stock ∨ (s.nal fn).graft = .loaded) : s.replacement fn = s := by
  rw [State.replacement]
  rcases h with h | h <;> rw [h]

end

/-! ## F7's answers (R461) -/

section
variable {s : State} {f : Nat} {ready : Spdm → Bool} {go : State → State}

theorem spdmAnswer_unreached (h : s.spdmReaches f = false) : s.spdmAnswer f ready go = .next s :=
  congrArg Host.Outcome.next (if_pos (by simp [h]))

theorem spdmAnswer_away (h : s.spdmReaches f = true) (h7 : s.f7Away = true) :
    s.spdmAnswer f ready go = .next (s.spdmError f 0x42) :=
  congrArg Host.Outcome.next ((if_neg (by simp [h])).trans (if_pos h7))

theorem spdmAnswer_ready (h : s.spdmReaches f = true) (h7 : s.f7Away = false) (hr : ready (s.spdmOf f) = true) :
    s.spdmAnswer f ready go = .next (go s) :=
  congrArg Host.Outcome.next ((if_neg (by simp [h])).trans ((if_neg (by simp [h7])).trans (if_neg (by simp [hr]))))

theorem measBlock_register {k : Nat} (h : k < 16) : s.measBlock f k = some (s.measOf k) := if_pos h

theorem measBlock_rcb (hf : f ≠ 0) (hb : s.isBound f = true) : s.measBlock f 16 = some (s.rcbDigest (s.func f).region) :=
  (if_neg (by decide)).trans (if_pos ⟨rfl, hf, hb⟩)

/-- One measurement block, by its number. -/
theorem exec_getMeasurements_block (h : s.spdmReaches f = true) (h7 : s.f7Away = false)
    (hr : (s.spdmOf f).algsDone = true) {k : Nat} (hk : k ≠ 0xFF) {m : BitVec 256} (hm : s.measBlock f k = some m) :
    exec (.getMeasurements f k) s = .next { s with outbox := s.outbox ++ [.doe f 0x60 [m]] } := by
  refine (spdmAnswer_ready h h7 hr : execGetMeasurements f k s = _).trans ?_
  simp only [if_neg hk, hm]
  rfl

end

end Sys2Proof.Machine

namespace Sys2Proof

open Sys2Proof.Machine

/-- Settles O59: the verdict on an image, the hand-over, what follows from each state of a graft, the ends of a trial, and
F7's answers, a request at a time. -/
theorem replacementAndAttestation : Obligations.ReplacementAndAttestation := by
  refine ⟨fun s fn v d ok q hq h7 hwf => ⟨?good, fun h => exec_graftVerified_bad hq h7 hwf h⟩,
    fun s fn schema body hg hb => ⟨_, exec_handover hg hb, ?record⟩,
    fun s fn => ⟨?starts, replacement_ended, replacement_none⟩,
    fun s fn h => ⟨⟨_, exec_commitRegisterWrite h, ?committed⟩, ⟨s.revert fn 3, rfl, ?refused⟩, exec_trialExpiry h,
      fun t => exec_heartbeat h, ?watched⟩,
    fun s f => ⟨fun h => (spdmAnswer_unreached h : execGetVersion f s = _),
      fun h h7 => (spdmAnswer_away h h7 : execGetVersion f s = _), fun h h7 => ?answers⟩⟩
  case good =>
    rintro ⟨rfl, hd⟩
    exact exec_graftVerified_good hq h7 hwf hd
  case record =>
    have hkept := writeHome_sansMemory (s.modNal fn fun n => { n.giveBack with graft := .handover, seq := n.seq + 1 }) 0
      .normal (areaOf fn) (handoffRecord schema fn ((s.nal fn).seq + 1) (s.stockOf fn).1 body)
    have hnal := (nal_of_sansMemory hkept fn).trans (nal_modNal_of_ne (nalvel_ne_default (by simp)))
    have hlen := length_handoffRecord schema fn ((s.nal fn).seq + 1) (s.stockOf fn).1 body
    exact ⟨congrArg Nalvel.graft hnal, congrArg Nalvel.seq hnal, (ctxs_of_sansMemory hkept).trans rfl,
      (meas_of_sansMemory hkept).trans rfl,
      fun hwf hu => homeRead_record (by omega) hlen.symm hwf hu⟩
  case starts =>
    intro h
    rw [replacement_handover h, startGraft_reads, readRecord_eq]
    refine ⟨fun ha => ?_, fun ha => ?_⟩
    · refine (if_pos ha).symm ▸ ?_
      have hnal := recordRead_nal s fn
      exact ⟨congrArg Nalvel.graft hnal, congrArg Nalvel.trialStart hnal, congrArg Nalvel.beat hnal,
        meas_of_sansMemory (recordRead_sansMemory ..)⟩
    · refine (if_neg (ne_true_of_eq_false ha)).symm ▸ ?_
      exact congrArg Nalvel.graft (revert_nal (congrArg Nalvel.graft (recordRead_nal s fn)) 3)
  case committed =>
    have hnal := nal_modNal_of_ne (s := s) (fn := fn)
      (f := fun n => { n with graft := .committed, stock := some (n.graftVersion, n.graftDigest) })
      (nalvel_ne_default (by simp))
    exact ⟨congrArg Nalvel.graft hnal, congrArg Nalvel.stock hnal, rfl,
      fun hm => List.getElem?_set_self (hm ▸ by decide : 15 < s.meas.length)⟩
  case refused =>
    have hnal := revert_nal h 3
    exact ⟨congrArg Nalvel.graft hnal, (congrArg Nalvel.stock hnal).trans rfl, revert_ctxs ..⟩
  case watched =>
    intro t ht u ms silent
    have hwatch := watch_trial (s := u) h
    have hsilent : silent ↔ (s.nal fn).beat + 3 ≤ Nat.min ms 500 := Nat.le_min.symm
    rw [exec_heartbeatMissed ht, hwatch]
    exact ⟨fun hs => congrArg _ (if_pos (hsilent.mp hs)),
      fun hs hms => congrArg _ ((if_neg (mt hsilent.mpr hs)).trans (if_pos hms)),
      fun hs hms => congrArg _ ((if_neg (mt hsilent.mpr hs)).trans (if_neg (Nat.not_le.mpr hms)))⟩
  case answers =>
    refine ⟨(spdmAnswer_ready h h7 rfl : execGetVersion f s = _),
      fun hr => (spdmAnswer_ready h h7 hr : execGetCapabilities f s = _),
      fun hr => (spdmAnswer_ready h h7 hr : execNegotiateAlgorithms f s = _), fun hr => ?algorithms,
      fun hr => ⟨_, (spdmAnswer_ready h h7 hr : execFinish f true s = _)⟩, fun hr => ?established⟩
    case algorithms =>
      exact ⟨(spdmAnswer_ready h h7 hr : execGetDigests f s = _), (spdmAnswer_ready h h7 hr : execGetCertificate f 0 s = _),
        fun nonce => (spdmAnswer_ready h h7 hr : execChallenge f 0 nonce s = _),
        fun k hk => exec_getMeasurements_block h h7 hr (by omega) (measBlock_register hk),
        fun hf hb => exec_getMeasurements_block h h7 hr (by decide) (measBlock_rcb hf hb),
        (spdmAnswer_ready h h7 hr : execGetMeasurements f 0xFF s = _),
        _, (spdmAnswer_ready h h7 hr : execKeyExchange f s = _)⟩
    case established =>
      exact ⟨(spdmAnswer_ready h h7 hr : execKeyUpdate f s = _), (spdmAnswer_ready h h7 hr : execEndSession f s = _)⟩

end Sys2Proof
end

section
/-! PROOF. Power, reset and sensors, O60: a change of stage leaves all but its buckets and the stage, each throttling action
from the stage in force, the spare that a position gets, and the fields of the sensor block. -/

namespace Sys2Proof.Machine

/-! ## A stage comes into force (R489, R490) -/

/-- The state with its controllers and the fabric's buckets left out. -/
def State.sansBuckets (s : State) : State := { s with hbm := [], fabCredit := [], fabCreditAt := [] }

section
variable {s t : State} {n d : Nat}

theorem settleBuckets_sansBuckets (s : State) (stack : Nat) : (s.settleBuckets stack).sansBuckets = s.sansBuckets :=
  List.foldlRecOn (motive := fun t : State => t.sansBuckets = s.sansBuckets) _ _ rfl fun _ h _ _ => h

theorem settled_sansBuckets (l : List Nat) (s : State) :
    (l.foldl State.settleBuckets s).sansBuckets = s.sansBuckets :=
  List.foldlRecOn (motive := fun t : State => t.sansBuckets = s.sansBuckets) _ _ rfl
    fun _ h _ _ => (settleBuckets_sansBuckets ..).trans h

/-- A new stage leaves everything but itself and the buckets, which keep their levels. -/
theorem setStage_sansBuckets (s : State) (n : Nat) :
    (s.setStage n).sansBuckets = ({ s with power := { s.power with stage := n } } : State).sansBuckets := by
  have h := settled_sansBuckets (List.range 8) s
  unfold State.setStage
  generalize (List.range 8).foldl State.settleBuckets s = u at h ⊢
  exact (congrArg (fun t : State => { t with power := { t.power with stage := n } }) h :)

theorem power_of_sansBuckets (h : t.sansBuckets = s.sansBuckets) : t.power = s.power := (congrArg State.power h :)
theorem ctxs_of_sansBuckets (h : t.sansBuckets = s.sansBuckets) : t.ctxs = s.ctxs := (congrArg State.ctxs h :)
theorem mem_of_sansBuckets (h : t.sansBuckets = s.sansBuckets) : t.mem = s.mem := (congrArg State.mem h :)
theorem dies_of_sansBuckets (h : t.sansBuckets = s.sansBuckets) : t.dies = s.dies := (congrArg State.dies h :)

theorem setStage_die (s : State) (n d : Nat) : (s.setStage n).die d = s.die d := by
  rw [State.die, dies_of_sansBuckets (setStage_sansBuckets s n)]
  rfl

/-! ## The throttling actions (R489) -/

variable {r : Reading}

theorem throttle_stage0 (h : s.power.stage = 0) : s.throttle r = (s.setStage 1).throttleEvent 1 true := by
  simp only [State.throttle, h]

theorem throttle_stage1 (h : s.power.stage = 1) : s.throttle r = (((s.setStage 2).setMhz (Reading.hottest r)
    ((s.die (Reading.hottest r)).mhz - 50)).throttleEvent 2 true) := by
  simp only [State.throttle, h, setStage_die]

theorem throttle_stage2_lowers (h : s.power.stage = 2) (hd : 700 < (s.die (Reading.hottest r)).mhz) :
    s.throttle r = s.setMhz (Reading.hottest r) ((s.die (Reading.hottest r)).mhz - 50) := by
  simp only [State.throttle, h]
  exact if_pos hd

theorem throttle_stage2_ends (h : s.power.stage = 2) (hd : (s.die (Reading.hottest r)).mhz ≤ 700) : s.throttle r =
    ((((((s.setStage 3).setMhz 0 700).setMhz 1 700).setMhz 2 700).setMhz 3 700).throttleEvent 3 true) := by
  simp only [State.throttle, h]
  exact if_neg (Nat.not_lt.mpr hd)

theorem throttle_stage3 (h : s.power.stage = 3) : s.throttle r = ({ s.setStage 4 with
    power := { (s.setStage 4).power with l2mhz := 1000 } } : State).throttleEvent 4 true := by
  simp only [State.throttle, h]

end

/-! ## Comparisons (R489, R491) -/

section
variable {s : State} {r : Reading} {t : Nat} (ht : s.now ≤ t)
include ht

theorem exec_powerComparison_trips (h : Reading.trips r = true) :
    exec (.powerComparison r t) s = .next ({ s with now := t } : State).trip := by
  have hmax : Nat.max s.now t = t := Nat.max_eq_right ht
  change execPowerComparison r t s = _
  unfold execPowerComparison
  rw [hmax]
  exact congrArg Host.Outcome.next (if_pos h)

variable (htrip : Reading.trips r = false)
include htrip

theorem exec_powerComparison_away (h6 : s.fnAway 6 = true) :
    exec (.powerComparison r t) s = .next { s with now := t } := by
  have hmax : Nat.max s.now t = t := Nat.max_eq_right ht
  change execPowerComparison r t s = _
  unfold execPowerComparison
  rw [hmax]
  exact congrArg Host.Outcome.next ((if_neg (ne_true_of_eq_false htrip)).trans (if_pos h6))

variable (h6 : s.fnAway 6 = false)
include h6

theorem exec_powerComparison_over (h : overLimit (Reading.limits r s.power.cap) = true) :
    exec (.powerComparison r t) s =
      .next (({ s with now := t, power := { s.power with calmSince := none } } : State).throttle r) := by
  have hmax : Nat.max s.now t = t := Nat.max_eq_right ht
  change execPowerComparison r t s = _
  unfold execPowerComparison
  rw [hmax]
  exact congrArg Host.Outcome.next
    ((if_neg (ne_true_of_eq_false htrip)).trans ((if_neg (ne_true_of_eq_false h6)).trans (if_pos h)))

variable (hover : overLimit (Reading.limits r s.power.cap) = false)
include hover

theorem exec_powerComparison_near (h : calmLimits (Reading.limits r s.power.cap) = false) :
    exec (.powerComparison r t) s = .next { s with now := t, power := { s.power with calmSince := none } } := by
  have hmax : Nat.max s.now t = t := Nat.max_eq_right ht
  change execPowerComparison r t s = _
  unfold execPowerComparison
  rw [hmax]
  exact congrArg Host.Outcome.next ((if_neg (ne_true_of_eq_false htrip)).trans ((if_neg (ne_true_of_eq_false h6)).trans
    ((if_neg (ne_true_of_eq_false hover)).trans (if_pos (by simp [h])))))

/-- A calm comparison, by since when it has been calm. -/
theorem exec_powerComparison_calm (h : calmLimits (Reading.limits r s.power.cap) = true) :
    exec (.powerComparison r t) s = .next (match s.power.calmSince with
      | none => { s with now := t, power := { s.power with calmSince := some t } }
      | some t0 => if t0 + 10000000 ≤ t then ({ s with now := t } : State).relax t else { s with now := t }) := by
  have hmax : Nat.max s.now t = t := Nat.max_eq_right ht
  change execPowerComparison r t s = _
  unfold execPowerComparison
  rw [hmax]
  refine congrArg Host.Outcome.next ((if_neg (ne_true_of_eq_false htrip)).trans ((if_neg (ne_true_of_eq_false h6)).trans
    ((if_neg (ne_true_of_eq_false hover)).trans ((if_neg (by simp [h])).trans ?_))))
  cases s.power.calmSince <;> rfl

end

/-! ## Leaving a stage (R489) -/

/-- Stage `n` is left for stage `m`, and the 10 ms begin again. -/
def State.leaveStage (s : State) (t n m : Nat) : State :=
  ({ s.setStage m with power := { (s.setStage m).power with calmSince := some t } } : State).throttleEvent n false

section
variable {s : State} {t : Nat}

theorem relax_stage4 (h : s.power.stage = 4) :
    s.relax t = ({ s with power := { s.power with l2mhz := 1400 } } : State).leaveStage t 4 3 := by
  simp only [State.relax, h]
  rfl

theorem relax_stage3 (h : s.power.stage = 3) : s.relax t = s.leaveStage t 3 2 := by
  simp only [State.relax, h]
  rfl

theorem relax_stage1 (h : s.power.stage = 1) : s.relax t = s.leaveStage t 1 0 := by
  simp only [State.relax, h]
  rfl

end

/-! ## The self-test (R290, R493) -/

section
variable {s t : State} {n k : Nat}

theorem core_modCore_of_ne {f : Core → Core} (h : f (s.core k) ≠ {}) : (s.modCore k f).core k = f (s.core k) :=
  Tab.get_set_same_of_ne h

/-- The spare that the self-test finds for position `k`, if any. -/
def State.spareOf (s : State) (n k : Nat) : Option Nat :=
  (List.range 2).find? fun j => 2 - (s.die (dieOfCore k)).spares ≤ j &&
    !Config.selfTestFails n (96 + 2 * dieOfCore k + j)

theorem spare_iff (s : State) (n k j : Nat) :
    (j ∈ List.range 2 ∧ (decide (2 - (s.die (dieOfCore k)).spares ≤ j) &&
      !Config.selfTestFails n (96 + 2 * dieOfCore k + j)) = true) ↔
    j < 2 ∧ 2 ≤ j + (s.die (dieOfCore k)).spares ∧ Config.selfTestFails n (96 + 2 * dieOfCore k + j) = false := by
  rw [List.mem_range, Bool.and_eq_true, decide_eq_true_eq, Bool.not_eq_true', Nat.sub_le_iff_le_add]

theorem spare_of_spareOf {j : Nat} (h : s.spareOf n k = some j) :
    j < 2 ∧ 2 ≤ j + (s.die (dieOfCore k)).spares ∧ Config.selfTestFails n (96 + 2 * dieOfCore k + j) = false :=
  (spare_iff s n k j).mp ⟨List.mem_of_find?_eq_some h, List.find?_some (p := fun j =>
    2 - (s.die (dieOfCore k)).spares ≤ j && !Config.selfTestFails n (96 + 2 * dieOfCore k + j)) h⟩

theorem mapSpare_some {j : Nat} (h : s.spareOf n k = some j) :
    (s.mapSpare n k).core k = { s.core k with phys := j + 1 } := by
  unfold State.spareOf at h
  unfold State.mapSpare
  simp only [h]
  exact core_modCore_of_ne (f := fun x => { x with phys := j + 1 }) fun he => absurd (congrArg Core.phys he) (by simp)

theorem mapSpare_none (h : s.spareOf n k = none) : (s.mapSpare n k).core k = { s.core k with dead := true } := by
  unfold State.spareOf at h
  unfold State.mapSpare
  simp only [h]
  exact core_modCore_of_ne (f := fun x => { x with dead := true }) fun he => absurd (congrArg Core.dead he) (by simp)

/-- The state with its cores and dies left out. -/
def State.sansCores (s : State) : State := { s with cores := [], dies := [] }

theorem fields_of_sansCores (h : t.sansCores = s.sansCores) : t.mem = s.mem ∧ t.ctxs = s.ctxs ∧ t.hbm = s.hbm ∧
    t.hostMem = s.hostMem ∧ t.meas = s.meas ∧ t.power = s.power ∧ t.modid = s.modid ∧ t.outbox = s.outbox :=
  ⟨(congrArg State.mem h :), (congrArg State.ctxs h :), (congrArg State.hbm h :), (congrArg State.hostMem h :),
    (congrArg State.meas h :), (congrArg State.power h :), (congrArg State.modid h :), (congrArg State.outbox h :)⟩

theorem mapSpare_sansCores (s : State) (n k : Nat) : (s.mapSpare n k).sansCores = s.sansCores := by
  unfold State.mapSpare
  extract_lets d
  split <;> rfl

theorem selfTest_sansCores (s : State) (n : Nat) : (s.selfTest n).sansCores = s.sansCores := by
  refine List.foldlRecOn (motive := fun t : State => t.sansCores = s.sansCores) _ _ rfl fun t h k _ => ?_
  split
  · exact (mapSpare_sansCores ..).trans h
  · exact h

/-- Module reset leaves the Reset values, but for the cores and dies, region 0's CORES, and what no reset touches. -/
theorem moduleReset_sansCores (s : State) (n : Nat) : (s.moduleReset n).sansCores = ({ State.reset with
    free := s.free, now := s.now, hostMem := s.hostMem, outbox := s.outbox
    regions := (s.moduleReset n).regions } : State).sansCores := by
  have h := selfTest_sansCores { State.reset with
    free := s.free, now := s.now, hostMem := s.hostMem, outbox := s.outbox
    cores := Tab.mapVals {} s.cores fun k => { dead := k.dead, phys := k.phys }
    dies := s.dies.map fun d => { Die.reset with spares := d.spares } } n
  exact (congrArg (fun t : State => { t with regions := (s.moduleReset n).regions }) h :)

theorem moduleReset_region (s : State) (n r : Nat) : ((s.moduleReset n).region r).isSome = true ↔ r = 0 := by
  by_cases h : r = 0
  · subst h
    exact iff_of_true rfl rfl
  · refine iff_of_false ?_ h
    simp [State.region, State.moduleReset, Tab.get, h]

end

/-! ## Bring-up (R487, R493) -/

section
variable {s : State}

theorem exec_moduleReset_range (h : Config.inputVoltage s.free < 4800 ∨ 6000 < Config.inputVoltage s.free) :
    exec .moduleReset s = .next ({ s with free := s.free + 1 } : State).notStarted :=
  congrArg Host.Outcome.next (if_pos h)

theorem exec_moduleReset_completes (h : ¬ (Config.inputVoltage s.free < 4800 ∨ 6000 < Config.inputVoltage s.free))
    (hk : Config.bringupFails s.free = none) :
    exec .moduleReset s = .next (({ s with free := s.free + 1 } : State).moduleReset s.free) := by
  refine congrArg Host.Outcome.next ((if_neg h).trans ?_)
  rw [hk]

theorem exec_moduleReset_fails (h : ¬ (Config.inputVoltage s.free < 4800 ∨ 6000 < Config.inputVoltage s.free)) {k}
    (hk : Config.bringupFails s.free = some k) :
    exec .moduleReset s = .next (({ s with free := s.free + 1 } : State).bringupFailed (k.val + 1)) := by
  refine congrArg Host.Outcome.next ((if_neg h).trans ?_)
  rw [hk]

end

/-! ## The sensor block (R494) -/

theorem extractLsb'_ofNat_toNat {w x lo n : Nat} (h : lo + n ≤ w) :
    ((BitVec.ofNat w x).extractLsb' lo n).toNat = x / 2 ^ lo % 2 ^ n := by
  rw [BitVec.extractLsb'_toNat, BitVec.toNat_ofNat, Nat.shiftRight_eq_div_pow]
  refine Nat.eq_of_testBit_eq fun i => ?_
  rw [Nat.testBit_mod_two_pow, Nat.testBit_mod_two_pow, Nat.testBit_div_two_pow, Nat.testBit_div_two_pow,
    Nat.testBit_mod_two_pow]
  by_cases hi : i < n
  · simp [show i + lo < w by omega]
  · simp [hi]

theorem Reading.bits_fields (r : Reading) : ((Reading.bits r).extractLsb' 0 16).toNat = r.vin % 2 ^ 16 ∧
    ((Reading.bits r).extractLsb' 16 16).toNat = r.pin % 2 ^ 16 ∧ ((Reading.bits r).extractLsb' 96 8).toNat = r.thub % 2 ^ 8 := by
  have hdie := packN_lt 8 ((List.range 4).map fun d => nth0 r.tdie d % 256)
  rw [List.length_map, List.length_range] at hdie
  unfold Reading.bits
  rw [extractLsb'_ofNat_toNat (by decide), extractLsb'_ofNat_toNat (by decide), extractLsb'_ofNat_toNat (by decide)]
  generalize packN 8 ((List.range 4).map fun d => nth0 r.tdie d % 256) = die at hdie ⊢
  generalize packN 8 ((List.range 8).map fun k => nth0 r.thbm k % 256) = hbm
  simp only [Nat.reducePow] at hdie ⊢
  omega

end Sys2Proof.Machine

namespace Sys2Proof

open Sys2Proof.Machine

/-- Settles O60: a comparison by what it finds and by the stage in force, the trip and the losses of power, the three ways in
which a bring-up ends, the self-test by the spare that it finds, and the fields of the sensor block. -/
theorem powerAndReset : Obligations.PowerAndReset := by
  refine ⟨fun s r t ht => ⟨exec_powerComparison_trips ht, exec_powerComparison_away ht, fun hr h6 hover => ?actions,
      exec_powerComparison_near ht, fun hr h6 hover hcalm => ⟨fun hs => ?calm, fun t0 hs => ?leaves⟩⟩,
    fun s n => ⟨power_of_sansBuckets (setStage_sansBuckets s n), (ctxs_of_sansBuckets (setStage_sansBuckets s n)).trans rfl,
      (mem_of_sansBuckets (setStage_sansBuckets s n)).trans rfl⟩,
    fun s => ⟨_, rfl, rfl, rfl, rfl, rfl, rfl, rfl, rfl, rfl, rfl⟩, fun s => ⟨_, rfl, rfl, rfl, rfl, rfl, rfl, rfl⟩,
    fun s => ?reset, fun s n k => ?spare, fun s r => ⟨_, rfl, Reading.bits_fields r⟩, fun s k lo n hk => ?field⟩
  case actions =>
    have h := exec_powerComparison_over ht hr h6 hover
    refine ⟨fun hs => ?_, fun hs => ?_, fun hs hm => ?_, fun hs hm => ?_, fun hs => ?_⟩
    · exact h.trans (congrArg _ (throttle_stage0 hs))
    · exact h.trans (congrArg _ (throttle_stage1 hs))
    · exact h.trans (congrArg _ (throttle_stage2_lowers hs hm))
    · exact h.trans (congrArg _ (throttle_stage2_ends hs hm))
    · exact h.trans (congrArg _ (throttle_stage3 hs))
  case calm =>
    rw [exec_powerComparison_calm ht hr h6 hover hcalm, hs]
  case leaves =>
    have h := exec_powerComparison_calm ht hr h6 hover hcalm
    simp only [hs] at h
    have hrelax (hw : t0 + 10000000 ≤ t) := h.trans (congrArg _ (if_pos hw))
    refine ⟨fun hw => h.trans (congrArg _ (if_neg (Nat.not_le.mpr hw))), fun hw hst => ?_, fun hw hst => ?_, fun hw hst => ?_⟩
    · refine (hrelax hw).trans (congrArg _ ?_)
      rw [relax_stage4 (s := { s with now := t }) hst]
      dsimp only [State.leaveStage]
    · exact (hrelax hw).trans (congrArg _ (relax_stage3 (s := { s with now := t }) hst))
    · exact (hrelax hw).trans (congrArg _ (relax_stage1 (s := { s with now := t }) hst))
  case reset =>
    by_cases hv : Config.inputVoltage s.free < 4800 ∨ 6000 < Config.inputVoltage s.free
    · exact ⟨({ s with free := s.free + 1 } : State).notStarted, exec_moduleReset_range hv, rfl, rfl, rfl, rfl,
        fun _ => ⟨rfl, rfl, rfl, rfl⟩, fun _ _ => by omega, fun _ _ _ => by omega⟩
    · cases hk : Config.bringupFails s.free with
      | none =>
        obtain ⟨hmem, hctxs, hhbm, hhost, hmeas, hpower, hmodid, hout⟩ :=
          fields_of_sansCores (moduleReset_sansCores ({ s with free := s.free + 1 } : State) s.free)
        exact ⟨_, exec_moduleReset_completes hv hk, hmem, hctxs, hhbm, hhost, fun hv' => absurd hv' hv,
          fun _ _ _ => ⟨hmeas, hpower, hmodid, hout, moduleReset_region _ _⟩, fun _ _ _ hk' => (nomatch hk')⟩
      | some k =>
        exact ⟨_, exec_moduleReset_fails hv hk, rfl, rfl, rfl, rfl, fun hv' => absurd hv' hv, fun _ _ hk' => (nomatch hk'),
          fun k' _ _ hk' => Option.some.inj hk' ▸ ⟨rfl, rfl, rfl, rfl⟩⟩
  case spare =>
    intro t spare
    cases hf : s.spareOf n k with
    | some j =>
      have hj := spare_of_spareOf hf
      have hcore := mapSpare_some hf
      exact ⟨fun _ => ⟨j, hj, congrArg Core.phys hcore, (congrArg Core.dead hcore).trans rfl⟩, fun hn => absurd ⟨j, hj⟩ hn⟩
    | none =>
      refine ⟨fun ⟨j, hj⟩ => ?_, fun _ => congrArg Core.dead (mapSpare_none hf)⟩
      obtain ⟨hmem, hp⟩ := (spare_iff s n k j).mpr hj
      exact absurd hp (List.find?_eq_none.mp hf j hmem)
  case field =>
    change execPldmRequest k s = _
    rw [execPldmRequest, hk]
    rfl

end Sys2Proof
end

section
/-! PROOF. Host messages, O57, which fails: an `Answer` may hold a status above the 8 bits of a reply's STATUS, and the part
above them is added to the base of the region tables in bits [127:64]. -/

namespace Sys2Proof.Machine.HostMessages

/-- Region 0 with a region 1 of level 1 under it. -/
def regions : State := { regions := [(0, some Region.root), (1, some { level := 1 })] }

/-- A REGION-CREATE under region 1, from the PF. -/
def create : Req := { op := 0x01, dest := 0, tag := 0, region := 0, func := 0, args := .regionCreate 1 }

theorem fnAway_regions (fn : Nat) : regions.fnAway fn = false := rfl

/-- Region 2 is the lowest that is free. -/
theorem find_free : (List.range 4096).find? (fun r => (regions.region r).isNone) = some 2 :=
  List.find?_range_eq_some.mpr ⟨rfl, List.mem_range.mpr (by norm_num), by decide⟩

/-- A status of nine bits carries into what stands above the first 64 bits. -/
theorem wide_carries {low : Nat} (h : low < 2 ^ 56) (high : Nat) :
    (low + 256 * 2 ^ 56 + high * 2 ^ 64) / 2 ^ 64 % 2 ^ 64 = (high % 2 ^ 64 + 1) % 2 ^ 64 := by
  simp only [Nat.reducePow] at h ⊢
  omega

/-- The arguments of a reply to REGION-CREATE begin with the base of the region tables. -/
theorem base_of_args (args : Nat) :
    (Config.rcbBase % 2 ^ 64 + args % 2 ^ 64 * 2 ^ 64) % 2 ^ 448 % 2 ^ 64 = Config.rcbBase % 2 ^ 64 := by
  rw [Nat.mod_mod_of_dvd _ (Nat.pow_dvd_pow 2 (by decide)), Nat.add_mul_mod_self_right, Nat.mod_mod]

/-- The ninth bit of the status makes the base that the reply reports one more. -/
theorem base_reply_wide {q : Req} {a : Answer} (hq : q.op % 256 = 1) (ha : a.status = 256) :
    ((Req.reply q a).extractLsb' 64 64).toNat = (Config.rcbBase % 2 ^ 64 + 1) % 2 ^ 64 := by
  have hlow : q.op % 256 + q.dest % 8 * 2 ^ 8 + 2 ^ 14 + q.tag % 2 ^ 16 * 2 ^ 16 + q.region % 4096 * 2 ^ 32 +
      q.func % 128 * 2 ^ 44 < 2 ^ 56 := by omega
  unfold Req.reply
  rw [if_pos hq, extractLsb'_ofNat_toNat (by decide), ha, wide_carries hlow, base_of_args]

end Sys2Proof.Machine.HostMessages

namespace Sys2Proof

open Sys2Proof.Machine

/-- Refutes O57: its clause on a REGION-CREATE's reply speaks of every answer, and one with status 256 breaks it. -/
theorem not_hostMessages : ¬ Obligations.HostMessages := by
  intro h
  obtain ⟨-, hserved⟩ := h HostMessages.regions HostMessages.create
  obtain ⟨-, -, hnested, -⟩ := hserved fun fn _ => HostMessages.fnAway_regions fn
  obtain ⟨-, hbase⟩ := hnested 1 { level := 1 } 2 rfl rfl (by decide) rfl (by decide) (by decide) HostMessages.find_free
  have hwide := (HostMessages.base_reply_wide rfl rfl).symm.trans (hbase rfl { status := 256 })
  omega

end Sys2Proof
end

section
/-! PROOF. Leases, pages, migration and ordered atomics, O52: slice traffic leaves all but the slices and the controllers, so
that a migration's step may be read off the state before its walk; then each event by the branch it takes. -/

namespace Sys2Proof.Machine

/-! ## What slice traffic leaves (R337) -/

/-- The state with the slices and the controllers left out. -/
def State.sansSlices (s : State) : State := { s with dies := [], hbm := [], badLines := [] }

section
variable {s t u : State}

theorem ite_sansSlices {c : Prop} [Decidable c] (ht : t.sansSlices = s.sansSlices) (hu : u.sansSlices = s.sansSlices) :
    (if c then t else u).sansSlices = s.sansSlices := by split <;> assumption

theorem foldl_sansSlices {α : Type} {f : State → α → State} (hf : ∀ s a, (f s a).sansSlices = s.sansSlices)
    (l : List α) (s : State) : (l.foldl f s).sansSlices = s.sansSlices :=
  List.foldlRecOn (motive := fun t : State => t.sansSlices = s.sansSlices) l f rfl fun _ h _ _ => (hf ..).trans h

theorem modDie_sansSlices (s : State) (d : Nat) (f : Die → Die) : (s.modDie d f).sansSlices = s.sansSlices := rfl

theorem l2Evict_sansSlices (s : State) (d : Nat) (l : L2Line) : (s.l2Evict d l).sansSlices = s.sansSlices :=
  ite_sansSlices rfl (ite_sansSlices rfl rfl)

theorem l2Alloc_sansSlices {region line : Nat} {hint : Hint} {valid dirty : BitVec 128}
    (h : s.l2Alloc region hint line valid dirty = some t) : t.sansSlices = s.sansSlices := by
  unfold State.l2Alloc at h
  extract_lets d cos mates free own ways ok keep w s1 s2 at h
  have hevicted : s1.sansSlices = s.sansSlices := by
    unfold s1
    split
    · exact l2Evict_sansSlices ..
    · rfl
  split at h
  · cases h
  · cases h
    exact (modDie_sansSlices ..).trans ((modDie_sansSlices ..).trans hevicted)

theorem sliceRead_sansSlices (s : State) (region : Nat) (hint : Hint) (line : Nat) (mask : BitVec 128) :
    (s.sliceRead region hint line mask).sansSlices = s.sansSlices := by
  unfold State.sliceRead
  extract_lets pa d
  refine ite_sansSlices rfl ?_
  split
  · exact ite_sansSlices rfl (ite_sansSlices rfl rfl)
  · refine ite_sansSlices rfl ?_
    cases ha : State.l2Alloc _ region hint line (BitVec.allOnes 128) 0 with
    | none => rfl
    | some t => exact (l2Alloc_sansSlices ha).trans rfl

theorem sliceWrite_sansSlices (s : State) (region : Nat) (hint : Hint) (line : Nat) (mask : BitVec 128) :
    (s.sliceWrite region hint line mask).sansSlices = s.sansSlices := by
  unfold State.sliceWrite
  extract_lets pa d direct
  have hdirect : (direct s).sansSlices = s.sansSlices := ite_sansSlices rfl rfl
  refine ite_sansSlices rfl ?_
  split
  · rfl
  · refine ite_sansSlices hdirect ?_
    split
    · next ha => exact l2Alloc_sansSlices ha
    · exact hdirect

theorem readHome_sansSlices (s : State) (region : Nat) (hint : Hint) (pa n : Nat) :
    (s.readHome region hint pa n).1.sansSlices = s.sansSlices := foldl_sansSlices (fun _ _ => sliceRead_sansSlices ..) _ s

theorem walkReads_sansSlices (s : State) (region asid va : Nat) : (s.walkReads region asid va).sansSlices = s.sansSlices :=
  foldl_sansSlices (fun _ _ => sliceRead_sansSlices ..) _ s

theorem homeByte_of_sansSlices (h : t.sansSlices = s.sansSlices) (a : Nat) : t.homeByte a = s.homeByte a :=
  (congrArg (fun u : State => u.homeByte a) h :)
theorem memWf_of_sansSlices (h : t.sansSlices = s.sansSlices) (hs : s.MemWf) : t.MemWf :=
  ((congrArg State.MemWf h :) : t.MemWf = s.MemWf).mpr hs
theorem rawLeaf_of_sansSlices (h : t.sansSlices = s.sansSlices) (a : Nat) : t.rawLeaf a = s.rawLeaf a :=
  (congrArg (fun u : State => u.rawLeaf a) h :)
theorem seg_of_sansSlices (h : t.sansSlices = s.sansSlices) (asid va : Nat) : t.seg asid va = s.seg asid va :=
  (congrArg (fun u : State => u.seg asid va) h :)
theorem spaceOwner_of_sansSlices (h : t.sansSlices = s.sansSlices) (asid : Nat) : t.spaceOwner asid = s.spaceOwner asid :=
  (congrArg (fun u : State => u.spaceOwner asid) h :)

/-- A write at a home leaves every other byte of the machine. -/
theorem homeByte_writeHome_other {region : Nat} {hint : Hint} {pa a : Nat} {l : List Byte} (h : s.MemWf)
    (ha : a < pa ∨ pa + l.length ≤ a) : (s.writeHome region hint pa l).homeByte a = s.homeByte a := by
  have hslices :=
      foldl_sansSlices (fun s (p : Nat × Nat × Nat) => sliceWrite_sansSlices s region hint p.1 (lineMask p.2.1 p.2.2))
    (lineParts pa l.length) s
  exact (homeWrite_other l (memWf_of_sansSlices hslices h) ha).trans (homeByte_of_sansSlices hslices a)

end

/-! ## Grants and pages (R388, R451) -/

section
variable {s t u : State} {k q : Nat} {p : PageReq} {x : Word}

theorem exec_leaseGrant_ok {g : Grant} (hk : s.grantsF3[k]? = some g) (hhas : (s.nal 3).has (.grant g.id) = true)
    (h3 : s.fnAway 3 = false) (hform : s.grantMalformed (s.asidOf g.launch.region) g.launch.ents = false)
    (hroom : s.leaseRoom g.launch.region = true)
    (hpins : s.grantStretches g.id (s.asidOf g.launch.region) g.launch.stretches = (u, .ok))
    (hneed : tileNeed g.launch.ents ≤ tilePool)
    (hpool : ((u.leases.flatMap (·.tensors)).map fun t => t.tiles.length).sum + tileNeed g.launch.ents ≤ tilePool) :
    exec (.leaseGrant k) s = .next (u.makeLease g) := by
  change execLeaseGrant k s = _
  simp only [execLeaseGrant, hk, hhas, h3, hform, hroom, hpins]
  exact congrArg Host.Outcome.next ((if_neg (by simp)).trans ((if_neg (by simp)).trans ((if_neg (by simp)).trans
    ((if_neg (Nat.not_lt.mpr hneed)).trans (if_neg (Nat.not_lt.mpr hpool))))))

variable (hk : s.pageReqs[k]? = some p) (h3 : s.fnAway 3 = false)
include hk h3

theorem exec_pagereq_own_maps (hq : p.queue = none)
    (hmap : ({ s with pageReqs := s.pageReqs.eraseIdx k } : State).mapPage p.asid p.va x = some t) :
    exec (.pagereq k (some x)) s = .next t := by
  have hasked : s.askedOf p = true := by simp [State.askedOf, hq]
  change execPagereq k (some x) s = _
  simp only [execPagereq, hk, hasked, h3, State.answerPage, hq, dropNth, hmap]
  rfl

theorem exec_pagereq_own_denies (hq : p.queue = none) {id : Nat} (hg : p.grant = some id) :
    exec (.pagereq k none) s = .next { s with
      pageReqs := s.pageReqs.eraseIdx k
      grantsF3 := s.grantsF3.map fun g => if g.id = id then { g with denied := some p.va } else g } := by
  have hasked : s.askedOf p = true := by simp [State.askedOf, hq]
  change execPagereq k none s = _
  simp only [execPagereq, hk, hasked, h3, State.answerPage, hq, dropNth, hg]
  rfl

variable (hq : p.queue = some q) (hhas : (s.nal 3).has (.page q p.va) = true)
include hq hhas

theorem exec_pagereq_queue_maps
    (hmap : (({ s with pageReqs := s.pageReqs.eraseIdx k } : State).modNal 3 fun n => n.retire (.page q p.va)).mapPage
      p.asid p.va x = some t) :
    exec (.pagereq k (some x)) s =
      .next (t.modQueue q fun y => if y.st = .fetchWait then { y with st := .active } else y) := by
  have hasked : s.askedOf p = true := by simp [State.askedOf, hq, hhas]
  change execPagereq k (some x) s = _
  simp only [execPagereq, hk, hasked, h3, State.answerPage, hq, dropNth, hmap]
  rfl

theorem exec_pagereq_queue_denies : exec (.pagereq k none) s = .next
    ((({ s with pageReqs := s.pageReqs.eraseIdx k } : State).modNal 3 fun n => n.retire (.page q p.va)).stopQueue q 1) := by
  have hasked : s.askedOf p = true := by simp [State.askedOf, hq, hhas]
  change execPagereq k none s = _
  simp only [execPagereq, hk, hasked, h3, State.answerPage, hq, dropNth]
  rfl

end

/-! ## Migration (R397) -/

section
variable {s : State} {asid va frame a : Nat} (hpage : va % 2 ^ (s.seg asid va).plog = 0)
include hpage

theorem page_of_aligned : va / 2 ^ (s.seg asid va).plog * 2 ^ (s.seg asid va).plog = va :=
  Nat.div_mul_cancel (Nat.dvd_of_mod_eq_zero hpage)

variable (h3 : s.fnAway 3 = false)
include h3

/-- A withdrawn page is no longer pending, and its owner is told. -/
theorem exec_migfail_pinned (hm : (⟨asid, va, frame, .marked⟩ : Migration) ∈ s.migrations)
    (hpin : s.pinned asid va = true) : exec (.migfail asid va) s = .next ((s.endMigration asid va).post
      (s.spaceOwner asid) ev.migfail (Seg.sizeCode (s.rafEntry asid va)) 0 (va + asid * 2 ^ 64)) := by
  have hany : (s.migrations.any fun m => m.asid = asid && m.va = va && m.step = .marked) = true :=
    List.any_eq_true.mpr ⟨_, hm, by simp⟩
  change execMigfail asid va s = _
  simp only [execMigfail, page_of_aligned hpage, h3, hany, hpin]
  rfl

variable (hleaf : s.leafAddr asid va = some a)
include hleaf

theorem exec_migration_begins (hnew : s.migrations.find? (fun m => m.asid = asid && m.va = va) = none)
    (htype : (s.seg asid va).mtype ≠ 1) (hplog : (s.seg asid va).plog ≠ 0) (hframe : frame % 2 ^ (s.seg asid va).plog = 0)
    (hfits : typeFits (s.seg asid va).mtype frame = true) (hvalid : pteValid (s.rawLeaf a) (s.seg asid va).plog 0 = true) :
    exec (.migration asid va frame) s =
      .next { s with migrations := s.migrations ++ [⟨asid, va, frame, .marked⟩] } := by
  change execMigration asid va frame s = _
  simp only [execMigration, page_of_aligned hpage, h3, hleaf, hnew]
  refine congrArg Host.Outcome.next ((if_neg Bool.false_ne_true).trans (if_neg ?_))
  simp [htype, hplog, hframe, hfits, hvalid]

theorem exec_migration_goes {m : Migration} (hm : s.migrations.find? (fun m => m.asid = asid && m.va = va) = some m) :
    exec (.migration asid va frame) s = .next ((s.walkReads (s.spaceOwner asid) asid va).migrateStep m a) := by
  change execMigration asid va frame s = _
  simp only [execMigration, page_of_aligned hpage, h3, hleaf, hm]
  rfl

end

section
variable {s : State} {asid va frame a : Nat}

/-- The step that page `va` of space `asid` has reached. -/
def migrationsAt (asid va : Nat) (n : MigStep) (l : List Migration) : List Migration :=
  l.map fun y => if y.asid = asid ∧ y.va = va then { y with step := n } else y

theorem migrateStep_pinned (h : s.pinned asid va = true) : s.migrateStep ⟨asid, va, frame, .marked⟩ a = s := if_pos h

variable {x : Word} {owner : Nat} (hx : s.rawLeaf a = x) (howner : s.spaceOwner asid = owner)
include hx howner

theorem migrateStep_marked (h : s.pinned asid va = false) :
    let u := (s.writeHome owner .normal a (bytesOf 8 (x ||| 0x10).toNat)).performInvl asid false va 1
    s.migrateStep ⟨asid, va, frame, .marked⟩ a = { u with migrations := migrationsAt asid va .closed u.migrations } := by
  subst hx howner
  exact if_neg (ne_true_of_eq_false h)

theorem migrateStep_closed {n : Nat} {u : State} {b : List Byte} (hn : 2 ^ (s.seg asid va).plog = n)
    (h : s.invlBusy asid false va 1 = false) (hread : s.readHome owner .normal (pteFrame x) n = (u, b)) :
    let w := ((u.forgetUnder frame n).writeHome owner .normal frame b).moveUnder (pteFrame x) frame n
    s.migrateStep ⟨asid, va, frame, .closed⟩ a = { w with migrations := migrationsAt asid va .copied w.migrations } := by
  subst hx howner hn
  obtain ⟨rfl, rfl⟩ := Prod.mk.inj hread
  exact if_neg (ne_true_of_eq_false h)

theorem migrateStep_copied : s.migrateStep ⟨asid, va, frame, .copied⟩ a =
    (s.writeHome owner .normal a (bytesOf 8 ((x &&& ~~~0x10).toNat - pteFrame x + frame))).endMigration asid va := by
  subst hx howner
  rfl

end

/-! ## Ordered atomics at their home (R343, R372, R373) -/

section
variable {s : State} {q : OrdReq} {r : Reduction}

/-- A contribution whose ticket is the next one of the only word of the only reduction is applied. -/
theorem admitOrdered_next (hred : s.reductions = [r]) (hw : r.words = [q.pa]) (hfp : r.fp = q.fp) (hbuf : r.buf = [])
    (hnext : r.next = [q.t]) (hin : (q.t + 2 ^ 16 - r.tfirst) % 2 ^ 16 < r.tcount) :
    s.admitOrdered q = ({ s.applyOrdered q.fp q.region q.pa q.v with
      reductions := [{ r with next := [(q.t + 1) % 2 ^ 16] }] }, .done) := by
  have hkept : (s.applyOrdered q.fp q.region q.pa q.v).reductions = [r] :=
    (congrArg State.reductions (homeUpdate_sansMemory s q.region q.pa _ _) :).trans hred
  have hput : ((s.applyOrdered q.fp q.region q.pa q.v).reductions.map fun x =>
      if x.desc = r.desc then { r with next := [(q.t + 1) % 2 ^ 16] } else x) = [{ r with next := [(q.t + 1) % 2 ^ 16] }] := by
    rw [hkept]
    simp
  have hfind : [r].find? (fun r => r.words.contains q.pa) = some r := by simp [hw]
  have hword : r.words.findIdx (fun x => decide (x = q.pa)) = 0 := by simp [hw]
  have hturn : (q.t + 2 ^ 16 - q.t) % 2 ^ 16 = 0 := by rw [Nat.add_sub_cancel_left, Nat.mod_self]
  have hlast : r.buf.length = 0 := by rw [hbuf, List.length_nil]
  unfold State.admitOrdered
  simp only [hred, hfind, hword, hnext, List.getD_cons_zero, hturn, hlast]
  refine (if_neg (by simp [hfp])).trans ((if_neg (Nat.not_le.mpr hin)).trans ((if_neg (by simp [hbuf])).trans
    ((if_pos trivial).trans ?_)))
  exact congrArg (fun l => ({ s.applyOrdered q.fp q.region q.pa q.v with reductions := l }, OrdAnswer.done)) hput

theorem exec_orderedAtomicArrival_next {k : Nat} (hk : s.ordNet[k]? = some q) (hfirst : s.ordFirst k q = true)
    (hred : s.reductions = [r]) (hw : r.words = [q.pa]) (hfp : r.fp = q.fp) (hbuf : r.buf = []) (hnext : r.next = [q.t])
    (hin : (q.t + 2 ^ 16 - r.tfirst) % 2 ^ 16 < r.tcount) :
    exec (.orderedAtomicArrival k) s = .next
      { ({ s with ordNet := s.ordNet.eraseIdx k } : State).applyOrdered q.fp q.region q.pa q.v with
        reductions := [{ r with next := [(q.t + 1) % 2 ^ 16] }] } := by
  have hadmit := admitOrdered_next (s := { s with ordNet := s.ordNet.eraseIdx k }) (q := q) hred hw hfp hbuf hnext hin
  change execOrderedAtomicArrival k s = _
  simp only [execOrderedAtomicArrival, hk, hfirst, dropNth, hadmit]
  rfl

/-- The word of an ordered add holds the sum, cut to its size. -/
theorem homeNat_applyOrdered {fp : Bool} {region pa n : Nat} {v : Word} (hn : n = if fp then 4 else 8)
    (hwf : Memory.wf s.mem) (hpa : pa + n ≤ 0x80_0000_0000) (hu : ∀ i, i < n → s.holdsUnder (pa + i) = false) :
    (s.applyOrdered fp region pa v).homeNat pa n =
      ((if fp then AtOp.fadd else .add).apply (BitVec.ofNat 64 (s.homeNat pa n)) v 0).toNat % 2 ^ (8 * n) := by
  have hbytes : (if fp then AtOp.fadd else .add).bytes = n := by cases fp <;> exact hn.symm
  subst hbytes
  have hread := readHome_stored s region .normal pa (if fp then AtOp.fadd else .add).bytes
  have hmem : _ = s.mem := congrArg Prod.fst hread
  exact homeNat_writeHome ((congrArg Memory.wf hmem).mpr hwf) (fun i hi => paKind_hbm (by omega)) fun i hi =>
    (holdsUnder_of_stored hread _).trans (hu i hi)

theorem homeByte_applyOrdered_other {fp : Bool} {region pa n a : Nat} {v : Word} (hn : n = if fp then 4 else 8)
    (hwf : s.MemWf) (ha : a < pa ∨ pa + n ≤ a) : (s.applyOrdered fp region pa v).homeByte a = s.homeByte a := by
  have hbytes : (if fp then AtOp.fadd else .add).bytes = n := by cases fp <;> exact hn.symm
  subst hbytes
  have hread := readHome_sansSlices s region .normal pa (if fp then AtOp.fadd else .add).bytes
  refine (homeByte_writeHome_other (memWf_of_sansSlices hread hwf) ?_).trans (homeByte_of_sansSlices hread a)
  rwa [length_bytesOf]

theorem exec_orderedRetry_sends {c k : Nat} (hk : (s.ctx c).retry[k]? = some q) : exec (.orderedRetry c k) s = .next { s with
    ctxs := Tab.set {} s.ctxs c { s.ctx c with retry := (s.ctx c).retry.eraseIdx k }
    ordNet := s.ordNet ++ [{ q with src := coreOf c }] } := by
  change execOrderedRetry c k s = _
  simp only [execOrderedRetry, hk]
  rfl

end

end Sys2Proof.Machine

namespace Sys2Proof

open Sys2Proof.Machine

/-- Settles O52: a grant, F3's answers, the steps of a migration read off the state before its walk, its withdrawal, and the
two ends of an ordered atomic's way. -/
theorem leasesPagesAndOrderedAdds : Obligations.LeasesPagesAndOrderedAdds := by
  refine ⟨fun s u k g => exec_leaseGrant_ok,
    fun s t k id p x hk hq h3 => ⟨exec_pagereq_own_maps hk h3 hq, exec_pagereq_own_denies hk h3 hq⟩,
    fun s t k q p x hk hq hhas h3 => ⟨exec_pagereq_queue_maps hk h3 hq hhas, exec_pagereq_queue_denies hk h3 hq hhas⟩,
    fun s asid va frame a hpage hleaf h3 => ⟨fun hnew htype hplog hframe hfits hvalid =>
      exec_migration_begins hpage h3 hleaf hnew htype hplog hframe hfits hvalid, fun step hm => ?steps⟩,
    fun s asid va frame a hpage hm hpin _ h3 => exec_migfail_pinned hpage h3 hm hpin,
    fun s k q r hs hk hfirst hred hw hfp hbuf hnext _ hin _ =>
      ⟨_, exec_orderedAtomicArrival_next hk hfirst hred hw hfp hbuf hnext hin, rfl, ?ordNet, ?ctxs, ?word, ?others⟩,
    fun s c k q => exec_orderedRetry_sends⟩
  case steps =>
    have hgoes := exec_migration_goes (frame := frame) hpage h3 hleaf hm
    have hwalk := walkReads_sansSlices s (s.spaceOwner asid) asid va
    have hleaf' := rawLeaf_of_sansSlices hwalk a
    have howner := spaceOwner_of_sansSlices hwalk asid
    have hseg := seg_of_sansSlices hwalk asid va
    refine ⟨?pinned, ?marked, ?closed, ?copied⟩
    case pinned =>
      rintro rfl hpin
      exact hgoes.trans (congrArg _ (migrateStep_pinned hpin))
    case marked =>
      rintro rfl hpin u rfl
      exact hgoes.trans (congrArg _ (migrateStep_marked hleaf' howner hpin))
    case closed =>
      rintro rfl hbusy u b w hread rfl
      exact hgoes.trans (congrArg _ (migrateStep_closed hleaf' howner (by rw [hseg]) hbusy hread))
    case copied =>
      rintro rfl u rfl
      exact hgoes.trans (congrArg _ (migrateStep_copied hleaf' howner))
  case ordNet => exact (congrArg State.ordNet (homeUpdate_sansMemory ..) :)
  case ctxs => exact (congrArg State.ctxs (homeUpdate_sansMemory ..) :)
  case word => exact fun hpa hu => homeNat_applyOrdered rfl hs.mem hpa hu
  case others => exact fun a ha => homeByte_applyOrdered_other rfl ⟨hs.mem, hs.host⟩ ha

end Sys2Proof
end

section
/-! PROOF. Scalar results, O1 to O6: each shape of the S slot sends its value on its way, and the values of Tables 3.4 to
3.6, of MOVHI and of PLOG are those that the statements write out. -/

namespace Sys2Proof

theorem testBit_packN_one (n : Nat) (f : Nat → Nat) (i : Nat) :
    (packN 1 (tabulate n f)).testBit i = (decide (i < n) && (f i).testBit 0) := by
  by_cases hi : i < n
  · have he : packN 1 (tabulate n f) / 2 ^ i % 2 = f i % 2 := by
      simpa [eltN] using eltN_packN_tabulate 1 n f hi
    rw [Nat.testBit_eq_decide_div_mod_eq, he, Nat.testBit_zero, decide_eq_true hi, Bool.true_and]
  · have hlt : packN 1 (tabulate n f) < 2 ^ n := by simpa using packN_tabulate_lt 1 n f
    simp [hi, Nat.testBit_lt_two_pow (hlt.trans_le (Nat.pow_le_pow_right Nat.two_pos (Nat.le_of_not_lt hi)))]

end Sys2Proof

namespace Sys2Proof.Machine

/-! ## Values of Tables 3.4 and 3.5 -/

theorem toNat_mod_64 (y : Word) : y.toNat % 64 = (y &&& 63).toNat := (Nat.and_two_pow_sub_one_eq_mod y.toNat 6).symm

theorem ofInt_div_eq_extractLsb' (z : Int) :
    BitVec.ofInt 64 (z / 2 ^ 64) = (BitVec.ofInt 128 z).extractLsb' 64 64 := by
  apply BitVec.eq_of_toNat_eq
  simp only [BitVec.extractLsb'_toNat, BitVec.toNat_ofInt, Nat.shiftRight_eq_div_pow]
  omega

theorem mulh_eq_extractLsb' (x y : Word) :
    BitVec.ofInt 64 (x.toInt * y.toInt / 2 ^ 64) = (x.signExtend 128 * y.signExtend 128).extractLsb' 64 64 := by
  rw [ofInt_div_eq_extractLsb', BitVec.ofInt_mul]
  rfl

theorem mulhN_eq_extractLsb' (x y : Word) :
    BitVec.ofNat 64 (x.toNat * y.toNat / 2 ^ 64) = (x.setWidth 128 * y.setWidth 128).extractLsb' 64 64 := by
  apply BitVec.eq_of_toNat_eq
  have hlt : x.toNat * y.toNat < 2 ^ 64 * 2 ^ 64 := Nat.mul_lt_mul'' x.isLt y.isLt
  simp [BitVec.extractLsb'_toNat, Nat.shiftRight_eq_div_pow]
  omega

theorem smin_eq (x y : Word) : (if x.toInt ≤ y.toInt then x else y) = if y.slt x then y else x := by
  simp only [BitVec.slt_eq_decide, decide_eq_true_eq, ← not_lt, ite_not]

/-- Of two words that are the same as signed it is no matter which one is taken. -/
theorem smax_eq (x y : Word) : (if x.toInt ≤ y.toInt then y else x) = if x.slt y then y else x := by
  simp only [BitVec.slt_eq_decide, decide_eq_true_eq]
  rcases lt_trichotomy x.toInt y.toInt with h | h | h
  · rw [if_pos h.le, if_pos h]
  · rw [if_pos h.le, if_neg h.not_lt, BitVec.toInt_inj.mp h]
  · rw [if_neg h.not_ge, if_neg h.not_gt]

theorem getLsbD_halfwordMask (n : Nat) {i : Nat} (hi : i < 64) :
    (BitVec.ofNat 64 (0xFFFF <<< n)).getLsbD i = decide (n ≤ i ∧ i < n + 16) := by
  have hones : 0xFFFF = 2 ^ 16 - 1 := rfl
  rw [BitVec.getLsbD_ofNat, hones, Nat.testBit_shiftLeft, Nat.testBit_two_pow_sub_one, Bool.eq_iff_iff]
  simp only [Bool.and_eq_true, decide_eq_true_eq]
  omega

/-- MOVHI replaces the 16 bits from bit `n` on (R86). -/
theorem getLsbD_mergeBits_halfword (x : Word) (h : BitVec 16) (n : Nat) {i : Nat} (hi : i < 64) :
    (mergeBits x (h.setWidth 64 <<< n) (BitVec.ofNat 64 (0xFFFF <<< n))).getLsbD i =
      if n ≤ i ∧ i < n + 16 then h.getLsbD (i - n) else x.getLsbD i := by
  rw [mergeBits, BitVec.getLsbD_or, BitVec.getLsbD_and, BitVec.getLsbD_and, BitVec.getLsbD_not,
    getLsbD_halfwordMask n hi, BitVec.getLsbD_shiftLeft, BitVec.getLsbD_setWidth]
  by_cases hn : n ≤ i ∧ i < n + 16
  · simp [hn, hi, Nat.not_lt.mpr hn.1, show i - n < 64 by omega]
  · simp [hn, hi]

/-! ## Shapes of the S slot -/

section
variable {s : State} {i : Instr} {d : Dst} {a b : Src} {x y v : Word}

theorem slot_intRR {left : Nat} {f : Word → Word → Word} (h : s.Acts i) (hx : s.srcS a = .ok x) (hy : s.srcS b = .ok y)
    (hv : f x y = v) (hsp : s.SpOk d v) :
    s.slot i (s.intRR d a b left f) = .next (s.withFlight (resultS 0 d left v)) := by
  subst hv
  exact slot_bind h hx (by simp only [hy, checkSp_ok hsp, bind, Except.bind]; rfl)

theorem slot_intRI {f : Word → Word} (h : s.Acts i) (hx : s.srcS a = .ok x) (hv : f x = v) (hsp : s.SpOk d v) :
    s.slot i (s.intRI d a f) = .next (s.withFlight (resultS 0 d 1 v)) := by
  subst hv
  exact slot_bind h hx (by simp only [checkSp_ok hsp, bind, Except.bind]; rfl)

variable {m : BitVec 6} {p : Bool}

theorem slot_cmpRR {f : Word → Word → Bool} (h : s.Acts i) (hx : s.srcS a = .ok x) (hy : s.srcS b = .ok y)
    (hp : f x y = p) : s.slot i (s.cmpRR m a b f) = .next (s.withFlight ⟨1, [.c (m.toNat % 8) p], none, 0⟩) := by
  subst hp
  exact slot_bind h hx (by rw [hy]; rfl)

theorem slot_cmpRI {f : Word → Bool} (h : s.Acts i) (hx : s.srcS a = .ok x) (hp : f x = p) :
    s.slot i (s.cmpRI m a f) = .next (s.withFlight ⟨1, [.c (m.toNat % 8) p], none, 0⟩) := by
  subst hp
  exact slot_bind h hx rfl

theorem slot_fpRR {left : Nat} (f : Nat → Nat → Nat × Word) (h : s.Acts i) (hx : s.srcS a oneF32 = .ok x)
    (hy : s.srcS b oneF32 = .ok y) : s.slot i (s.fpRR d a b left f) = .next (s.withFlight (resultS 0 d left
      (BitVec.ofNat 64 (f (x.toNat % 2 ^ 32) (y.toNat % 2 ^ 32)).1) (f (x.toNat % 2 ^ 32) (y.toNat % 2 ^ 32)).2)) :=
  slot_bind h hx (by rw [hy]; rfl)

theorem slot_fpCmp (r : Rel) (h : s.Acts i) (hx : s.srcS a oneF32 = .ok x) (hy : s.srcS b oneF32 = .ok y) :
    let c := Fmt.f32.compare r (x.toNat % 2 ^ 32) (y.toNat % 2 ^ 32)
    s.slot i (s.fpCmp m a b r) = .next (s.withFlight ⟨1, [.c (m.toNat % 8) c.1], none, c.2⟩) :=
  slot_bind h hx (by rw [hy]; rfl)

end

/-! ## PLOG (R89) -/

section
variable {s : State} {i : Instr} {d a b : BitVec 4} {f : BitVec 128 → BitVec 128 → BitVec 128}
  {g : Bool → Bool → Bool}

/-- `f` computes `g` on each bit of its operands. -/
def IsBitwise (f : BitVec 128 → BitVec 128 → BitVec 128) (g : Bool → Bool → Bool) : Prop :=
  ∀ u v : BitVec 128, ∀ k, k < 128 → (f u v).getLsbD k = g (u.getLsbD k) (v.getLsbD k)

theorem isBitwise_and : IsBitwise (· &&& ·) (· && ·) := fun _ _ _ _ => BitVec.getLsbD_and
theorem isBitwise_or : IsBitwise (· ||| ·) (· || ·) := fun _ _ _ _ => BitVec.getLsbD_or
theorem isBitwise_xor : IsBitwise (· ^^^ ·) (· ^^ ·) := fun _ _ _ _ => BitVec.getLsbD_xor
theorem isBitwise_andNot : IsBitwise (fun u v => u &&& ~~~v) (fun p q => p && !q) := fun u v k hk => by simp [hk]
theorem isBitwise_not : IsBitwise (fun u _ => ~~~u) (fun p _ => !p) := fun u v k hk => by simp [hk]

theorem slot_plog_flags (hf : IsBitwise f g) (h : s.Acts i) : s.slot i (.ok (s.plog false d a b f)) =
    .next (s.withFlight ⟨1, [.c d.toNat (g (s.cflag a.toNat) (s.cflag b.toNat))], none, 0⟩) := by
  have hbit (p : Bool) : (if p then (1 : BitVec 128) else 0).getLsbD 0 = p := by cases p <;> rfl
  refine (slot_ok h).trans ?_
  simp only [State.plog, Bool.false_eq_true, if_false, hf _ _ 0 (by decide), hbit]
  rfl

theorem slot_plog_masks (hf : IsBitwise f g) {v : BitVec 128}
    (hv : ∀ k, k < 128 → v.getLsbD k = g ((s.mreg a.toNat).getLsbD k) ((s.mreg b.toNat).getLsbD k)) (h : s.Acts i) :
    s.slot i (.ok (s.plog true d a b f)) = .next (s.withFlight ⟨1, [.m d.toNat v (BitVec.allOnes 128)], none, 0⟩) := by
  have hval : f (s.mreg a.toNat) (s.mreg b.toNat) = v :=
    BitVec.eq_of_getLsbD_eq fun k hk => (hf _ _ k hk).trans (hv k hk).symm
  subst hval
  exact slot_ok h

end

/-! ## Flags packed (R104) -/

theorem getLsbD_packFlags (a : Arch) (i : Nat) :
    a.packFlags.getLsbD i = (decide (i < 8) && Tab.get false a.c i) := by
  have hbit (p : Bool) : p.toNat.testBit 0 = p := by cases p <;> rfl
  refine (BitVec.getLsbD_ofNat 64 _ i).trans ?_
  rw [show (List.range 8).map _ = tabulate 8 fun k => (Tab.get false a.c k).toNat from rfl, testBit_packN_one, hbit]
  by_cases hi : i < 8
  · rw [decide_eq_true (show i < 64 by omega), Bool.true_and]
  · rw [decide_eq_false hi, Bool.false_and, Bool.and_false]

end Sys2Proof.Machine

namespace Sys2Proof

open Sys2Proof.Machine

/-- Settles O1: each operation of Tables 3.4 and 3.5 by its value. -/
theorem integerRegisterForms : Obligations.IntegerRegisterForms := by
  refine ⟨fun f hf s d a b x y h hx hy hsp => ?_, fun s d a b cf x y h hx hy hsp => slot_intRR h hx hy rfl hsp⟩
  simp only [Claim.intRR, List.mem_cons, List.not_mem_nil, or_false] at hf
  rcases hf with rfl | rfl | rfl | rfl | rfl | rfl | rfl | rfl | rfl | rfl | rfl | rfl | rfl
  · exact slot_intRR h hx hy rfl hsp
  · exact slot_intRR h hx hy rfl hsp
  · exact slot_intRR h hx hy rfl hsp
  · exact slot_intRR h hx hy rfl hsp
  · exact slot_intRR h hx hy rfl hsp
  · exact slot_intRR h hx hy (congrArg (x <<< ·) (toNat_mod_64 y)) hsp
  · exact slot_intRR h hx hy (congrArg (x >>> ·) (toNat_mod_64 y)) hsp
  · exact slot_intRR h hx hy (congrArg x.sshiftRight (toNat_mod_64 y)) hsp
  · exact slot_intRR h hx hy rfl hsp
  · exact slot_intRR h hx hy (mulh_eq_extractLsb' x y) hsp
  · exact slot_intRR h hx hy (mulhN_eq_extractLsb' x y) hsp
  · exact slot_intRR h hx hy (smin_eq x y) hsp
  · exact slot_intRR h hx hy (smax_eq x y) hsp

/-- Settles O2, an instruction at a time. -/
theorem integerImmediateForms : Obligations.IntegerImmediateForms := by
  refine fun s d a imm k h j x hx => ⟨fun ha => slot_intRI ha hx rfl, fun ha => slot_intRI ha hx rfl,
    fun ha => slot_intRI ha hx rfl, fun ha => slot_intRI ha hx rfl, fun ha => slot_intRI ha hx rfl,
    fun ha => slot_intRI ha hx rfl, fun ha => slot_intRI ha (a := .special .zero) rfl rfl, fun v hv ha => ?_⟩
  exact slot_intRI ha hx (BitVec.eq_of_getLsbD_eq fun i hi =>
    (getLsbD_mergeBits_halfword x h _ hi).trans (hv i hi).symm)

/-- Settles O3: each compare of Table 3.6 by the order that it tests. -/
theorem comparesWriteOneFlag : Obligations.ComparesWriteOneFlag := by
  refine ⟨fun f hf s d a b x y h hx hy => ?_, fun s d a imm x hx => ⟨fun h => slot_cmpRI h hx rfl,
    fun h => slot_cmpRI h hx ?_⟩⟩
  · simp only [Claim.compares, List.mem_cons, List.not_mem_nil, or_false] at hf
    rcases hf with rfl | rfl | rfl | rfl | rfl
    · exact slot_cmpRR h hx hy rfl
    · exact slot_cmpRR h hx hy (decide_not ..)
    · exact slot_cmpRR h hx hy rfl
    · exact slot_cmpRR h hx hy rfl
    · exact slot_cmpRR h hx hy rfl
  · rw [BitVec.slt_eq_decide, BitVec.toInt_signExtend_of_le (by decide)]

/-- Settles O4: each operation of Table 2.10 by the function that it computes on a bit. -/
theorem plogFlagsAndMasks : Obligations.PlogFlagsAndMasks := by
  refine ⟨fun f hf s d a b => ?_, fun s d a => ⟨slot_plog_flags isBitwise_not, 
    slot_plog_masks isBitwise_not fun k hk => isBitwise_not _ 0 k hk⟩⟩
  simp only [Claim.plogs, List.mem_cons, List.not_mem_nil, or_false] at hf
  rcases hf with rfl | rfl | rfl | rfl
  · exact ⟨slot_plog_flags isBitwise_and, fun _ => slot_plog_masks isBitwise_and⟩
  · exact ⟨slot_plog_flags isBitwise_or, fun _ => slot_plog_masks isBitwise_or⟩
  · exact ⟨slot_plog_flags isBitwise_xor, fun _ => slot_plog_masks isBitwise_xor⟩
  · exact ⟨slot_plog_flags isBitwise_andNot, fun _ => slot_plog_masks isBitwise_andNot⟩

/-- Settles O5, a shape of operation at a time. -/
theorem scalarFloatForms : Obligations.ScalarFloatForms := by
  refine ⟨fun f hf s d a b x y h hx hy => ?_, fun s n a b x y h hx hy => slot_fpRR _ h hx hy,
    fun s d a x h hx => slot_fpRR (fun u _ => Fmt.f32.fsqrt u) h hx (b := .special .zero) rfl,
    fun f hf s d a b x y h hx hy => ?_, fun s d a code x h hx => slot_bind h hx rfl⟩
  · simp only [Claim.scalarFp, List.mem_cons, List.not_mem_nil, or_false] at hf
    rcases hf with rfl | rfl | rfl | rfl <;> exact slot_fpRR _ h hx hy
  · simp only [List.mem_cons, List.not_mem_nil, or_false] at hf
    rcases hf with rfl | rfl | rfl <;> exact slot_fpCmp _ h hx hy

/-- Settles O6, an instruction at a time. -/
theorem controlRegisterForms : Obligations.ControlRegisterForms := by
  refine fun s d g a n imm x hx => ⟨slot_ok, fun h => slot_bind h hx rfl, fun h => slot_bind h hx rfl, fun v hv h => ?_,
    fun h => slot_bind h hx rfl, fun h => slot_bind h hx rfl⟩
  have hval : s.here.a.packFlags = v :=
    BitVec.eq_of_getLsbD_eq fun i _ => (getLsbD_packFlags _ i).trans (hv i).symm
  subst hval
  exact slot_ok h

end Sys2Proof
end

section
/-! PROOF. Control transfer, O7: what TRN, CALL, LOOP and LEND leave outside a delay position, where the context steers its
own fetch. -/

namespace Sys2Proof.Machine

section
variable {s : State}

/-- Two changes of a context's architectural state, neither of which leaves it as at reset, are one. -/
theorem modArch_modArch_of_ne {c : Nat} {f g : Arch → Arch} (hf : f (s.ctx c).a ≠ {}) (hg : g (f (s.ctx c).a) ≠ {}) :
    (s.modArch c f).modArch c g = s.modArch c fun a => g (f a) :=
  modCtx_modCtx_of_ne (fun h => hf (congrArg Ctx.a h)) (fun h => hg (congrArg Ctx.a h))

theorem ne_reset_of_flight {a : Arch} {l : List Land} {r : Land} (h : a.flight = l ++ [r]) : a ≠ {} := by
  rintro rfl
  simp at h

theorem ne_reset_of_loops {a : Arch} {l : List LoopLvl} {r : LoopLvl} (h : a.loops = r :: l) : a ≠ {} := by
  rintro rfl
  simp at h

/-- A never-nullified control transfer outside a delay position, where its operands can be read, delivers its effect. -/
theorem slot_control_ok {t : State} {i : Instr} {r : Res State} (hn : neverNull i = true) (hd : s.NoDelay)
    (hr : r = .ok t) : s.slot i (s.control r) = .next t := by
  rw [control_free hd, hr, slot_ok (acts_of_neverNull hn)]

theorem lo32_eq (x : Word) : lo32 x = (x.setWidth 32 : BitVec 32).toNat := (BitVec.toNat_setWidth 32 x).symm

variable (hd : s.NoDelay) (hown : (s.here.task.inEsp && !s.here.task.isLead) = false)
include hd hown

theorem exec_trn (flag : BitVec 3) (neg alw : Bool) (a : BitVec 6) :
    let taken := alw || (s.cflag flag.toNat != neg)
    exec (.trn flag neg alw a) s = .next { s with cur := { s.cur with
      control := true, steer := ⟨0, taken, s.breg a.toNat⟩
      transfer := if taken then some (s.breg a.toNat) else s.cur.transfer } } :=
  slot_control_ok rfl hd (by simp only [steered_own hown]; rfl)

variable {a : Src} {imm : BitVec 21} {x : Word}

theorem exec_call (hx : s.srcS a = .ok x) :
    let t := s.withFlight ⟨1, [.b 3 (s.succOf (s.succOf s.cur.succ))], none, 0⟩
    exec (.call a imm) s = .next { t with cur := { s.cur with
      control := true, steer := ⟨0, true, x + imm.signExtend 64⟩, transfer := some (x + imm.signExtend 64) } } :=
  slot_control_ok rfl hd (by simp only [hx, steered_own hown]; rfl)

variable {k : BitVec 6}

theorem exec_loop_zero (hx : s.srcS a = .ok x) (h0 : x.setWidth 32 = (0 : BitVec 32)) :
    exec (.loop k a imm) s = .next { s with cur := { s.cur with
      steer := ⟨0, false, s.pc + imm.signExtend 64⟩, jump := some (s.pc + imm.signExtend 64) } } := by
  have hcount : lo32 x = 0 := by rw [lo32_eq, h0]; rfl
  exact slot_control_ok rfl hd (by simp only [hx, steered_own hown, bind, Except.bind, hcount]; rfl)

theorem exec_loop_opens (hx : s.srcS a = .ok x) (h0 : x.setWidth 32 ≠ (0 : BitVec 32))
    (hlen : s.here.a.loops.length < 4) (hk : ∀ l ∈ s.here.a.loops, l.k ≠ k.toNat) :
    exec (.loop k a imm) s = .next { s with
      cur := { s.cur with steer := ⟨(x.setWidth 32 : BitVec 32).toNat, false, s.pc + imm.signExtend 64⟩ }
      ctxs := Tab.set {} s.ctxs s.cur.ctx { s.here with a := { s.here.a with
        loops := ⟨k.toNat, (x.setWidth 32 : BitVec 32).toNat, s.cur.succ⟩ :: s.here.a.loops
        ix := Tab.set 0 s.here.a.ix s.here.a.loops.length k.toNat
        flight := s.here.a.flight ++ [⟨1, [.i k.toNat 0], none, 0⟩] } } } := by
  have hcount : (x.setWidth 32 : BitVec 32).toNat ≠ 0 := fun h => h0 (BitVec.eq_of_toNat_eq h)
  have hroom : (decide (s.here.a.loops.length < 4) && !s.here.a.loops.any fun l => l.k = k.toNat) = true := by
    simpa [hlen] using hk
  refine slot_control_ok rfl hd ?_
  simp only [hx, steered_own hown, lo32_eq, bind, Except.bind, if_neg hcount, require_ok hroom]
  exact congrArg Except.ok (modArch_modArch_of_ne (s := s.modCur _) (ne_reset_of_loops rfl) (ne_reset_of_flight rfl))

theorem exec_lend {l : LoopLvl} {rest : List LoopLvl} (hl : s.here.a.loops = l :: rest) :
    let more := decide ((s.ireg l.k + 1).toNat < l.count)
    exec .lend s = .next { s with
      cur := { s.cur with steer := ⟨l.count, more, l.start⟩, jump := if more then some l.start else s.cur.jump }
      ctxs := Tab.set {} s.ctxs s.cur.ctx { s.here with a := { s.here.a with
        loops := if more then s.here.a.loops else rest
        flight := s.here.a.flight ++ [⟨1, [.i l.k (s.ireg l.k + 1)], none, 0⟩] } } } := by
  refine slot_control_ok rfl hd ?_
  rw [hl]
  simp only [steered_own hown]
  cases hm : decide ((s.ireg l.k + 1).toNat < l.count) with
  | true => rw [← hl]; rfl
  | false =>
    simp only [Bool.false_eq_true, if_false]
    exact congrArg Except.ok (modArch_modArch_of_ne (s := s.modCur _) (ne_reset_of_flight rfl) (ne_reset_of_flight rfl))

end

end Sys2Proof.Machine

namespace Sys2Proof

open Sys2Proof.Machine

/-- Settles O7, an instruction at a time. -/
theorem controlTransferForms : Obligations.ControlTransferForms := fun _ hd hown =>
  ⟨exec_trn hd hown, fun _ _ _ => exec_call hd hown, fun _ _ _ _ => exec_loop_zero hd hown,
    fun _ _ _ _ => exec_loop_opens hd hown, fun _ _ => exec_lend hd hown⟩

end Sys2Proof
end

section
/-! PROOF. Loads and stores, O10 to O12: an access of memory has its effect once its check passes, and raises the check's
fault where it does not. -/

namespace Sys2Proof

theorem bytesOf_eq_map (n : Nat) : ∀ x, bytesOf n x = (List.range n).map fun j => BitVec.ofNat 8 (x / 2 ^ (8 * j)) := by
  induction n with
  | zero => exact fun _ => rfl
  | succ n ih =>
    intro x
    have hdiv (j : Nat) : x / 256 / 2 ^ (8 * j) = x / 2 ^ (8 * (j + 1)) := by
      rw [Nat.div_div_eq_div_mul, Nat.mul_succ, Nat.add_comm, pow_add]
      rfl
    simp only [bytesOf, ih, hdiv, List.range_succ_eq_map, List.map_cons, List.map_map, Function.comp_def]
    simp

end Sys2Proof

namespace Sys2Proof.Machine

theorem maskedBytes_eq (n act v : Nat) : maskedBytes n act v =
    (List.range n).map fun j => if act.testBit j then some (BitVec.ofNat 8 (v / 2 ^ (8 * j))) else none := by
  have helt (j : Nat) : BitVec.ofNat 8 (eltN 8 v j) = BitVec.ofNat 8 (v / 2 ^ (8 * j)) :=
    BitVec.eq_of_toNat_eq (by simp [eltN])
  simp only [maskedBytes, helt, bitN]

/-- Instruction `i` has the effect `t` once the check `c` passes, and the fault of `c` where it does not. -/
def State.ActsAfter (s : State) (i : Instr) (c : Res Unit) (t : State) : Prop :=
  exec i s = s.slot i (c >>= fun _ => .ok t)

section
variable {s t : State} {i : Instr} {c : Res Unit} {va n : Nat} {need : Need} {nd : Bool} {a : Src}

theorem State.ActsAfter.next (h : s.ActsAfter i c t) (ha : s.Acts i) (hc : c = .ok ()) : exec i s = .next t := by
  subst hc
  exact h.trans (slot_ok ha)

theorem State.ActsAfter.raises (h : s.ActsAfter i c t) (ha : s.Acts i) {f : FaultRec} (hc : c = .error f) :
    Claim.Raises i s f := by
  subst hc
  exact h.trans (slot_fault ha)

/-! ## The checks of an access (R97, R99, R334) -/

theorem checkMem_unaligned (h : va % n ≠ 0) : s.checkMem va n n need nd false = .error (s.alignFault va n) := if_pos h

/-- Accesses are of fewer than 2^32 bytes, so that a LEASE record holds their length as it is (Table 9.5). -/
theorem checkMem_unleased (hn : n < 2 ^ 32) (hal : va % n = 0) (h : s.here.task.leased va n need = false) :
    s.checkMem va n n need nd false =
      .error (s.faultRec 0x03 0 (BitVec.ofNat 64 va) (BitVec.ofNat 64 (n + need.w.toNat * 2 ^ 32))) := by
  rw [State.checkMem, if_neg (not_not_intro hal), if_pos (by rw [h]; rfl), State.leaseFault, Nat.mod_eq_of_lt hn]

theorem checkMem_device (hal : va % n = 0) (hl : s.here.task.leased va n need = true) (hm : s.mtype va = 1) :
    s.checkMem va n n need true false = .error (s.alignFault va 0) := by simp [State.checkMem, hal, hl, hm]

theorem checkStack_ok (h : a = .reg 30 ∨ a = .reg 31 → (s.cr 2).toNat ≤ va) : s.checkStack a va = .ok () :=
  if_neg fun ⟨ha, hlt⟩ => absurd hlt (Nat.not_lt.mpr (h ha))

theorem checkStore_eq (hal : va % n = 0) (h : s.checkStack a va = .ok ()) :
    s.checkStore a va n = s.checkMem va n n .write false false := by
  simp [State.checkStore, hal, h, bind, Except.bind]

theorem checkStore_ok (hal : va % n = 0) (hs : a = .reg 30 ∨ a = .reg 31 → (s.cr 2).toNat ≤ va)
    (hl : s.here.task.leased va n .write = true) : s.checkStore a va n = .ok () :=
  (checkStore_eq hal (checkStack_ok hs)).trans (checkMem_ok hal hl nofun nofun)

theorem checkStore_unaligned (h : va % n ≠ 0) : s.checkStore a va n = .error (s.alignFault va n) := by
  simp [State.checkStore, h, bind, Except.bind]

theorem checkStore_below (hal : va % n = 0) (h : (a = .reg 30 ∨ a = .reg 31) ∧ va < (s.cr 2).toNat) :
    s.checkStore a va n = .error (s.stackFault 1 (BitVec.ofNat 64 va) (s.cr 2)) := by
  have hs : s.checkStack a va = .error (s.stackFault 1 (BitVec.ofNat 64 va) (s.cr 2)) := if_pos h
  simp [State.checkStore, hal, hs, bind, Except.bind]

theorem State.ActsAfter.next_of_checkMem (h : s.ActsAfter i (s.checkMem va n n need nd false) t) (ha : s.Acts i)
    (hal : va % n = 0) (hl : s.here.task.leased va n need = true) (hm : nd = true → s.mtype va ≠ 1) :
    exec i s = .next t :=
  h.next ha (checkMem_ok hal hl hm nofun)

theorem State.ActsAfter.badAccess (h : s.ActsAfter i (s.checkMem va n n need nd false) t) (hn : n < 2 ^ 32)
    (ha : s.Acts i) : Claim.BadAccess i s va n need false (!nd) := by
  refine ⟨fun hal => h.raises ha (checkMem_unaligned hal), fun _ hb => absurd hb Bool.false_ne_true,
    fun hal _ hl => h.raises ha (checkMem_unleased hn hal hl), fun hal _ hl hs hm => ?_⟩
  obtain rfl : nd = true := by simpa using hs
  exact h.raises ha (checkMem_device hal hl hm)

theorem State.ActsAfter.badStore (h : s.ActsAfter i (s.checkStore a va n) t) (hn : n < 2 ^ 32) (ha : s.Acts i) :
    Claim.BadAccess i s va n .write (decide ((a = .reg 30 ∨ a = .reg 31) ∧ va < (s.cr 2).toNat)) true := by
  refine ⟨fun hal => h.raises ha (checkStore_unaligned hal),
    fun hal hb => h.raises ha (checkStore_below hal (of_decide_eq_true hb)), fun hal hb hl => ?_,
    fun _ _ _ hs => absurd hs.symm Bool.false_ne_true⟩
  have hstack : s.checkStack a va = .ok () := if_neg (of_decide_eq_false hb)
  exact h.raises ha ((checkStore_eq hal hstack).trans (checkMem_unleased hn hal hl))

/-! ## Loads (R84, R96 to R98) -/

variable {hint : Hint} {acq : Option (Scope × BitVec 4)} {wr : List Byte → Wr}

theorem joins_of_issueLoad (h : exec i s = .next (s.issueLoad va n hint acq wr)) (hm : s.mtype va ≠ 1) :
    Claim.Joins i s va n hint acq wr := fun _ =>
  ⟨fun _ hl => h.trans (congrArg _ (issueLoad_ok hm hl)), fun _ hl => h.trans (congrArg _ (issueLoad_bad hm hl))⟩

theorem joinsDevice_of_issueLoad (h : exec i s = .next (s.issueLoad va n hint acq wr)) (hm : s.mtype va = 1) :
    Claim.JoinsDevice i s va n acq wr := by
  refine fun u => ⟨fun pa hr => h.trans ?_, fun hr => h.trans ?_⟩
  · simp only [State.issueLoad, hm, if_true, hr]
    rfl
  · simp only [State.issueLoad, hm, if_true, hr]
    rfl

/-! ## Stores (R96, R356) -/

theorem release_annot (m : Mod) :
    s.release (annot m) = if m.ord = .plain then none else some ⟨m.scope, m.paths, s.here.seq⟩ := by
  unfold State.release annot
  split <;> rfl

/-! ## What each instruction does once its check passes -/

theorem both_ok_bind {α β γ : Type} {p : Res α} {q : Res β} {v : α} {g : α × β → Res γ} (hp : p = .ok v) :
    (Res.both p q >>= g) = q >>= fun w => g (v, w) := by
  subst hp
  cases q <;> rfl

/-- An operand that can be read, beside an address whose check decides. -/
theorem both_checked_bind {α β γ : Type} {p : Res α} {q : Res β} {check : β → Res Unit} {v : α} {k : β}
    {g : α × β → Res γ} (hp : p = .ok v) (hq : q = .ok k) :
    (Res.both p (do let k ← q; check k; return k) >>= g) = check k >>= fun _ => g (v, k) := by
  subst hp hq
  change Res.both _ (check k >>= _) >>= g = _
  cases check k <;> rfl

variable {d : Dst} {v b : Src} {m : Mod} {imm : BitVec 21} {imm13 : BitVec 13} {r off : BitVec 6} {mask : BitVec 4}
  {x y z : Word} {w : Nat}

section
variable (hx : s.srcS a = .ok x)
include hx

theorem actsAfter_ldi : s.ActsAfter (.ldi d a imm) (s.checkMem (x + imm.signExtend 64).toNat 8 8 .read false false)
    (s.issueLoad (x + imm.signExtend 64).toNat 8 .normal none fun l => .s (Dst.num d) (BitVec.ofNat 64 (ofBytes l))) := by
  change s.slot _ _ = _
  rw [addrRI_ok hx]
  rfl

theorem actsAfter_nld : s.ActsAfter (.nld r a imm13) (s.checkMem (x + imm13.signExtend 64).toNat 64 64 .read true false)
    (s.issueLoad (x + imm13.signExtend 64).toNat 64 .normal none fun l =>
      .n (r.toNat % 8) (BitVec.ofNat 512 (ofBytes l))) := by
  change s.slot _ _ = _
  rw [addrRI_ok hx]
  rfl

theorem actsAfter_sti (hz : s.srcS v = .ok z) : s.ActsAfter (.sti v a imm)
    (s.checkStore a (x + imm.signExtend 64).toNat 8)
    (s.holdStore (x + imm.signExtend 64).toNat ((bytesOf 8 z.toNat).map some)) := by
  change s.slot _ _ = _
  rw [addrRI_ok hx]
  exact congrArg _ (both_ok_bind hz)

theorem actsAfter_nst : s.ActsAfter (.nst r a imm13) (s.checkMem (x + imm13.signExtend 64).toNat 64 64 .write true false)
    (s.holdStore (x + imm13.signExtend 64).toNat ((bytesOf 64 (s.nreg r.toNat).toNat).map some)) := by
  change s.slot _ _ = _
  rw [addrRI_ok hx]
  rfl

variable (hy : s.srcS b = .ok y)
include hy

theorem actsAfter_ld : s.ActsAfter (.ld d a b m)
    (s.checkMem (x + y).toNat (sizeBytes m.size) (sizeBytes m.size) .read false false)
    (s.issueLoad (x + y).toNat (sizeBytes m.size) m.hint (annot m) fun l =>
      .s (Dst.num d) (BitVec.ofNat 64 (ofBytes l))) := by
  change s.slot _ _ = _
  rw [addrRR_ok hx hy]
  rfl

theorem actsAfter_vld : s.ActsAfter (.vld d a b off mask)
    (s.checkMem (x + y + BitVec.ofNat 64 (32 * off.toNat)).toNat (s.cur.width / 8) (s.cur.width / 8) .read true false)
    (s.issueLoad (x + y + BitVec.ofNat 64 (32 * off.toNat)).toNat (s.cur.width / 8) .normal none fun l =>
      .v (Dst.num d) (BitVec.ofNat 1024 (ofBytes l))
        (BitVec.ofNat 1024 (Vec.activeBits 8 s.cur.width (s.act mask)))) := by
  change s.slot _ _ = _
  rw [addrV_ok hx hy]
  rfl

theorem actsAfter_st (hz : s.srcS v = .ok z) : s.ActsAfter (.st v a b m)
    (s.checkStore a (x + y).toNat (sizeBytes m.size))
    (s.holdStore (x + y).toNat ((bytesOf (sizeBytes m.size) z.toNat).map some) m.hint (annot m)) := by
  change s.slot _ _ = _
  rw [addrRR_ok hx hy]
  exact congrArg _ (both_ok_bind hz)

theorem actsAfter_vst (hw : s.srcV v s.cur.width 8 = .ok w) : s.ActsAfter (.vst v a b off mask)
    (s.checkMem (x + y + BitVec.ofNat 64 (32 * off.toNat)).toNat (s.cur.width / 8) (s.cur.width / 8) .write true false)
    (s.holdStore (x + y + BitVec.ofNat 64 (32 * off.toNat)).toNat (maskedBytes (s.cur.width / 8) (s.act mask) w)) := by
  change s.slot _ _ = _
  rw [both_checked_bind hw (addrV_ok hx hy)]
  rfl

end

end

theorem sizeBytes_le (z : Size) : sizeBytes z ≤ 8 := by
  unfold sizeBytes
  split <;> omega

end Sys2Proof.Machine

namespace Sys2Proof

open Sys2Proof.Machine

/-- Settles O10: what each load issues joins the loads outstanding. -/
theorem loadsJoinTheOutstanding : Obligations.LoadsJoinTheOutstanding := by
  refine fun s d n a b m imm imm13 off mask x y hx hy => ⟨?ld, ?ldi, ?vld, ?nld⟩
  case ld =>
    rintro va k rfl rfl ha hal hl
    have hi := (actsAfter_ld hx hy).next_of_checkMem ha hal hl nofun
    exact ⟨joins_of_issueLoad hi, joinsDevice_of_issueLoad hi⟩
  case ldi =>
    rintro va rfl ha hal hl
    have hi := (actsAfter_ldi hx).next_of_checkMem ha hal hl nofun
    exact ⟨joins_of_issueLoad hi, joinsDevice_of_issueLoad hi⟩
  case vld =>
    rintro va rfl ha hal hl hm
    exact joins_of_issueLoad ((actsAfter_vld hx hy).next_of_checkMem ha hal hl fun _ => hm) hm
  case nld =>
    rintro va rfl ha hal hl hm
    exact joins_of_issueLoad ((actsAfter_nld hx).next_of_checkMem ha hal hl fun _ => hm) hm

/-- Settles O11: a store whose check passes is held, with its bytes written out. -/
theorem storesAreHeld : Obligations.StoresAreHeld := by
  refine fun s v n a b m imm imm13 off mask x y z hx hy => ⟨?st, ?sti, ?vst, ?nst⟩
  case st =>
    rintro va k rfl rfl hz ha hal hs hl
    rw [(actsAfter_st hx hy hz).next ha (checkStore_ok hal hs hl), ← release_annot]
    rfl
  case sti =>
    rintro va rfl hz ha hal hs hl
    exact (actsAfter_sti hx hz).next ha (checkStore_ok hal hs hl)
  case vst =>
    rintro va w rfl hw ha hal hl hm
    rw [← maskedBytes_eq]
    exact (actsAfter_vst hx hy hw).next_of_checkMem ha hal hl fun _ => hm
  case nst =>
    rintro va rfl ha hal hl hm
    exact (actsAfter_nst hx).next_of_checkMem ha hal hl fun _ => hm

/-- Settles O12: each access by the faults of its check, in their order. -/
theorem badAccessesFault : Obligations.BadAccessesFault := by
  refine fun s d v n a b m imm imm13 off mask x y z hx hy => ⟨?scalar, ?immediate, ?vector, ?nest⟩
  case scalar =>
    rintro va k rfl rfl
    have hn : sizeBytes m.size < 2 ^ 32 := (sizeBytes_le _).trans_lt (by decide)
    exact ⟨(actsAfter_ld hx hy).badAccess hn, fun ha hz => (actsAfter_st hx hy hz).badStore hn ha⟩
  case immediate =>
    rintro va rfl
    exact ⟨(actsAfter_ldi hx).badAccess (by decide), fun ha hz => (actsAfter_sti hx hz).badStore (by decide) ha⟩
  case vector =>
    rintro va w rfl hw
    have hn : s.cur.width / 8 < 2 ^ 32 := by
      simp only [List.mem_cons, List.not_mem_nil, or_false] at hw
      omega
    exact ⟨(actsAfter_vld hx hy).badAccess hn, fun ha hv => (actsAfter_vst hx hy hv).badAccess hn ha⟩
  case nest =>
    rintro va rfl
    exact ⟨(actsAfter_nld hx).badAccess (by decide), (actsAfter_nst hx).badAccess (by decide)⟩

end Sys2Proof
end

section
/-! PROOF. The scratchpad, O13 and O14: a load delivers the bytes that are read, and a store writes each byte of its aligned
run once. -/

namespace Sys2Proof

theorem eltN_ofBytes (l : List Byte) : ∀ i, eltN 8 (ofBytes l) i = (l.getD i 0).toNat := by
  induction l with
  | nil => simp [ofBytes, eltN]
  | cons b l ih =>
    have hb := b.isLt
    rintro (_ | i)
    · simp only [eltN, ofBytes, List.getD_cons_zero]
      omega
    · have hdiv : (b.toNat + 256 * ofBytes l) / 2 ^ (8 * (i + 1)) = ofBytes l / 2 ^ (8 * i) := by
        rw [Nat.mul_succ, Nat.add_comm (8 * i), pow_add, ← Nat.div_div_eq_div_mul]
        congr 1
        omega
      rw [List.getD_cons_succ, ← ih, eltN, eltN, ofBytes, hdiv]

end Sys2Proof

namespace Sys2Proof.Machine

/-! ## Loads (R100, R181, R195) -/

section
variable {s t : State} {d : Dst} {a b : Src} {x y : Word} {lo n : Nat} {bytes : List Byte}

theorem spadLoadS_ok (hc : s.checkSpad lo n n = .ok ()) (hr : s.spadRead s.cur.ctx lo n = (t, bytes)) :
    s.spadLoadS d lo n = .ok (t.withFlight (resultS 0 d 4 (BitVec.ofNat 64 (ofBytes bytes)))) := by
  rw [State.spadLoadS, hc, hr]
  rfl

/-- A read of the scratchpad takes free values and changes nothing else. -/
theorem spadRead_frame (hr : s.spadRead s.cur.ctx lo n = (t, bytes)) : t = { s with free := t.free } := by
  obtain rfl := congrArg Prod.fst hr
  rfl

theorem exec_vspld {off : BitVec 6} {mask : BitVec 4} (hx : s.srcS a = .ok x) (hy : s.srcS b = .ok y)
    (hlo : lo = (x + y + BitVec.ofNat 64 (32 * off.toNat)).toNat) (h : s.Acts (.vspld d a b off mask))
    (hc : s.checkSpad lo (s.cur.width / 8) (s.cur.width / 8) = .ok ())
    (hr : s.spadRead s.cur.ctx lo (s.cur.width / 8) = (t, bytes)) :
    ∃ u, exec (.vspld d a b off mask) s = .next u ∧ t.SendsLanes u 8 4 d mask fun i => ((bytes.getD i 0).toNat, 0) := by
  subst hlo
  have hcur : t.cur = s.cur := by rw [spadRead_frame hr]
  have hact : t.act mask = s.act mask := by rw [spadRead_frame hr]; rfl
  simp only [← eltN_ofBytes]
  refine ⟨_, slot_bind h (addrV_ok hx hy) ?_, sendsLanes_putV ..⟩
  simp only [State.vBytes, hc, hr, hcur, hact]
  rfl

theorem esldWr_eq (k : Nat) (l : List Byte) : esldWr k l =
    if k = 8 then [.asc (BitVec.ofNat 2048 (ofBytes l)), .ph0]
    else if k = 9 then [.bsc (BitVec.ofNat 4096 (ofBytes l)), .ph0]
    else if k = 10 then [.asc (BitVec.ofNat 2048 (ofBytes (l.take 256))), .bsc (BitVec.ofNat 4096 (ofBytes (l.drop 256))),
      .ph0]
    else [.e k (BitVec.ofNat 128 (ofBytes l)) (BitVec.allOnes 128)] := by
  unfold esldWr
  split
  · rfl
  · rfl
  · rfl
  · next h8 h9 h10 => rw [if_neg h8, if_neg h9, if_neg h10]

theorem exec_esld {r : BitVec 6} {imm : BitVec 13} (hx : s.srcS a = .ok x) (hlo : lo = (x + imm.signExtend 64).toNat)
    (h : s.Acts (.esld r a imm)) (hc : s.checkSpad lo (esldSize r).1 (esldSize r).2 = .ok ())
    (hr : s.spadRead s.cur.ctx lo (esldSize r).1 = (t, bytes)) :
    exec (.esld r a imm) s = .next (t.withFlight ⟨3, esldWr r.toNat bytes, none, 0⟩) := by
  subst hlo
  exact slot_bind h (addrRI_ok hx) (by simp only [hc, hr]; rfl)

end

/-! ## Stores (R100, R181, R218) -/

section
variable {t : Task}

/-- Of a run within one window, each byte that is written reads back, whatever stands beside it. -/
theorem get_written_run (l : List (Option Byte)) : ∀ {sp : Tab (Option Byte)} {lo : Nat},
    lo % 0x10_0000 + l.length ≤ 0x10_0000 → ∀ j w, l[j]? = some (some w) →
      Tab.get none (t.written sp lo l) (t.spadPa (lo + j)) = some w := by
  induction l with
  | nil => exact fun _ j w hj => by simp at hj
  | cons b l ih =>
    intro sp lo hlo j w hj
    rw [List.length_cons] at hlo
    cases j with
    | zero =>
      obtain rfl : b = some w := by simpa using hj
      have hother : ∀ k, k < l.length → t.spadPa lo ≠ t.spadPa (lo + 1 + k) := fun k hk => by
        rw [Nat.add_assoc, spadPa_add (by omega)]
        omega
      exact (get_written_other l hother).trans (Tab.get_set_same_of_ne (Option.some_ne_none w))
    | succ j =>
      have hnext (sp : Tab (Option Byte)) : Tab.get none (t.written sp (lo + 1) l) (t.spadPa (lo + (j + 1))) = some w := by
        rw [Nat.add_comm j 1, ← Nat.add_assoc]
        exact ih (by omega) j w hj
      cases b with
      | none => exact hnext _
      | some b => exact hnext _

/-- A place that no byte of the run is written to reads as it did. -/
theorem get_written_unwritten {p : Nat} (l : List (Option Byte)) : ∀ {sp : Tab (Option Byte)} {lo : Nat},
    (∀ j w, l[j]? = some (some w) → p ≠ t.spadPa (lo + j)) →
      Tab.get none (t.written sp lo l) p = Tab.get none sp p := by
  induction l with
  | nil => exact fun _ => rfl
  | cons b l ih =>
    intro sp lo h
    have hl : ∀ j w, l[j]? = some (some w) → p ≠ t.spadPa (lo + 1 + j) := fun j w hj => by
      rw [Nat.add_right_comm, Nat.add_assoc]
      exact h (j + 1) w hj
    cases b with
    | none => exact ih hl
    | some b => exact (ih hl).trans (Tab.get_set_other_of_ne (Option.some_ne_none b) (h 0 b rfl))

end

section
variable {s t : State} {i : Instr} {a b v : Src} {x y z : Word} {lo n : Nat} {byte : Nat → Option Byte}

/-- `t` is `s` with the `n` bytes at logical address `lo` of the issuing context's scratchpad written, where `byte` gives
one, and nothing else changed. -/
def State.WritesSpad (s t : State) (lo n : Nat) (byte : Nat → Option Byte) : Prop :=
  let k := coreOf s.cur.ctx
  t = { s with cores := t.cores } ∧ (∀ j, j ≠ k → t.core j = s.core j) ∧
    t.core k = { s.core k with spad := (t.core k).spad } ∧
    (∀ j, j < n → ∀ w, byte j = some w → Tab.get none (t.core k).spad (s.here.task.spadPa (lo + j)) = some w) ∧
    ∀ p, (∀ j, j < n → byte j ≠ none → p ≠ s.here.task.spadPa (lo + j)) →
      Tab.get none (t.core k).spad p = Tab.get none (s.core k).spad p

theorem writesSpad_spadWrite (hlo : lo % 0x10_0000 + n ≤ 0x10_0000) :
    s.WritesSpad (s.spadWrite s.cur.ctx lo ((List.range n).map byte)) lo n byte := by
  have hget (j : Nat) (w : Byte) : ((List.range n).map byte)[j]? = some (some w) ↔ j < n ∧ byte j = some w := by
    by_cases hj : j < n <;> simp [hj]
  refine ⟨spadWrite_frame _ s lo, fun k hk => spadWrite_core_other hk _ s lo, ?_, fun j hj w hw => ?_, fun p hp => ?_⟩
  · rw [spadWrite_core]
  · rw [spadWrite_core]
    exact get_written_run _ (by simpa using hlo) j w ((hget j w).mpr ⟨hj, hw⟩)
  · rw [spadWrite_core]
    refine get_written_unwritten _ fun j w hj => ?_
    obtain ⟨hlt, hb⟩ := (hget j w).mp hj
    exact hp j hlt (by rw [hb]; exact Option.some_ne_none w)

/-- An access that is aligned to its size stays in one window, where that size divides a window's. -/
theorem within_window_of_checkSpad (hn : n ∣ 0x10_0000) (hc : s.checkSpad lo n n = .ok ()) :
    lo % 0x10_0000 + n ≤ 0x10_0000 := by
  have hal : lo % n = 0 := by
    by_contra h
    rw [State.checkSpad, if_pos h] at hc
    nomatch hc
  obtain ⟨k, hk⟩ := hn
  have hpos : 0 < k := Nat.pos_of_ne_zero fun h => by simp [h] at hk
  rw [hk, Nat.mod_mul, hal, Nat.zero_add, ← Nat.mul_succ]
  exact Nat.mul_le_mul_left n (Nat.mod_lt _ hpos)

theorem spadStoreS_ok (hz : s.srcS v = .ok z) (hc : s.checkSpad lo n n = .ok ()) :
    s.spadStoreS v lo n = .ok (s.spadWrite s.cur.ctx lo
      ((List.range n).map fun j => some (BitVec.ofNat 8 (z.toNat / 2 ^ (8 * j))))) := by
  rw [State.spadStoreS, both_ok hz hc]
  simp only [bind, Except.bind, bytesOf_eq_map, List.map_map, Function.comp_def]
  rfl

theorem exec_vspst {off : BitVec 6} {mask : BitVec 4} {w : Nat} (hx : s.srcS a = .ok x) (hy : s.srcS b = .ok y)
    (hlo : lo = (x + y + BitVec.ofNat 64 (32 * off.toNat)).toNat) (hv : s.srcV v s.cur.width 8 = .ok w)
    (h : s.Acts (.vspst v a b off mask)) (hc : s.checkSpad lo (s.cur.width / 8) (s.cur.width / 8) = .ok ()) :
    exec (.vspst v a b off mask) s = .next (s.spadWrite s.cur.ctx lo ((List.range (s.cur.width / 8)).map fun j =>
      if (s.act mask).testBit j then some (BitVec.ofNat 8 (w / 2 ^ (8 * j))) else none)) := by
  subst hlo
  change s.slot _ _ = _
  rw [both_checked_bind hv (addrV_ok hx hy), ← maskedBytes_eq]
  exact slot_bind h hc rfl

end

theorem sizeBytes_dvd (z : Size) : sizeBytes z ∣ 0x10_0000 := by
  unfold sizeBytes
  split <;> decide

end Sys2Proof.Machine

namespace Sys2Proof

open Sys2Proof.Machine

/-- Settles O13, an instruction at a time. -/
theorem scratchpadLoads : Obligations.ScratchpadLoads := by
  refine fun s d r a b sz imm imm13 off mask x y hx hy => ⟨?spld, ?spldi, ?vspld, ?esld⟩
  case spld =>
    rintro lo k rfl rfl h hc t bytes hr
    exact slot_bind h (addrRR_ok hx hy) (spadLoadS_ok hc hr)
  case spldi =>
    rintro lo rfl h hc t bytes hr
    exact slot_bind h (addrRI_ok hx) (spadLoadS_ok hc hr)
  case vspld => exact fun lo hlo h hc t bytes => exec_vspld hx hy hlo h hc
  case esld =>
    intro lo hlo h hc t bytes hr
    rw [← esldWr_eq]
    exact exec_esld hx hlo h hc hr

/-- Settles O14: each store is a write of a run that its alignment keeps within one window. -/
theorem scratchpadStores : Obligations.ScratchpadStores := by
  refine fun s v a b sz imm off mask x y z hx hy => ⟨?spst, ?spsti, ?vspst⟩
  case spst =>
    rintro lo k rfl rfl hz h hc
    exact ⟨_, slot_bind h (addrRR_ok hx hy) (spadStoreS_ok hz hc),
      writesSpad_spadWrite (within_window_of_checkSpad (sizeBytes_dvd sz) hc)⟩
  case spsti =>
    rintro lo rfl hz h hc
    exact ⟨_, slot_bind h (addrRI_ok hx) (spadStoreS_ok hz hc),
      writesSpad_spadWrite (within_window_of_checkSpad (by decide) hc)⟩
  case vspst =>
    intro lo w hlo hv hwidth h hc
    have hdvd : s.cur.width / 8 ∣ 0x10_0000 := by
      simp only [List.mem_cons, List.not_mem_nil, or_false] at hwidth
      rcases hwidth with hw | hw | hw <;> rw [hw] <;> decide
    exact ⟨_, exec_vspst hx hy hlo hv h hc, writesSpad_spadWrite (within_window_of_checkSpad hdvd hc)⟩

end Sys2Proof
end

section
/-! PROOF. Moves, O22: the bits of VANY, VALL and VMOV pack, and the elements of VMOV expand and VIOTA. -/

namespace Sys2Proof.Vec

theorem any_eq (w act m : Nat) : any w act m = (List.range (w / 8)).any fun i => m.testBit i && act.testBit i := by
  have hbit (i : Nat) : ((m &&& act) % 2 ^ (w / 8)).testBit i = (decide (i < w / 8) && (m.testBit i && act.testBit i)) := by
    rw [Nat.testBit_mod_two_pow, Nat.testBit_and]
  rw [any, Bool.eq_iff_iff, decide_eq_true_eq, List.any_eq_true]
  constructor
  · intro h
    obtain ⟨i, hi⟩ := Nat.exists_testBit_of_ne_zero h
    rw [hbit, Bool.and_eq_true, decide_eq_true_eq] at hi
    exact ⟨i, List.mem_range.mpr hi.1, hi.2⟩
  · rintro ⟨i, hi, hp⟩ h0
    have hi' := hbit i
    simp [h0, hp, List.mem_range.mp hi] at hi'

theorem all_eq (w act m : Nat) : all w act m = (List.range (w / 8)).all fun i => m.testBit i || !act.testBit i :=
  List.all_map

theorem testBit_pack (w act a i : Nat) :
    (pack w act a).1.testBit i = (decide (i < w / 8) && (act.testBit i && a.testBit (8 * i + 7))) := by
  have hbit (p : Bool) : (if p then 1 else 0 : Nat).testBit 0 = p := by cases p <;> rfl
  rw [pack, testBit_packN_one, hbit]
  rfl

theorem pack_lt (w act a : Nat) : (pack w act a).1 < 2 ^ (w / 8) := by
  simpa [pack] using packN_tabulate_lt 1 (w / 8) fun i => if bitN act i && bitN a (8 * i + 7) then 1 else 0

end Sys2Proof.Vec

namespace Sys2Proof.Machine

/-- An element counts by its bits alone, so that values that agree modulo 2^k are as good. -/
theorem LanesAre.of_mod {o : VOut} {k w act : Nat} {f g : Nat → Nat} (h : LanesAre o k w act fun i => (f i, 0))
    (hfg : ∀ i, f i % 2 ^ k = g i % 2 ^ k) : LanesAre o k w act fun i => (g i, 0) :=
  ⟨h.val_lt, fun i hi => by rw [h.elt i hi, hfg], h.mask_lt, h.on, h.st⟩

section
variable {s : State} {d : Dst} {m g : BitVec 6} {a b : Src} {sz : BitVec 2} {mask : BitVec 4} {x : Nat} {p r : Word}

theorem exec_vany (h : s.Acts (.vany g m mask)) : exec (.vany g m mask) s = .next (s.withFlight ⟨1, [.c (g.toNat % 8)
    ((List.range (s.cur.width / 8)).any fun i =>
      (s.mreg m.toNat).toNat.testBit i && (s.act mask).testBit i)], none, 0⟩) := by
  rw [← Vec.any_eq]
  exact slot_ok h

theorem exec_vall (h : s.Acts (.vall g m mask)) : exec (.vall g m mask) s = .next (s.withFlight ⟨1, [.c (g.toNat % 8)
    ((List.range (s.cur.width / 8)).all fun i =>
      (s.mreg m.toNat).toNat.testBit i || !(s.act mask).testBit i)], none, 0⟩) := by
  rw [← Vec.all_eq]
  exact slot_ok h

theorem exec_viota (h : s.Acts (.viota d m sz mask)) : ∃ u, exec (.viota d m sz mask) s = .next u ∧
    s.SendsLanes u (szBits sz) 2 d mask fun i =>
      (((List.range i).filter fun j => (s.mreg m.toNat).toNat.testBit (szBits sz / 8 * j)).length, 0) :=
  ⟨_, slot_ok h, _, (lanesAre_ewise ..).of_mod fun _ => Nat.mod_mod .., rfl⟩

theorem exec_vmovPack (h : s.Acts (.vmovPack g a mask)) (hx : s.srcV a s.cur.width 8 = .ok x) :
    ∃ v : Nat, v < 2 ^ (s.cur.width / 8) ∧
      (∀ i, i < s.cur.width / 8 → v.testBit i = ((s.act mask).testBit i && x.testBit (8 * i + 7))) ∧
      exec (.vmovPack g a mask) s = .next (s.withFlight ⟨2, [.m (g.toNat % 16) (BitVec.ofNat 128 v)
        (BitVec.ofNat 128 (s.act mask % 2 ^ (s.cur.width / 8)))], none, 0⟩) :=
  ⟨_, Vec.pack_lt .., fun i hi => by rw [Vec.testBit_pack, decide_eq_true hi, Bool.true_and], slot_bind h hx rfl⟩

end

end Sys2Proof.Machine

namespace Sys2Proof

open Sys2Proof.Machine

/-- Settles O22, an instruction at a time. -/
theorem vectorMoves : Obligations.VectorMoves := fun _ _ _ _ _ _ _ _ _ _ _ _ =>
  ⟨fun h hx hy => slot_bind h hx (by rw [hy]; rfl), fun h hx hy => slot_bind h (both_ok hx hy) rfl, exec_vany, exec_vall,
    fun h => slot_sendsLanes h rfl, exec_viota, exec_vmovPack⟩

end Sys2Proof
end
